-- ==== Sys2Proof/Word.lean ====
section
/-! DEFINITION. The word types of the GS-9700 and their plainest arithmetic. -/

namespace Sys2Proof

/-- One byte of storage (R5). -/
abbrev Byte := BitVec 8

/-- One 32-bit register value of a lane, and one instruction word (R71, R98). -/
abbrev Word := BitVec 32

/-- A 64-bit virtual address or register pair (R163). -/
abbrev Dword := BitVec 64

/-- A virtual address. -/
abbrev VAddr := BitVec 64

end Sys2Proof
end

