-- ==== Sys2Proof/Config.lean ====
section
/-! DEFINITION. What the GS-9700 fixes (the value columns of the spec's tables) and the free values: opaque
constants without a body, of which nothing can be proved but what holds of every value (log entries 6, 10, 11). -/

namespace Sys2Proof.Config

/-! ### Free values (log entry 6) -/

/-- The n-th free byte: content the spec leaves undefined. -/
opaque freeByte : Nat → Byte

/-- The n-th free number: a choice the spec leaves open. -/
opaque freeNat : Nat → Nat

/-! ### Keys, of which nothing is known (log entry 10) -/

/-- The secret number with which a key signs a message, by the key's number (R407, R416, R418). -/
opaque nonce : Nat → List Byte → Nat

/-- Number of the fused firmware signing key (R417). -/
opaque firmwareKey : Nat

/-- Number of the attestation key that the identity seed and a security version give (R416). -/
opaque attestKey : Nat → Nat

/-- Number of the identity key (R416). -/
opaque identityKey : Nat

/-- Digest and security version of the firmware image that a package is shipped with (R415). DESIGN CHOICE, safe: log
entry 51. -/
opaque shippedDigest : List Byte
/-- Its security version (R415, R417). DESIGN CHOICE, safe: log entry 51. -/
opaque shippedSvn : Nat

/-- Where the front end holds a sealed context's image in a partition's address space (R216, Table 15-6). DESIGN
CHOICE, safe: log entry 51. -/
opaque imageAddress : Nat → Nat

/-- Input-buffer slots of a port that every virtual function may use on a channel (R365). DESIGN CHOICE, safe: log
entry 51. -/
opaque sharedCredits : Nat → Nat

/-- Where the write flits of a copy into a window of another package place 256-byte block n of context c's window: the
spec's flits name no window (R287, Table 14-3). DESIGN CHOICE, safe: log entry 75. -/
opaque peerWindow : Nat → Nat → Nat

/-- Payload of a context record of an image, by the number of its copy (Table 13-9): the sections of which it consists
have no byte layout (R342). DESIGN CHOICE, unsafe: log entry 79. -/
opaque contextBytes : Nat → List Byte
/-- Payload of a package-state record, by 2^48 * domain + SSN (R342). DESIGN CHOICE, unsafe: log entry 79. -/
opaque packageBytes : Nat → List Byte

/-! ### Rows of DRAM (log entry 11) -/

/-- Where the row map puts a 64 KiB piece of package memory: channel, bank and subarray as one number of 17 bits, and
a sixteenth of the subarray's rows (R309, Table 12-5). -/
opaque rowPlace : Nat → Nat × Nat

/-- Whether a frame is a row that was spared in manufacture and is held outside its subarray (Table 12-4). -/
opaque rowSpared : Nat → Bool

/-- Whether the spare that would replace a frame's row lies outside its subarray (Table 12-4). -/
opaque spareOutside : Nat → Bool

/-! ### Values of the GS-9700 -/

/-- Dies of a package (Table 0-1). -/
def dies : Nat := 4
/-- Cores of a die (Table 0-1). -/
def coresPerDie : Nat := 160
/-- SIMD units of a core (Table 0-3). -/
def unitsPerCore : Nat := 4
/-- Words that a sub-gang issues before its turn ends (Table 4-2). -/
def quantum : Nat := 256
/-- Return stack depth per slice (Table 4-2). -/
def returnDepth : Nat := 16
/-- Jump frame depth per gang (Table 4-2). -/
def frameDepth : Nat := 8
/-- Compaction gathering limit in die cycles (Table 4-2). -/
def gatheringLimit : Nat := 1024
/-- Resident gangs of a SIMD unit (Table 4-2). -/
def gangSlots : Nat := 16
/-- Register granules of a SIMD unit (Table 4-2). -/
def granules : Nat := 1024
/-- Nesting depth of device launches (Table 7-5a). -/
def nestingDepth : Nat := 8
/-- Pending launch nodes of a package (Table 7-5a). -/
def launchPool : Nat := 65536
/-- Live scope barriers of a package (Table 7-5a). -/
def scopeBarriers : Nat := 1024
/-- Default watchdog limit in units of 1,024 die cycles (Tables 7-5a and 7-7). -/
def watchdogUnits : Nat := 16384
/-- Entries of a workgroup's command ring (R13). -/
def ringSlots : Nat := 64
/-- Scratchpad of a core in bytes (R13, Table 3-13: 521,984 bytes and the ring's 2,304). -/
def scratchpad : Nat := 524288
/-- Hardware barriers of a core (R31). -/
def barriers : Nat := 32

end Sys2Proof.Config
end

