-- ==== Sys2Proof/Machine/Tab.lean ====
section
/-! DEFINITION. Tables in one canonical form, of which State is built: association lists by rising key. A plain
table (Tab) lists only the entries that differ from what an unlisted key reads as, so equal tables are equal data;
a record table (Rec) lists the entries that exist. Memory is a plain table of bytes (Host.Cell). -/

namespace Sys2Proof.Machine

/-- A table of values by key. -/
abbrev Tab (α : Type) := List (Nat × α)

variable {α : Type}

/-- Puts an entry in its place among rising keys. -/
def Tab.place (k : Nat) (v : α) : Tab α → Tab α
  | [] => [(k, v)]
  | e :: t => if k < e.1 then (k, v) :: e :: t else e :: Tab.place k v t

/-- The table without the entries of a key. -/
def Tab.drop (k : Nat) (t : Tab α) : Tab α := t.filter (fun e => !Nat.beq e.1 k)

/-- The entry of a key, where the table lists one. -/
def Tab.find (k : Nat) : Tab α → Option α
  | [] => none
  | e :: t => if Nat.beq e.1 k then some e.2 else Tab.find k t

/-- The value of a key; an unlisted key reads as the default. -/
def Tab.read (dflt : α) (k : Nat) (t : Tab α) : α := (Tab.find k t).getD dflt

/-- Lists an entry that exists, whatever its value. -/
def Tab.set (k : Nat) (v : α) (t : Tab α) : Tab α := Tab.place k v (Tab.drop k t)

/-- Writes a value; an entry equal to the default is not listed. -/
def Tab.write [DecidableEq α] (dflt : α) (k : Nat) (v : α) (t : Tab α) : Tab α :=
  if v = dflt then Tab.drop k t else Tab.set k v t

/-- Replaces an existing entry by its image. -/
def Tab.update (k : Nat) (f : α → α) (t : Tab α) : Tab α :=
  t.map (fun e => if Nat.beq e.1 k then (e.1, f e.2) else e)

/-- The canonical form: keys strictly rising. -/
def Tab.rising : Tab α → Bool
  | [] => true
  | [_] => true
  | a :: b :: t => a.1 < b.1 && Tab.rising (b :: t)

/-- The canonical form of a plain table: keys strictly rising, no entry equal to the default. -/
def Tab.wf [DecidableEq α] (dflt : α) (t : Tab α) : Bool :=
  t.rising && t.all (fun e => e.2 ≠ dflt)

/-! ### Sets of numbers, in rising order -/

/-- A set of numbers as a rising list. -/
abbrev NatSet := List Nat

/-- Adds a number in its place. -/
def NatSet.place (k : Nat) : NatSet → NatSet
  | [] => [k]
  | a :: t => if k < a then k :: a :: t else a :: NatSet.place k t

/-- The set without a number. -/
def NatSet.drop (k : Nat) (t : NatSet) : NatSet := t.filter (fun a => !Nat.beq a k)

/-- The set with a number. -/
def NatSet.add (k : Nat) (t : NatSet) : NatSet := NatSet.place k (NatSet.drop k t)

/-- Membership. -/
def NatSet.has (k : Nat) (t : NatSet) : Bool := t.any (fun a => Nat.beq a k)

/-! ### Memory -/

/-- A memory of bytes: what an unlisted address reads as is zero (log entry 4). -/
abbrev Memory := List Host.Cell

/-- What an address that nothing has written reads as. DESIGN CHOICE, unsafe: log entry 4. -/
def Memory.unlisted : Byte := 0

/-- The byte at an address. DESIGN CHOICE, unsafe: log entry 4. -/
def Memory.get (a : Nat) (m : Memory) : Byte := Tab.read Memory.unlisted a m

/-- Writes the byte at an address, keeping the canonical form. -/
def Memory.put (a : Nat) (b : Byte) (m : Memory) : Memory := Tab.write Memory.unlisted a b m

/-- The canonical form of a memory: addresses strictly rising, no entry equal to what an unlisted address reads as. -/
def Memory.wf (m : Memory) : Bool := Tab.wf Memory.unlisted m

/-- The n bytes from an address. -/
def Memory.bytes (a n : Nat) (m : Memory) : List Byte := (List.range n).map (fun i => m.get (a + i))

/-- Writes bytes from an address on. -/
def Memory.putBytes (a : Nat) : List Byte → Memory → Memory
  | [], m => m
  | b :: bs, m => Memory.putBytes (a + 1) bs (Memory.put a b m)

end Sys2Proof.Machine
end

