-- ==== Sys2Proof/Machine/Bits.lean ====
section
/-! DEFINITION. Bit fields, byte order and sign extension of numbers, used by every layout of the spec (R4, R5). -/

namespace Sys2Proof.Machine

/-- Bits [hi:lo] of a number (R4). -/
def bits (n hi lo : Nat) : Nat := (n / 2 ^ lo) % 2 ^ (hi + 1 - lo)

/-- Bit i of a number. -/
def bit (n i : Nat) : Bool := (n / 2 ^ i) % 2 == 1

/-- The number of a truth value. -/
def ofBool (b : Bool) : Nat := if b then 1 else 0

/-- The two's-complement value of the low w bits. -/
def signed (w n : Nat) : Int :=
  let m := n % 2 ^ w
  if 2 ^ w ≤ 2 * m then (m : Int) - (2 ^ w : Nat) else (m : Int)

/-- The low w bits of an integer. -/
def wrap (w : Nat) (i : Int) : Nat := (i % ((2 ^ w : Nat) : Int)).toNat

/-- An integer clamped to a range. -/
def clamp (lo hi i : Int) : Int := if i < lo then lo else if hi < i then hi else i

/-- The n bytes of a number, the least significant first (R5). -/
def leBytes : Nat → Nat → List Byte
  | 0, _ => []
  | n + 1, v => BitVec.ofNat 8 v :: leBytes n (v / 256)

/-- The number of bytes given least significant first (R5). -/
def ofLeBytes : List Byte → Nat
  | [] => 0
  | b :: bs => b.toNat + 256 * ofLeBytes bs

/-- Whether a number is a multiple of another. -/
def aligned (n a : Nat) : Bool := a % n == 0

/-- The least power of two at or above 1 that reaches n, as an exponent bounded by fuel. -/
def log2Ceil : Nat → Nat → Nat → Nat
  | 0, _, e => e
  | f + 1, n, e => if n ≤ 2 ^ e then e else log2Ceil f n (e + 1)

/-- Bits of a mask, ascending, among the first n. -/
def maskBits (n mask : Nat) : List Nat := (List.range n).filter (fun i => bit mask i)

/-- The mask of a list of bit numbers. -/
def maskOf (l : List Nat) : Nat := l.foldl (fun m i => m ||| 2 ^ i) 0

/-- The least element of a list of numbers; the default where it is empty. -/
def leastOr (d : Nat) : List Nat → Nat
  | [] => d
  | a :: t => t.foldl Nat.min a

/-- Canonical virtual address (R163): bits [63:57] all equal bit 56. -/
def canonicalVa (a : Nat) : Bool := bits a 63 56 == 0 || bits a 63 56 == 255

/-- The n-th element of a list, or a default. -/
def nthOr {α : Type} (d : α) (l : List α) (n : Nat) : α := (l[n]?).getD d

/-- A list with its n-th element replaced by its image. -/
def mapNth {α : Type} (n : Nat) (f : α → α) : List α → List α
  | [] => []
  | a :: t => match n with
    | 0 => f a :: t
    | k + 1 => a :: mapNth k f t

/-- Quotient rounded up. -/
def ceilDiv (a b : Nat) : Nat := (a + b - 1) / b

end Sys2Proof.Machine
end

