-- ==== Sys2Proof/Machine/Float.lean ====
section
/-! DEFINITION. Floating-point values and their exact arithmetic with one rounding (R127-R133, R148-R152), on the bits
of an element. -/

namespace Sys2Proof.Machine

/-- A binary format: bits of the exponent and of the fraction (Table 5-2). -/
structure Fmt where
  ebits : Nat
  fbits : Nat
  deriving DecidableEq, Repr

/-- FP32. -/
def fp32 : Fmt := { ebits := 8, fbits := 23 }
/-- BF16. -/
def bf16 : Fmt := { ebits := 8, fbits := 7 }
/-- FP16. -/
def fp16 : Fmt := { ebits := 5, fbits := 10 }

/-- Exponent bias. -/
def Fmt.bias (f : Fmt) : Nat := 2 ^ (f.ebits - 1) - 1
/-- Bits of an element. -/
def Fmt.width (f : Fmt) : Nat := 1 + f.ebits + f.fbits
/-- The exponent field of infinities and NaNs. -/
def Fmt.top (f : Fmt) : Nat := 2 ^ f.ebits - 1
/-- The sign bit as a number. -/
def Fmt.signOf (f : Fmt) (s : Bool) : Nat := if s then 2 ^ (f.ebits + f.fbits) else 0
/-- Infinity of a sign. -/
def Fmt.inf (f : Fmt) (s : Bool) : Nat := f.signOf s + f.top * 2 ^ f.fbits
/-- The largest finite value of a sign (Table 5-3). -/
def Fmt.largest (f : Fmt) (s : Bool) : Nat := f.signOf s + f.top * 2 ^ f.fbits - 1
/-- The canonical NaN (Table 5-3). -/
def Fmt.nan (f : Fmt) : Nat := f.top * 2 ^ f.fbits + 2 ^ (f.fbits - 1)
/-- The poison encoding with sign 0 (Table 5-3). -/
def Fmt.poison (f : Fmt) : Nat := f.nan + 1
/-- Zero of a sign. -/
def Fmt.zero (f : Fmt) (s : Bool) : Nat := f.signOf s

/-- Sign of an element. -/
def Fmt.sign (f : Fmt) (x : Nat) : Bool := bit x (f.ebits + f.fbits)
/-- Exponent field of an element. -/
def Fmt.expo (f : Fmt) (x : Nat) : Nat := (x / 2 ^ f.fbits) % 2 ^ f.ebits
/-- Fraction field of an element. -/
def Fmt.frac (f : Fmt) (x : Nat) : Nat := x % 2 ^ f.fbits
/-- Whether an element is a NaN. -/
def Fmt.isNan (f : Fmt) (x : Nat) : Bool := f.expo x == f.top && f.frac x != 0
/-- Whether an element is an infinity. -/
def Fmt.isInf (f : Fmt) (x : Nat) : Bool := f.expo x == f.top && f.frac x == 0
/-- Whether an element is a zero. -/
def Fmt.isZero (f : Fmt) (x : Nat) : Bool := f.expo x == 0 && f.frac x == 0
/-- Whether an element is subnormal. -/
def Fmt.isSub (f : Fmt) (x : Nat) : Bool := f.expo x == 0 && f.frac x != 0
/-- Whether an element holds the poison encoding, whatever its sign (R127). -/
def Fmt.isPoison (f : Fmt) (x : Nat) : Bool := x % 2 ^ (f.ebits + f.fbits) == f.poison

/-- A subnormal input reads as zero of its sign under FTZ (R129). -/
def Fmt.ftzIn (f : Fmt) (ftz : Bool) (x : Nat) : Nat := if ftz && f.isSub x then f.zero (f.sign x) else x
/-- A subnormal result is written as zero of its sign under FTZ (R129). -/
def Fmt.ftzOut (f : Fmt) (ftz : Bool) (x : Nat) : Nat := f.ftzIn ftz x

/-- A finite value: (-1)^neg * mant * 2^exp. -/
structure Fin2 where
  neg : Bool
  mant : Nat
  exp : Int
  deriving DecidableEq, Repr

/-- The value of a finite element (R127). -/
def Fmt.value (f : Fmt) (x : Nat) : Fin2 :=
  let e := f.expo x
  { neg := f.sign x, mant := if e = 0 then f.frac x else 2 ^ f.fbits + f.frac x,
    exp := (if e = 0 then 1 else (e : Int)) - f.bias - f.fbits }

/-- Rounding modes of Table 5-4: whether the magnitude M with remainder is raised by one. odd: last bit of M;
cmp: the remainder against one half. -/
def roundsUp (rnd : Nat) (neg odd inexact : Bool) (cmp : Ordering) : Bool :=
  match rnd with
  | 0 => cmp == .gt || (cmp == .eq && odd)
  | 1 => false
  | 2 => inexact && !neg
  | 3 => inexact && neg
  | _ => cmp != .lt

/-- The overflow value of Table 5-4; SAT gives the largest finite value (R131). -/
def Fmt.overflow (f : Fmt) (rnd : Nat) (sat neg : Bool) : Nat :=
  if sat then f.largest neg
  else match rnd with
    | 1 => f.largest neg
    | 2 => if neg then f.largest true else f.inf false
    | 3 => if neg then f.inf true else f.largest false
    | _ => f.inf neg

/-- A magnitude rounded to a multiple of 2^sh: the quotient, of value (m + delta) / 2^sh with 0 <= delta < 1, delta
positive where sticky. Where sh is not positive m is exact or carries enough bits. -/
def roundShift (rnd : Nat) (neg sticky : Bool) (m : Nat) (sh : Int) : Nat :=
  if sh ≤ 0 then
    let q := m * 2 ^ (-sh).toNat
    if roundsUp rnd neg (q % 2 == 1) sticky .lt then q + 1 else q
  else
    let k := sh.toNat
    let q := m / 2 ^ k
    let r := m % 2 ^ k
    let half := 2 ^ (k - 1)
    let cmp := if r < half then .lt else if half < r || sticky then .gt else .eq
    if roundsUp rnd neg (q % 2 == 1) (r != 0 || sticky) cmp then q + 1 else q

/-- round(x, mode) into a format (R128) for x = (-1)^neg * (m + delta) * 2^e, delta as in roundShift; subnormals as
IEEE 754-2019 defines. A zero keeps its sign. -/
def Fmt.round (f : Fmt) (rnd : Nat) (sat neg : Bool) (m : Nat) (e : Int) (sticky : Bool) : Nat :=
  if m = 0 && !sticky then f.zero neg
  else
    let low : Int := 1 - f.bias - f.fbits
    let want : Int := (Nat.log2 m : Int) + e - f.fbits
    let q := if want < low then low else want
    let v := roundShift rnd neg sticky m (q - e)
    if v = 0 then f.zero neg
    else
      let k := Nat.log2 v
      if (f.bias : Int) < (k : Int) + q then f.overflow rnd sat neg
      else if k < f.fbits then f.signOf neg + v
      else f.signOf neg + ((k : Int) + q + f.bias).toNat * 2 ^ f.fbits + (v / 2 ^ (k - f.fbits) - 2 ^ f.fbits)

/-- Rounds an exact finite value (R128). -/
def Fmt.roundFin (f : Fmt) (rnd : Nat) (sat : Bool) (x : Fin2) : Nat := f.round rnd sat x.neg x.mant x.exp false

/-- Exact sum of finite values; an exact zero of operands of opposite sign is +0, or -0 under RDN (R128). -/
def Fin2.add (rnd : Nat) (x y : Fin2) : Fin2 :=
  let e := if x.exp < y.exp then x.exp else y.exp
  let a : Int := (if x.neg then -1 else 1) * (x.mant * 2 ^ (x.exp - e).toNat : Nat)
  let b : Int := (if y.neg then -1 else 1) * (y.mant * 2 ^ (y.exp - e).toNat : Nat)
  let r := a + b
  if r = 0 then { neg := if x.neg == y.neg && x.mant == 0 then x.neg else rnd == 3, mant := 0, exp := e }
  else { neg := r < 0, mant := r.natAbs, exp := e }

/-- Exact product of finite values. -/
def Fin2.mul (x y : Fin2) : Fin2 := { neg := x.neg ^^ y.neg, mant := x.mant * y.mant, exp := x.exp + y.exp }

/-- How an operation treats rounding, saturation and subnormals. -/
structure FMode where
  rnd : Nat := 0
  sat : Bool := false
  ftz : Bool := false
  deriving DecidableEq, Repr

/-- The end of every rounded operation: round, then FTZ (R133). Whether a result is tiny is judged on the result as the
format's subnormals round it (R129). DESIGN CHOICE, unsafe: log entry 72. -/
def Fmt.finish (f : Fmt) (m : FMode) (x : Fin2) : Nat := f.ftzOut m.ftz (f.roundFin m.rnd m.sat x)

/-- a + b with infinities and NaNs (R130, R148). -/
def Fmt.add (f : Fmt) (m : FMode) (x y : Nat) : Nat :=
  let a := f.ftzIn m.ftz x
  let b := f.ftzIn m.ftz y
  if f.isNan a || f.isNan b then f.nan
  else if f.isInf a then (if f.isInf b && f.sign a != f.sign b then f.nan else a)
  else if f.isInf b then b
  else f.finish m ((f.value a).add m.rnd (f.value b))

/-- The element with its sign inverted. -/
def Fmt.flip (f : Fmt) (x : Nat) : Nat := x % 2 ^ (f.ebits + f.fbits) + f.signOf (!f.sign x)

/-- a - b. -/
def Fmt.sub (f : Fmt) (m : FMode) (x y : Nat) : Nat := if f.isNan y then f.nan else f.add m x (f.flip y)

/-- a * b. -/
def Fmt.mul (f : Fmt) (m : FMode) (x y : Nat) : Nat :=
  let a := f.ftzIn m.ftz x
  let b := f.ftzIn m.ftz y
  let s := f.sign a ^^ f.sign b
  if f.isNan a || f.isNan b then f.nan
  else if f.isInf a then (if f.isZero b then f.nan else f.inf s)
  else if f.isInf b then (if f.isZero a then f.nan else f.inf s)
  else f.finish m ((f.value a).mul (f.value b))

/-- a * b + c with one rounding (R133), the factors of one format and the rest of another. -/
def Fmt.fmaFrom (f g : Fmt) (m : FMode) (x y z : Nat) : Nat :=
  let a := g.ftzIn m.ftz x
  let b := g.ftzIn m.ftz y
  let c := f.ftzIn m.ftz z
  let s := g.sign a ^^ g.sign b
  if g.isNan a || g.isNan b || f.isNan c then f.nan
  else if g.isInf a || g.isInf b then
    if g.isZero a || g.isZero b then f.nan
    else if f.isInf c && f.sign c != s then f.nan
    else f.inf s
  else if f.isInf c then c
  else f.finish m (((g.value a).mul (g.value b)).add m.rnd (f.value c))

/-- a * b + c with one rounding. -/
def Fmt.fma (f : Fmt) (m : FMode) (x y z : Nat) : Nat := f.fmaFrom f m x y z

/-- a / b, correctly rounded (R152). -/
def Fmt.div (f : Fmt) (m : FMode) (x y : Nat) : Nat :=
  let a := f.ftzIn m.ftz x
  let b := f.ftzIn m.ftz y
  let s := f.sign a ^^ f.sign b
  if f.isNan a || f.isNan b then f.nan
  else if f.isInf a then (if f.isInf b then f.nan else f.inf s)
  else if f.isInf b then f.zero s
  else if f.isZero b then (if f.isZero a then f.nan else f.inf s)
  else
    let p := f.value a
    let q := f.value b
    let n := p.mant * 2 ^ 64
    f.ftzOut m.ftz (f.round m.rnd m.sat s (n / q.mant) (p.exp - q.exp - 64) (n % q.mant != 0))

/-- The integer square root, by bits from the k-th down. -/
def isqrt (n : Nat) : Nat → Nat → Nat
  | 0, r => r
  | k + 1, r => if (r + 2 ^ k) * (r + 2 ^ k) ≤ n then isqrt n k (r + 2 ^ k) else isqrt n k r

/-- The square root, correctly rounded (R152). -/
def Fmt.sqrt (f : Fmt) (m : FMode) (x : Nat) : Nat :=
  let a := f.ftzIn m.ftz x
  if f.isNan a then f.nan
  else if f.isZero a then a
  else if f.sign a then f.nan
  else if f.isInf a then a
  else
    let v := f.value a
    let odd := v.exp % 2 != 0
    let n := v.mant * 2 ^ (if odd then 65 else 64)
    let e := if odd then v.exp - 65 else v.exp - 64
    let r := isqrt n 64 0
    f.ftzOut m.ftz (f.round m.rnd m.sat false r (e / 2) (r * r != n))

/-- The least element of minimumNumber (R149): -0 below +0, a lone NaN gives way. less: which of two is below. -/
def Fmt.below (f : Fmt) (x y : Nat) : Bool :=
  let mag := fun v => v % 2 ^ (f.ebits + f.fbits)
  if f.sign x then (if f.sign y then mag y < mag x else true) else (if f.sign y then false else mag x < mag y)

/-- minimumNumber (R149). -/
def Fmt.min (f : Fmt) (ftz : Bool) (x y : Nat) : Nat :=
  let a := f.ftzIn ftz x
  let b := f.ftzIn ftz y
  if f.isNan a && f.isNan b then f.nan else if f.isNan a then b else if f.isNan b then a
  else if f.below b a then b else a

/-- maximumNumber (R149). -/
def Fmt.max (f : Fmt) (ftz : Bool) (x y : Nat) : Nat :=
  let a := f.ftzIn ftz x
  let b := f.ftzIn ftz y
  if f.isNan a && f.isNan b then f.nan else if f.isNan a then b else if f.isNan b then a
  else if f.below a b then b else a

/-- How two elements compare (R145): none where a NaN is among them; zeros are equal. -/
def Fmt.compare (f : Fmt) (ftz : Bool) (x y : Nat) : Option Ordering :=
  let a := f.ftzIn ftz x
  let b := f.ftzIn ftz y
  if f.isNan a || f.isNan b then none
  else if f.isZero a && f.isZero b then some .eq
  else if a = b then some .eq
  else if f.below a b then some .lt else some .gt

/-- The class mask of a stored element (Table 5-9), poison apart. -/
def Fmt.cls (f : Fmt) (x : Nat) : Nat :=
  if f.isPoison x then 2 ^ 10
  else if f.isNan x then (if bit x (f.fbits - 1) then 2 ^ 9 else 2 ^ 8)
  else if f.isInf x then (if f.sign x then 2 ^ 0 else 2 ^ 7)
  else if f.isZero x then (if f.sign x then 2 ^ 3 else 2 ^ 4)
  else if f.isSub x then (if f.sign x then 2 ^ 2 else 2 ^ 5)
  else if f.sign x then 2 ^ 1 else 2 ^ 6

/-- A conversion between formats (R154): exact value, one rounding; NaN canonical. -/
def Fmt.convert (g f : Fmt) (m : FMode) (x : Nat) : Nat :=
  let a := g.ftzIn m.ftz x
  if g.isNan a then f.nan
  else if g.isInf a then f.inf (g.sign a)
  else f.finish m (g.value a)

/-- An integer rounded into a format (R154). -/
def Fmt.ofInt (f : Fmt) (m : FMode) (i : Int) : Nat :=
  f.finish m { neg := i < 0, mant := i.natAbs, exp := 0 }

/-- A finite element rounded to an integer (R128, R154); infinities give nothing. -/
def Fmt.toInt (f : Fmt) (m : FMode) (x : Nat) : Int :=
  let v := f.value (f.ftzIn m.ftz x)
  let q := roundShift m.rnd v.neg false v.mant (-v.exp)
  if v.neg then -(q : Int) else (q : Int)

/-- A BF16 or FP16 element widened exactly to FP32 (R153, R232); NaNs become canonical, poison is kept by its own
test. -/
def Fmt.widen (f : Fmt) (x : Nat) : Nat :=
  if f.isNan x then fp32.nan else if f.isInf x then fp32.inf (f.sign x) else fp32.roundFin 0 false (f.value x)

end Sys2Proof.Machine
end

