-- ==== Sys2Proof/Syntax.lean ====
section
/-! DEFINITION. The syntax: one constructor of Instr per row of the opcode table. The rows with bits are the
32-bit instruction words of HFY; the rows without are the happenings of the engines, the link, the front end and
the host (spec/95), whose operands name what they happen to. -/

namespace Sys2Proof

/-- A flit of Thamer Link as a receiver or sender sees it (R353, Table 14-2), with its payload in clear. The
checks of its CRC and of its AES-GCM tag are outcomes that come with it (log entry 10). -/
structure Flit where
  lk : BitVec 4 := 1
  ks : Bool := false
  lseq : BitVec 12 := 0
  ctrlo : BitVec 32 := 0
  spkg : Nat := 0
  dpkg : Nat := 0
  vf : Nat := 0
  vc : Nat := 0
  tk : BitVec 4 := 0
  tag : BitVec 12 := 0
  cr : BitVec 16 := 0
  payload : List Byte := []
  crcOk : Bool := true
  tagOk : Bool := true
  /-- an engine sent it, not a lane: what R204 and R205 tell apart, and no bit of Table 14-2 carries (log entry 77) -/
  engine : Bool := false
  deriving DecidableEq, Repr

/-- An incoming channel of a die (R332). -/
inductive Channel where
  | diePath (src : Nat) (vc : Nat)
  | fabric (spkg plane vc : Nat)
  | host (vf : Nat)
  deriving DecidableEq, Repr

/-- A snapshot marker's payload (R334, Table 13-6). -/
structure Marker where
  ssn : Nat
  domain : Nat
  colour : Bool
  sdie : Nat
  spkg : Nat
  liveports : BitVec 64
  deriving DecidableEq, Repr

/-- What a policy hook was called for (R381, Table 15-1): a fault record of a context, the admission of a
device launch request, of the launch of a chain entry, or of the run that a command asks for. -/
inductive Hook where
  | fault (ctx : Nat)
  | launchRequest (request : Nat)
  | chainEntry (vf chain entry : Nat)
  | run (cmd : Nat)
  deriving DecidableEq, Repr

/-- One partition's charge of a die's attribution period, in microjoules (R400). -/
structure Charge where
  part : Nat
  direct : Nat
  attributed : Nat
  deriving DecidableEq, Repr

/-- What the meter of a core that held contexts saw over a period: the energy of its core and array rails in nanojoules,
and the words that its SIMD units issued and the cell-steps of its array rows, of the lower and the upper half (Table
16-2). DESIGN CHOICE, safe: log entry 49. -/
structure CoreUse where
  core : Nat
  energy : Nat
  words : Nat × Nat
  steps : Nat × Nat
  deriving DecidableEq, Repr

/-- What the meter saw of a context over a period: words, cell-steps, and the DRAM and fabric energy of its own accesses
and commands in nanojoules (R403). -/
structure CtxUse where
  ctx : Nat
  words : Nat
  steps : Nat
  own : Nat
  deriving DecidableEq, Repr

/-- What a die's meter measured over an attribution period: the energies of Table 16-2's rows in nanojoules, with what
they are divided by: bytes moved for partitions and, of accesses that came over the link, into DRAM allocation units;
flits by virtual function; bytes of each partition's units that the Col moved. -/
structure Metered where
  cores : List CoreUse := []
  dram : Nat := 0
  bytes : List (Nat × Nat) := []
  arrived : List (Nat × Nat) := []
  background : Nat := 0
  link : Nat := 0
  flits : List (Nat × Nat) := []
  col : Nat := 0
  colBytes : List (Nat × Nat) := []
  idle : Nat := 0
  deriving DecidableEq, Repr

/-- A virtual function in a partition record: id, port set, weight in bytes (R352, R374). -/
structure VfRecord where
  vf : Nat
  ports : BitVec 64
  weight : Nat
  deriving DecidableEq, Repr

/-- A reserved core or half-core (R31): core number 160*die + core; half none, lower (false) or upper (true). -/
structure CoreShare where
  core : Nat
  half : Option Bool
  deriving DecidableEq, Repr

/-- The partition record of Table 15-2. -/
structure PartRecord where
  id : Nat
  root : Nat
  pmap : List (Nat × Nat)
  sstb : Nat
  pmin : Nat
  pmax : Nat
  wdcap : Nat
  preempt : Bool
  vfs : List VfRecord
  domain : Nat
  cores : List CoreShare
  dram : List (Nat × Nat)
  oppoint : Nat
  deriving DecidableEq, Repr

/-- A device register that a write can name (R7): a VCP page offset, a management page offset, or a port's
key register block. -/
inductive RegName where
  | vcp (vf off : Nat)
  | mgmt (off : Nat)
  | port (port off : Nat)
  | aging (level : Nat) (boost : Bool)
  deriving DecidableEq, Repr

/-- The opcode table's rows. A register field is its eight bits; `l` is the last-read bit (R73). -/
inductive Instr where
  /-- CLAUSE_HEADER (R62): A clause header is decoded with its whole clause; the clause waits for its WAIT flags, arms FA and FB, and then starts its words. -/
  | clauseHeader (wait : BitVec 12) (fa fb : BitVec 4) (len : BitVec 5)
  /-- NOP (R75): Does nothing. -/
  | nop
  /-- MODE (R77): Writes the mode register of every issuing slice. -/
  | mode (imm : BitVec 16)
  /-- GUARD (R78): Sets each lane's guard from bit 0 of va, with sense 0. -/
  | guard (l : Bool) (a : BitVec 8)
  /-- GUARD_INVERTED (R78): Sets each lane's guard from bit 0 of va, with sense 1. -/
  | guardInverted (l : Bool) (a : BitVec 8)
  /-- GUARD_OFF (R78): Turns the guard off: g := 1 and sense := 0. -/
  | guardOff
  /-- STAGE (R101): Replaces the gang's staging buffer with n consecutive registers. -/
  | stage (a n : BitVec 8)
  /-- MSAVE (R104): Writes each lane's active-mask bit into vd. -/
  | msave (d : BitVec 8)
  /-- MLOAD (R104): Loads the active mask from bit 0 of va. -/
  | mload (l : Bool) (a : BitVec 8)
  /-- MAND (R104): ANDs the active mask with bit 0 of va. -/
  | mand (l : Bool) (a : BitVec 8)
  /-- MANDN (R104): ANDs the active mask with the inverse of bit 0 of va. -/
  | mandn (l : Bool) (a : BitVec 8)
  /-- MOR (R104): ORs bit 0 of va into the active mask. -/
  | mor (l : Bool) (a : BitVec 8)
  /-- MSET (R104): Sets every lane of the active mask. -/
  | mset
  /-- MPOP (R104): Scalar count of the active lanes of the issuing slices. -/
  | mpop (d : BitVec 8)
  /-- MFIRST (R104): Scalar number of the lowest active lane. -/
  | mfirst (d : BitVec 8)
  /-- BRA (R105): Transfers every issuing slice to a relative target. -/
  | bra (o : BitVec 24)
  /-- CALL (R106): Pushes the return address and transfers to the target. -/
  | call (o : BitVec 24)
  /-- RET (R106): Pops each slice's return address and transfers to it, parting the sub-gang where the addresses differ. -/
  | ret
  /-- BZM (R107): A slice branches when its active mask is empty. -/
  | bzm (o : BitVec 16)
  /-- BNZM (R107): A slice branches when its active mask is not empty. -/
  | bnzm (o : BitVec 16)
  /-- BANY (R107): A slice branches when some enabled lane has vc bit 0 set. -/
  | bany (l : Bool) (c : BitVec 8) (o : BitVec 16)
  /-- BALL (R107): A slice branches when every enabled lane has vc bit 0 set. -/
  | ball (l : Bool) (c : BitVec 8) (o : BitVec 16)
  /-- JTX (R112): Branches each enabled lane through a jump table and opens a jump frame. -/
  | jtx (l : Bool) (x t : BitVec 8)
  /-- REGANG (R109): Parks the issuing slices under a reconvergence token. -/
  | regang (t : BitVec 3)
  /-- EXIT (R115): Ends the issuing slices; the last slice's EXIT waits for remote completions. -/
  | exit
  /-- YIELD (R116): Ends the current sub-gang's turn after its clause. -/
  | yield
  /-- YIELD_REGROUP (R116): Yields and makes the clause end a compaction point in compaction mode. -/
  | yieldRegroup
  /-- COMPACTION_GATHERING_LIMIT (R117): The gathering limit has passed since the first arrival at a compaction point, and gathering ends. -/
  | compactionGatheringLimit (ctx unit : Nat)
  /-- QUANTUM_EXPIRY (R95): A sub-gang's quantum count reaches the quantum, and the gang chooses the next runnable sub-gang. -/
  | quantumExpiry (ctx gang : Nat)
  /-- ADD (R138): Integer add per element, fitted under SAT. -/
  | add (l : Bool) (d a b : BitVec 8)
  /-- SUB (R138): Integer subtract per element, fitted under SAT. -/
  | sub (l : Bool) (d a b : BitVec 8)
  /-- MUL (R138): Integer multiply per element, fitted under SAT. -/
  | mul (l : Bool) (d a b : BitVec 8)
  /-- MULHI (R138): High half of the integer product per element. -/
  | mulhi (l : Bool) (d a b : BitVec 8)
  /-- MAD (R140): Integer multiply-add into vd, clamped once. -/
  | mad (l : Bool) (d a b : BitVec 8)
  /-- MADW (R140): 32-bit product added into a 64-bit register pair. -/
  | madw (l : Bool) (d a b : BitVec 8)
  /-- ADDC (R141): Add with carry, with the carry held in v(d+1). -/
  | addc (l : Bool) (d a b : BitVec 8)
  /-- SUBB (R141): Subtract with borrow, with the borrow held in v(d+1). -/
  | subb (l : Bool) (d a b : BitVec 8)
  /-- MIN (R138): Integer minimum per element. -/
  | min (l : Bool) (d a b : BitVec 8)
  /-- MAX (R138): Integer maximum per element. -/
  | max (l : Bool) (d a b : BitVec 8)
  /-- ABS (R142): Integer absolute value per element. -/
  | abs (l : Bool) (d a : BitVec 8)
  /-- NEG (R142): Integer negation per element. -/
  | neg (l : Bool) (d a : BitVec 8)
  /-- AND (R138): Bitwise AND. -/
  | and (l : Bool) (d a b : BitVec 8)
  /-- OR (R138): Bitwise OR. -/
  | or (l : Bool) (d a b : BitVec 8)
  /-- XOR (R138): Bitwise XOR. -/
  | xor (l : Bool) (d a b : BitVec 8)
  /-- NOT (R142): Bitwise complement. -/
  | not (l : Bool) (d a : BitVec 8)
  /-- SHL (R138): Shift left with zero fill. -/
  | shl (l : Bool) (d a b : BitVec 8)
  /-- SHR (R138): Logical shift right. -/
  | shr (l : Bool) (d a b : BitVec 8)
  /-- SAR (R138): Arithmetic shift right. -/
  | sar (l : Bool) (d a b : BitVec 8)
  /-- ROT (R138): Rotate left. -/
  | rot (l : Bool) (d a b : BitVec 8)
  /-- CLZ (R142): Count of leading zero bits per element. -/
  | clz (l : Bool) (d a : BitVec 8)
  /-- POPC (R142): Count of one bits per element. -/
  | popc (l : Bool) (d a : BitVec 8)
  /-- BREV (R142): Bit reversal per element. -/
  | brev (l : Bool) (d a : BitVec 8)
  /-- BFE (R143): Bit-field extract. -/
  | bfe (l : Bool) (d a b : BitVec 8)
  /-- BFI (R143): Bit-field insert. -/
  | bfi (l : Bool) (d a b : BitVec 8)
  /-- SEL (R144): Selects va or vb by bit 0 of vd. -/
  | sel (l : Bool) (d a b : BitVec 8)
  /-- CMP (R145): Integer comparison that writes a relation word. -/
  | cmp (l : Bool) (d a b : BitVec 8)
  /-- MOV (R146): Copies one register. -/
  | mov (l : Bool) (d a : BitVec 8)
  /-- MOV_W8 (R146): Copies a register pair. -/
  | movW8 (l : Bool) (d a : BitVec 8)
  /-- LDI (R147): Loads a sign-extended 16-bit immediate. -/
  | ldi (d : BitVec 8) (imm : BitVec 16)
  /-- LDIH (R147): Replaces the high half of vd with an immediate. -/
  | ldih (d : BitVec 8) (imm : BitVec 16)
  /-- FADD (R148): Floating-point add with one rounding. -/
  | fadd (l : Bool) (d a b : BitVec 8)
  /-- FSUB (R148): Floating-point subtract. -/
  | fsub (l : Bool) (d a b : BitVec 8)
  /-- FMUL (R148): Floating-point multiply. -/
  | fmul (l : Bool) (d a b : BitVec 8)
  /-- FFMA (R148): Fused multiply-add into vd with one rounding. -/
  | ffma (l : Bool) (d a b : BitVec 8)
  /-- FMIN (R149): IEEE minimumNumber. -/
  | fmin (l : Bool) (d a b : BitVec 8)
  /-- FMAX (R149): IEEE maximumNumber. -/
  | fmax (l : Bool) (d a b : BitVec 8)
  /-- FABS (R150): Clears each element's sign bit. -/
  | fabs (l : Bool) (d a : BitVec 8)
  /-- FNEG (R150): Inverts each element's sign bit. -/
  | fneg (l : Bool) (d a : BitVec 8)
  /-- FCMP (R145): Floating-point comparison that writes a relation word. -/
  | fcmp (l : Bool) (d a b : BitVec 8)
  /-- FCLASS (R151): Writes the class mask of each element. -/
  | fclass (l : Bool) (d a : BitVec 8)
  /-- FSQRT (R152): Correctly rounded square root. -/
  | fsqrt (l : Bool) (d a : BitVec 8)
  /-- FRCP (R153): Reciprocal. -/
  | frcp (l : Bool) (d a : BitVec 8)
  /-- FRSQ (R153): Reciprocal square root. -/
  | frsq (l : Bool) (d a : BitVec 8)
  /-- FEXP2 (R153): Base-2 exponential. -/
  | fexp2 (l : Bool) (d a : BitVec 8)
  /-- FLOG2 (R153): Base-2 logarithm. -/
  | flog2 (l : Bool) (d a : BitVec 8)
  /-- FSIN (R153): Sine. -/
  | fsin (l : Bool) (d a : BitVec 8)
  /-- FCOS (R153): Cosine. -/
  | fcos (l : Bool) (d a : BitVec 8)
  /-- FDIVS (R152): Correctly rounded division. -/
  | fdivs (l : Bool) (d a b : BitVec 8)
  /-- CVT (R154): Converts between the source and destination kinds. -/
  | cvt (l : Bool) (d a : BitVec 8) (src dst : BitVec 4)
  /-- PACK2 (R155): Packs two 32-bit sources into one packed register. -/
  | pack2 (l : Bool) (d a b : BitVec 8)
  /-- SHFL (R157): Indexed shuffle across lanes. -/
  | shfl (l : Bool) (d a b : BitVec 8)
  /-- SHFLUP (R157): Shuffle from a lower lane. -/
  | shflup (l : Bool) (d a b : BitVec 8)
  /-- SHFLDN (R157): Shuffle from a higher lane. -/
  | shfldn (l : Bool) (d a b : BitVec 8)
  /-- SHFLX (R157): XOR-indexed shuffle. -/
  | shflx (l : Bool) (d a b : BitVec 8)
  /-- VOTE_ANY (R159): 1 if some participant has va bit 0 set. -/
  | voteAny (l : Bool) (d a : BitVec 8)
  /-- VOTE_ALL (R159): 1 if every participant has va bit 0 set. -/
  | voteAll (l : Bool) (d a : BitVec 8)
  /-- VOTE_BALLOT (R159): Bit mask of the participants' va bit 0. -/
  | voteBallot (l : Bool) (d a : BitVec 8)
  /-- VOTE_EQ (R159): 1 if every participant holds the same va. -/
  | voteEq (l : Bool) (d a : BitVec 8)
  /-- REDUX_ADD (R160): Integer sum over the participants. -/
  | reduxAdd (l : Bool) (d a : BitVec 8)
  /-- REDUX_MIN (R160): Integer minimum over the participants. -/
  | reduxMin (l : Bool) (d a : BitVec 8)
  /-- REDUX_MAX (R160): Integer maximum over the participants. -/
  | reduxMax (l : Bool) (d a : BitVec 8)
  /-- REDUX_AND (R160): Bitwise AND over the participants. -/
  | reduxAnd (l : Bool) (d a : BitVec 8)
  /-- REDUX_OR (R160): Bitwise OR over the participants. -/
  | reduxOr (l : Bool) (d a : BitVec 8)
  /-- REDUX_XOR (R160): Bitwise XOR over the participants. -/
  | reduxXor (l : Bool) (d a : BitVec 8)
  /-- REDUX_FADD (R160): FP32 sum over the participants in ascending lane order. -/
  | reduxFadd (l : Bool) (d a : BitVec 8)
  /-- REDUX_FMIN (R160): FP32 minimum over the participants. -/
  | reduxFmin (l : Bool) (d a : BitVec 8)
  /-- REDUX_FMAX (R160): FP32 maximum over the participants. -/
  | reduxFmax (l : Bool) (d a : BitVec 8)
  /-- REDUX_SCANADD (R160): Inclusive prefix sum over the participants. -/
  | reduxScanadd (l : Bool) (d a : BitVec 8)
  /-- REDUX_ESCANADD (R160): Exclusive prefix sum over the participants. -/
  | reduxEscanadd (l : Bool) (d a : BitVec 8)
  /-- BCAST (R158): Broadcasts va of the lane that the leader's vb names. -/
  | bcast (l : Bool) (d a b : BitVec 8)
  /-- RDSP (R161): Reads a logical position value of the lane. -/
  | rdsp (d f : BitVec 8)
  /-- LD (R186): Loads from global memory or the scratchpad window. -/
  | ld (l : Bool) (d a : BitVec 8) (sem scope : BitVec 3) (size : BitVec 2)
  /-- ST (R186): Stores to global memory or the scratchpad window. -/
  | st (l : Bool) (d a : BitVec 8) (sem scope : BitVec 3) (size : BitVec 2)
  /-- LDS (R186): Scratchpad load in row or column mode. -/
  | lds (l : Bool) (d a : BitVec 8) (sem : BitVec 3) (size : BitVec 2)
  /-- STS (R186): Scratchpad store in row or column mode. -/
  | sts (l : Bool) (d a : BitVec 8) (sem : BitVec 3) (size : BitVec 2)
  /-- LDC (R186): Load from the constant segment on the CONST path. -/
  | ldc (l : Bool) (d a : BitVec 8) (size : BitVec 2)
  /-- ATOM (R187): Atomic read-modify-write that returns the old value. -/
  | atom (l : Bool) (d a : BitVec 8) (sem scope : BitVec 3) (z : BitVec 1)
  /-- ATOMNR (R187): Atomic read-modify-write with no result. -/
  | atomnr (l : Bool) (d a : BitVec 8) (sem scope : BitVec 3) (z : BitVec 1)
  /-- CAS (R188): Compare-and-swap. -/
  | cas (l : Bool) (d a : BitVec 8) (sem scope : BitVec 3) (z : BitVec 1)
  /-- FENCE (R191): Acquire and/or release fence at a scope. -/
  | fence (sem scope : BitVec 3)
  /-- PFENCE (R192): Path fence that bridges the named paths. -/
  | pfence (paths : BitVec 4) (scope : BitVec 3)
  /-- MONITOR (R193): Arms a watch on a line for each issuing slice. -/
  | monitor (l : Bool) (a : BitVec 8)
  /-- MWAIT (R194): Waits until a watch of an issuing slice fires. -/
  | mwait
  /-- MWAIT_WAKE (R194): A fired watch ends a pending MWAIT and disarms the watches. -/
  | mwaitWake (ctx gang sub : Nat)
  /-- PREF (R195): Requests lines into the caches. -/
  | pref (l : Bool) (lev : BitVec 1) (a : BitVec 8)
  /-- CCTL_INV (R196): Discards a line from the L1 and the remote-data cache. -/
  | cctlInv (l : Bool) (a : BitVec 8)
  /-- CCTL_WB (R196): Writes a line's dirty L2 sectors back to the device. -/
  | cctlWb (l : Bool) (a : BitVec 8)
  /-- CCTL_INVL1 (R196): Discards every global-memory line of the core's L1. -/
  | cctlInvl1
  /-- LOAD_COMPLETION (R69): A load's data arrives, writes its destination and clears the register's pending state. -/
  | loadCompletion (ctx gang access : Nat)
  /-- STORE_ACKNOWLEDGEMENT (R68): A store or atomic is acknowledged at its scope, and its flag count drops. -/
  | storeAcknowledgement (ctx gang access : Nat)
  /-- BARINIT (R207): Sets a named barrier's expected count and binds its word. -/
  | barinit (l : Bool) (x y : BitVec 8) (b : BitVec 5)
  /-- BARARR (R207): Marks the issuing slices as arrived at a named barrier. -/
  | bararr (b : BitVec 5)
  /-- BARWAIT (R207): Waits for the named phase of a barrier. -/
  | barwait (x : BitVec 8) (b : BitVec 5)
  /-- BARRIER_WAIT_RETURN (R202): A barrier wait returns once its phase has completed, acquiring and writing the result word. -/
  | barrierWaitReturn (ctx gang sub : Nat)
  /-- BARTEST (R207): Tests a barrier phase without waiting. -/
  | bartest (x : BitVec 8) (b : BitVec 5)
  /-- SBAR_INIT (R208): Makes a scope barrier word live. -/
  | sbarInit (l : Bool) (x y : BitVec 8) (scope : BitVec 3)
  /-- SBAR_ARR (R208): Arrives at a scope barrier. -/
  | sbarArr (l : Bool) (x : BitVec 8) (scope : BitVec 3)
  /-- SBAR_WAIT (R208): Waits on a scope barrier. -/
  | sbarWait (l : Bool) (x y : BitVec 8) (scope : BitVec 3)
  /-- SBAR_TEST (R208): Tests a scope barrier. -/
  | sbarTest (l : Bool) (x y : BitVec 8) (scope : BitVec 3)
  /-- SBAR_FIN (R208): Makes a scope barrier word ordinary memory again. -/
  | sbarFin (l : Bool) (x : BitVec 8) (scope : BitVec 3)
  /-- BARRIER_TIMEOUT (R210): A watchdog count reaches its limit; the context stops and is terminated. -/
  | barrierTimeout (ctx watch : Nat)
  /-- LAUNCH (R211): Adds a launch node to the graph walker. -/
  | launch (l : Bool) (d a : BitVec 8) (scope : BitVec 3)
  /-- LAUNCH_ANSWER (R212): The graph walker's answer to a LAUNCH is written to vd. -/
  | launchAnswer (request : Nat)
  /-- SYSR (R213): Reads a special register. -/
  | sysr (x r : BitVec 8)
  /-- SYSW (R213): Writes a writable special register. -/
  | sysw (l : Bool) (x r : BitVec 8)
  /-- TRAP (R215): Stops the context with a trap code after the word. -/
  | trap (code : BitVec 8)
  /-- MMA (R244): Multiplies canonical tiles into accumulator slots. -/
  | mma (l : Bool) (d a : BitVec 8) (b : BitVec 5)
  /-- MMAG (R245): Multiplies gathered rows by a canonical tile. -/
  | mmag (l : Bool) (d a : BitVec 8) (b : BitVec 5)
  /-- MACC_FILL (R246): Fills slots with one FP32 value. -/
  | maccFill (l : Bool) (d a : BitVec 8) (b : BitVec 5)
  /-- MACC_LOAD (R246): Loads slots from FP32 blocks or canonical tiles. -/
  | maccLoad (l : Bool) (d a : BitVec 8) (b : BitVec 5)
  /-- MACC_COPY (R246): Copies slots to other slots. -/
  | maccCopy (l : Bool) (d a : BitVec 8) (b : BitVec 5)
  /-- MST (R247): Stores slots to scratchpad or memory. -/
  | mst (l : Bool) (d a : BitVec 8) (b : BitVec 5)
  /-- MPAIR (R248): Requests to form a span of arrays. -/
  | mpair (l : Bool) (d a : BitVec 8) (b : BitVec 5)
  /-- PAIR_FORMATION_TIMEOUT (R248): A group not formed within the watchdog limit completes its pending MPAIRs with PAIR_MISMATCH. -/
  | pairFormationTimeout (core : Nat)
  /-- MREL (R249): Dissolves a span. -/
  | mrel (l : Bool) (d a : BitVec 8) (b : BitVec 5)
  /-- RFWD (R271): Converts an integer tile into a residue tile. -/
  | rfwd (l : Bool) (d a : BitVec 8) (b : BitVec 5)
  /-- RMMA (R272): Multiplies residue tiles into an accumulator pair. -/
  | rmma (l : Bool) (d a : BitVec 8) (b : BitVec 5)
  /-- RREV (R273): Checks and converts an accumulator pair to s32. -/
  | rrev (l : Bool) (d a : BitVec 8) (b : BitVec 5)
  /-- RCHK (R275): Checks an accumulator pair and corrects single residue errors. -/
  | rchk (l : Bool) (d a : BitVec 8) (b : BitVec 5)
  /-- RSCL (R274): Converts an accumulator pair and scales each column. -/
  | rscl (l : Bool) (d a : BitVec 8) (b : BitVec 5)
  /-- XCP (R291): Copies bytes between endpoints. -/
  | xcp (l : Bool) (d a : BitVec 8) (b : BitVec 5)
  /-- XCPR (R293): Reduce-copies elements into memory. -/
  | xcpr (l : Bool) (d a : BitVec 8) (b : BitVec 5)
  /-- XEXP (R298): Expands a stored tile into a canonical or int8 tile. -/
  | xexp (l : Bool) (d a : BitVec 8) (b : BitVec 5)
  /-- XPACK (R301): Packs a canonical tile into a storage format. -/
  | xpack (l : Bool) (d a : BitVec 8) (b : BitVec 5)
  /-- XCAN (R304): Cancels a copy of the issuing ring. -/
  | xcan (l : Bool) (d a : BitVec 8) (b : BitVec 5)
  /-- ROWCPY (R314): In-DRAM copy of frames. -/
  | rowcpy (l : Bool) (d a : BitVec 8) (b : BitVec 5)
  /-- ROWFILL (R314): Fills frames with a 32-bit pattern. -/
  | rowfill (l : Bool) (d a : BitVec 8) (b : BitVec 5)
  /-- ROWAND (R314): In-DRAM AND of frames. -/
  | rowand (l : Bool) (d a : BitVec 8) (b : BitVec 5)
  /-- ROWOR (R314): In-DRAM OR of frames. -/
  | rowor (l : Bool) (d a : BitVec 8) (b : BitVec 5)
  /-- ROWXOR (R314): In-DRAM XOR of frames. -/
  | rowxor (l : Bool) (d a : BitVec 8) (b : BitVec 5)
  /-- ROWNOT (R314): In-DRAM NOT of frames. -/
  | rownot (l : Bool) (d a : BitVec 8) (b : BitVec 5)
  /-- ROWQ (R319): Reports where a virtual address lies in DRAM. -/
  | rowq (l : Bool) (d a : BitVec 8) (b : BitVec 5)
  /-- SNAP (R344): Requests a snapshot of a colour. -/
  | snap (l : Bool) (d a : BitVec 8) (b : BitVec 5)
  /-- SNAPQ (R345): Reports the state of a colour. -/
  | snapq (l : Bool) (d a : BitVec 8) (b : BitVec 5)
  /-- SNAPREL (R346): Releases or aborts a colour. -/
  | snaprel (l : Bool) (d a : BitVec 8) (b : BitVec 5)
  /-- CGRUN (R379): Starts a run of a collective graph. -/
  | cgrun (l : Bool) (d a : BitVec 8) (b : BitVec 5)
  /-- GRUN (R379): Starts a run of a graph-walker graph. -/
  | grun (l : Bool) (d a : BitVec 8) (b : BitVec 5)
  /-- ERD (R404): Reads an energy counter into the scratchpad. -/
  | erd (l : Bool) (d a : BitVec 8) (b : BitVec 5)
  /-- RING_STALL_END (R16): The earlier command in the ring slot completes, and the stalled engine instruction publishes its command. -/
  | ringStallEnd (ctx gang sub : Nat)
  /-- ENGINE_COMMAND_START (R17): An engine takes a published command from its ring with acquire, judges acceptance and starts it. -/
  | engineCommandStart (cmd : Nat)
  /-- COMMAND_COMPLETION (R22): A command completes: it writes its status word and then arrives on its barrier or sets its flag. -/
  | commandCompletion (cmd : Nat)
  /-- DESTINATION_ARRIVAL (R285): Every write of a copy is acknowledged at its home, and the copy arrives on the destination barrier. -/
  | destinationArrival (cmd : Nat)
  /-- REMOTE_COMPLETION (R285): The destination acknowledges a copy's arrival, and the copy arrives on its RCB barrier. -/
  | remoteCompletion (cmd : Nat)
  /-- WORKGROUP_RETIRE (R25): A workgroup whose gangs have exited and whose commands and arrivals are settled retires. -/
  | workgroupRetire (ctx : Nat)
  /-- PREEMPTION_REQUEST (R219): The front end requests pre-emption of a workgroup, which stops its gangs and starts its drain. -/
  | preemptionRequest (ctx : Nat)
  /-- IMAGE_SEAL (R219): Once its drain ends, the context image is sealed, and a fault record is queued where a fault caused it. -/
  | imageSeal (ctx : Nat)
  /-- SNAPSHOT_START_REQUEST (R323): The allocator decides a start request, granting the colour with a new SSN or rejecting it with NOCOLOUR. -/
  | snapshotStartRequest (dom : Nat)
  /-- COLOUR_GRANT (R325): A grant reaches the die that issued the request, which leaves IDLE and records. -/
  | colourGrant (dom die : Nat) (col : Bool)
  /-- DIE_STATE_REPORT (R325): A die's report of its colour state reaches the allocator, which may change the colour's state. -/
  | dieStateReport (dom die : Nat) (col : Bool)
  /-- ALLOCATOR_STATE_NOTICE (R345): A notice of the allocator's colour state reaches a die. -/
  | allocatorStateNotice (dom die : Nat) (col : Bool)
  /-- STAGING_BUFFER_ROOM (R339): Room in the staging buffer lets a write that waited for staging proceed. -/
  | stagingBufferRoom (die : Nat)
  /-- COL_STAGING_DRAIN (R339): The Col moves a staged unit to the tier target. -/
  | colStagingDrain (die : Nat)
  /-- COL_SWEEP_UNIT (R339): The sweep visits a unit and saves it where the snapshot needs it. -/
  | colSweepUnit (dom die : Nat) (col : Bool)
  /-- TIER_WRITE_FAILURE (R341): A write to the tier target fails after retries and the snapshot fails. -/
  | tierWriteFailure (dom : Nat) (col : Bool)
  /-- CHANNEL_CLOSE_LIMIT (R341): The domain has not reached DRAINING within the channel-close limit, and the snapshot fails. -/
  | channelCloseLimit (dom : Nat) (col : Bool)
  /-- TAG_RESET_DONE (R325): Every tag of the domain on a die has been reset for the colour, and the die returns to IDLE. -/
  | tagResetDone (dom die : Nat) (col : Bool)
  /-- SNAPSHOT_MARKER (R333): A marker taken on a channel closes that channel and makes the die record if it has not. -/
  | snapshotMarker (die : Nat) (chan : Channel) (f : Flit)
  /-- WRITE (R355): A write flit is applied at its home and acknowledged. -/
  | write (port : Nat) (f : Flit)
  /-- READ_REQUEST (R354): A remote read request is served at its home. -/
  | readRequest (port : Nat) (f : Flit)
  /-- READ_RESPONSE (R354): A read response delivers data and poison marks to the requester. -/
  | readResponse (port : Nat) (f : Flit)
  /-- ATOMIC (R355): A remote atomic is performed at its home and answered. -/
  | atomic (port : Nat) (f : Flit)
  /-- ATOMIC_RESPONSE (R354): An atomic response delivers the old value. -/
  | atomicResponse (port : Nat) (f : Flit)
  /-- WRITE_ACKNOWLEDGEMENT (R363): A home's acknowledgement gives a write its remote completion. -/
  | writeAcknowledgement (port : Nat) (f : Flit)
  /-- BARRIER_ARRIVAL (R354): A remote barrier arrival counts on its barrier, or enters the image of a pre-empted workgroup. -/
  | barrierArrival (port : Nat) (f : Flit)
  /-- TEARDOWN_MARKER (R367): A receiving package drops later flits of the torn-down function and acknowledges. -/
  | teardownMarker (port : Nat) (f : Flit)
  /-- TEARDOWN_ACKNOWLEDGEMENT (R367): An acknowledgement of a teardown is counted; once every one has arrived the id leaves quarantine. -/
  | teardownAcknowledgement (port : Nat) (f : Flit)
  /-- GRAPH_DECREMENT (R372): A remote decrement is applied to a node's count, held for the next run or discarded. -/
  | graphDecrement (port : Nat) (f : Flit)
  /-- SLOT_REQUEST (R375): A Spire allocator decides a reduction-slot request for an instance key. -/
  | slotRequest (plane : Nat) (f : Flit)
  /-- SLOT_REPLY (R373): A slot reply grants a slot or answers NOSLOT, which leads to the fallback variant. -/
  | slotReply (port : Nat) (f : Flit)
  /-- SLOT_RELEASE (R375): A member's release frees the slot once every member has sent one. -/
  | slotRelease (plane : Nat) (f : Flit)
  /-- CONTRIBUTION (R376): A contribution reaches a slot, which combines the step and sends its result once all have arrived. -/
  | contribution (plane : Nat) (f : Flit)
  /-- RESULT (R377): A switch-reduction result is applied at a member and logged where a record requires. -/
  | result (port : Nat) (f : Flit)
  /-- REDUCE_WRITE (R355): A reduce-write flit is combined into its elements at the home and acknowledged. -/
  | reduceWrite (port : Nat) (f : Flit)
  /-- KEY_SWITCH (R361): A receiver takes a key-switch flit and from then on accepts only the new slot. -/
  | keySwitch (port : Nat) (f : Flit)
  /-- CREDIT (R365): A credit flit returns input-buffer credits to the sender. -/
  | credit (port : Nat) (f : Flit)
  /-- LINK_ACKNOWLEDGEMENT (R356): A control word's cumulative ACKSEQ frees copies in the replay buffer. -/
  | linkAcknowledgement (port : Nat) (ackSeq : BitVec 12)
  /-- LINK_NAK (R356): A NAK makes the sender resend every flit after ACKSEQ from the replay buffer. -/
  | linkNak (port : Nat) (ackSeq : BitVec 12)
  /-- FLIT_SEND (R365): A flit waiting for a credit and for replay room is sent on its hop. -/
  | flitSend (port : Nat)
  /-- KEY_SWITCH_SEND (R361): The active slot's counter reaches THR, and the sender switches keys or sets KREQ. -/
  | keySwitchSend (port : Nat)
  /-- RETRAIN (R358): One flit reaches its resend limit, and the port retrains its lane, or goes down after the retrain limit. -/
  | retrain (port : Nat)
  /-- RETRAIN_COMPLETE (R358): A retrain ends and sending resumes after ACKSEQ. -/
  | retrainComplete (port : Nat)
  /-- VF_TEARDOWN (R367): Firmware stops issue from a virtual function and waits for its responses. -/
  | vfTeardown (vf : Nat)
  /-- TEARDOWN_WAIT_EXPIRY (R367): The teardown bound passes; outstanding requests are lost, resources are released and markers are sent. -/
  | teardownWaitExpiry (vf : Nat)
  /-- CHUNK_DISPATCH (R374): A deficit-round-robin visit sends the ready chunks that a virtual function's deficit covers. -/
  | chunkDispatch
  /-- CHUNK_COMPLETION (R372): A chunk operation finishes and decrements its successors and remote node, or fails its run. -/
  | chunkCompletion (handle node : Nat)
  /-- SLOT_RETRY (R377): A restored member that waits for a slot grant requests it again every 2^16 cycles. -/
  | slotRetry (handle node : Nat)
  /-- NOTIFY (R384): A write to NOTIFY makes firmware read the virtual command processor page and take published entries. -/
  | notify (vf : Nat)
  /-- CHAIN_ENABLE (R384): A write of CTL EN from 0 to 1 enables the chain and resets HEAD, TAIL and CSEQ. -/
  | chainEnable (vf chain : Nat)
  /-- ENGINE (R386): A chain entry that carries an engine command. -/
  | engine (vf chain entry : Nat)
  /-- CHAIN_LAUNCH (R386): A chain entry that launches a kernel. -/
  | chainLaunch (vf chain entry : Nat)
  /-- GLOAD (R390): A chain entry that checks and loads a graph image. -/
  | gload (vf chain entry : Nat)
  /-- GUNLOAD (R386): A chain entry that unloads a graph. -/
  | gunload (vf chain entry : Nat)
  /-- CHAIN_RUN (R386): A chain entry that starts a run of a graph. -/
  | chainRun (vf chain entry : Nat)
  /-- RESTORE (R347): A chain entry that restores a pre-emption image or a snapshot chain. -/
  | restore (vf chain entry : Nat)
  /-- TINV (R394): A chain entry that invalidates the partition's translations. -/
  | tinv (vf chain entry : Nat)
  /-- CNTR (R386): A chain entry that writes the partition's counters. -/
  | cntr (vf chain entry : Nat)
  /-- CHAIN_ENTRY_COMPLETION (R386): A chain entry completes: RESULT is written and CSEQ rises. -/
  | chainEntryCompletion (vf chain entry : Nat)
  /-- NODE_DISPATCH (R392): The walker dispatches the highest ready node to its unit, placing workgroups on cores. -/
  | nodeDispatch
  /-- OPERATING_POINT_STABLE (R397): A raised operating point becomes stable, and held workgroups start. -/
  | operatingPointStable (die : Nat)
  /-- POLICY_HOOK_ANSWER (R381): A plug-in answers FAULT or ADMIT, and the scheduler acts on it. -/
  | policyHookAnswer (h : Hook) (answer : Nat)
  /-- POLICY_HOOK_TIMEOUT (R381): A hook has not returned within its bound, and the default is applied. -/
  | policyHookTimeout (h : Hook)
  /-- ATTRIBUTION_PERIOD_END (R400): A die's attribution period ends; its energy is divided and sent as charges to die 0. -/
  | attributionPeriodEnd (die : Nat) (m : Metered) (ctxs : List CtxUse)
  /-- PERIOD_CHARGE (R400): Die 0 adds a die's charges of one period to the counters in one indivisible update. -/
  | periodCharge (die : Nat)
  /-- MIRROR_WRITE (R406): At each mirror interval, firmware writes the counters whole to non-volatile storage. -/
  | mirrorWrite
  /-- SIGNED_READING (R408): Firmware serves a request for a signed reading, signs it and writes it to ROUT. -/
  | signedReading (vf : Nat)
  /-- PARTITION_CREATE (R382): Management request 0x01 creates or changes a partition record. -/
  | partitionCreate (rec : PartRecord)
  /-- PARTITION_DELETE (R412): Management request 0x02 deletes a partition. -/
  | partitionDelete
  /-- FAULT_WINDOW_SET (R419): Management request 0x03 sets W and T of a fault source class. -/
  | faultWindowSet
  /-- FIRMWARE_STAGE (R417): Management request 0x04 verifies an image and stages it into the inactive slot. -/
  | firmwareStage
  /-- ATTESTATION_REPORT (R418): Management request 0x05 writes a signed attestation report. -/
  | attestationReport
  /-- ATTESTATION_CERTIFICATE (R416): Management request 0x06 returns the attestation certificate. -/
  | attestationCertificate
  /-- WARM_RESET (R414): Request 0x07, or an FLR of physical function 0, pre-empts every context, releases every colour, writes the mirror and resets. -/
  | warmReset
  /-- POWER_LIMIT_SET (R413): Management request 0x08 sets the package power limit. -/
  | powerLimitSet
  /-- LINK_KEY_WRITE (R362): Management request 0x09 writes a Thamer Link key slot. -/
  | linkKeyWrite
  /-- VF_FUNCTION_LEVEL_RESET (R411): An FLR of a virtual function tears it down and returns its page to its reset state. -/
  | vfFunctionLevelReset (vf : Nat)
  /-- COLD_RESET (R415): Power is applied, and bring-up runs its steps up to READY. -/
  | coldReset
  /-- UNEXPECTED_RESET (R406): A power loss or PERST# resets the package; the counters reload with the gap bound added. -/
  | unexpectedReset
  /-- REGISTER_WRITE (R7): A write to a register that has no row of its own stores its RW fields and clears its W1C bits. -/
  | registerWrite (reg : RegName) (value : Nat)
  /-- POWER_LIMIT_REACHED (R413): The package's measured power reaches its power limit, and the package lowers every die's operating point to stay within it. -/
  | powerLimitReached
  deriving DecidableEq, Repr

end Sys2Proof
end

