-- ==== Sys2Proof/WellFormed.lean ====
section
/-! DEFINITION. Which terms of the syntax are instructions: the values that each field may take (Table 3-11), and
for the rows without bits the ranges of what their operands name. -/

namespace Sys2Proof

/-- A register that may name a pair (R74, R125). -/
def evenReg (r : BitVec 8) : Bool := !r.getLsbD 0

/-- A scope value that is not reserved (Table 1-2). -/
def scopeOk (s : BitVec 3) : Bool := s.toNat ≤ 5

/-- Semantics that a load accepts (Table 2-2): relaxed, acquire, sc. -/
def loadSem (s : BitVec 3) : Bool := s == 0 || s == 1 || s == 4
/-- Semantics that a store or ATOMNR accepts (Table 2-2): relaxed, release, sc. -/
def storeSem (s : BitVec 3) : Bool := s == 0 || s == 2 || s == 4
/-- Semantics that ATOM and CAS accept (Table 2-2): all five. -/
def atomSem (s : BitVec 3) : Bool := s.toNat ≤ 4
/-- Semantics that FENCE accepts (Table 2-2): all but relaxed. -/
def fenceSem (s : BitVec 3) : Bool := 1 ≤ s.toNat && s.toNat ≤ 4
/-- Scopes of SBAR (R208). -/
def sbarScope (s : BitVec 3) : Bool := 1 ≤ s.toNat && s.toNat ≤ 3
/-- A flag number (R81). -/
def flagOk (b : BitVec 5) : Bool := b.toNat ≤ 11
/-- A flag field of a clause header (Table 3-1). -/
def headerFlag (f : BitVec 4) : Bool := f.toNat ≤ 11 || f.toNat == 15
/-- A data register of an access of the given size (R74). -/
def dataReg (d : BitVec 8) (size : BitVec 2) : Bool := size != 3 || evenReg d
/-- A MODE immediate without reserved values (Table 3-3). -/
def modeOk (imm : BitVec 16) : Bool :=
  imm.extractLsb' 10 6 == 0 && (imm.extractLsb' 5 3).toNat ≤ 4 && (imm.extractLsb' 0 5).toNat ≤ 10
/-- A conversion kind of Table 5-11 on a register: 64-bit kinds name pairs. -/
def kindOk (k : BitVec 4) (r : BitVec 8) : Bool := k.toNat ≤ 12 && (!(k == 2 || k == 3) || evenReg r)

/-- The fields of an instruction hold values that its entry permits (R72, R82). -/
def Instr.wellFormed : Instr → Bool
  | .clauseHeader _ fa fb len => headerFlag fa && headerFlag fb && len != 0
  | .mode imm => modeOk imm
  | .stage _ n => 1 ≤ n.toNat && n.toNat ≤ 16
  | .madw _ d _ _ | .addc _ d _ _ | .subb _ d _ _ => evenReg d
  | .movW8 _ d a => evenReg d && evenReg a
  | .cvt _ d a src dst => kindOk src a && kindOk dst d
  | .rdsp _ f => f.toNat ≤ 9
  | .ld _ d a sem scope size => loadSem sem && scopeOk scope && evenReg a && dataReg d size
  | .st _ d a sem scope size => storeSem sem && scopeOk scope && evenReg a && dataReg d size
  | .lds _ d _ sem size => loadSem sem && dataReg d size
  | .sts _ d _ sem size => storeSem sem && dataReg d size
  | .ldc _ d _ size => dataReg d size
  | .atom _ d a sem scope _ | .cas _ d a sem scope _ => atomSem sem && scopeOk scope && evenReg a && evenReg d
  | .atomnr _ d a sem scope _ => storeSem sem && scopeOk scope && evenReg a && evenReg d
  | .fence sem scope => fenceSem sem && scopeOk scope
  | .pfence paths scope => paths != 0 && scopeOk scope
  | .monitor _ a | .pref _ _ a | .cctlInv _ a | .cctlWb _ a => evenReg a
  | .sbarInit _ x _ scope | .sbarWait _ x _ scope | .sbarTest _ x _ scope => evenReg x && sbarScope scope
  | .sbarArr _ x scope | .sbarFin _ x scope => evenReg x && sbarScope scope
  | .launch _ _ _ scope => scopeOk scope
  | .sysr _ r => r.toNat ≤ 0x0D
  | .sysw _ _ r => r == 0x0B
  | .mma _ _ _ b | .mmag _ _ _ b | .maccFill _ _ _ b | .maccLoad _ _ _ b | .maccCopy _ _ _ b | .mst _ _ _ b
  | .mpair _ _ _ b | .mrel _ _ _ b | .rfwd _ _ _ b | .rmma _ _ _ b | .rrev _ _ _ b | .rchk _ _ _ b
  | .rscl _ _ _ b | .xcan _ _ _ b | .rowq _ _ _ b | .snap _ _ _ b | .snapq _ _ _ b | .snaprel _ _ _ b
  | .erd _ _ _ b => flagOk b
  | .colourGrant _ die _ | .dieStateReport _ die _ | .allocatorStateNotice _ die _ | .tagResetDone _ die _
  | .colSweepUnit _ die _ | .stagingBufferRoom die | .colStagingDrain die | .snapshotMarker die _ _
  | .operatingPointStable die | .periodCharge die | .attributionPeriodEnd die _ _ => die < 4
  | .write port _ | .readRequest port _ | .readResponse port _ | .atomic port _ | .atomicResponse port _
  | .writeAcknowledgement port _ | .barrierArrival port _ | .teardownMarker port _
  | .teardownAcknowledgement port _ | .graphDecrement port _ | .slotReply port _ | .result port _
  | .reduceWrite port _ | .keySwitch port _ | .credit port _ | .linkAcknowledgement port _ | .linkNak port _
  | .flitSend port | .keySwitchSend port | .retrain port | .retrainComplete port => port < 64
  | .slotRequest plane _ | .slotRelease plane _ | .contribution plane _ => plane < 64
  | _ => true

/-- Well-formedness as a proposition. -/
def Instr.WF (i : Instr) : Prop := i.wellFormed = true

end Sys2Proof
end

