-- ==== Sys2Proof/Decode.lean ====
section
/-! DEFINITION. The decoder of instruction words and clause headers (R61, R71-R74, R79-R82), total and rejecting
every undefined encoding of Table 3-11 that one word decides, and the encoder written from the same tables. -/

namespace Sys2Proof

/-- An instruction under a condition on its word. -/
def given (c : Bool) (i : Instr) : Option Instr := if c then some i else none

/-- The candidate of the stream, mask and control words (Tables 3-8, 3-9; R75-R78, R101-R116): the instruction whose unused fields are all zero (R72). -/
def candidateControl (op : Nat) (l : Bool) (d a b : BitVec 8) : Option Instr :=
  match op with
  | 0x00 => given (!l && d == 0 && a == 0 && b == 0) .nop
  | 0x01 => given (!l && d == 0) (.mode (a ++ b))
  | 0x02 =>
    match b.toNat with
    | 0 => given (d == 0) (.guard l a)
    | 1 => given (d == 0) (.guardInverted l a)
    | 2 => given (!l && d == 0 && a == 0) .guardOff
    | _ => none
  | 0x03 => given (!l && d == 0) (.stage a b)
  | 0x04 =>
    match b.toNat with
    | 0 => given (!l && a == 0) (.msave d)
    | 1 => given (d == 0) (.mload l a)
    | 2 => given (d == 0) (.mand l a)
    | 3 => given (d == 0) (.mandn l a)
    | 4 => given (d == 0) (.mor l a)
    | 5 => given (!l && d == 0 && a == 0) .mset
    | 6 => given (!l && a == 0) (.mpop d)
    | 7 => given (!l && a == 0) (.mfirst d)
    | _ => none
  | 0x05 => given (!l) (.bra (d ++ a ++ b))
  | 0x06 => given (!l) (.call (d ++ a ++ b))
  | 0x07 => given (!l && d == 0 && a == 0 && b == 0) .ret
  | 0x08 => given (!l && d == 0) (.bzm (a ++ b))
  | 0x09 => given (!l && d == 0) (.bnzm (a ++ b))
  | 0x0a => some (.bany l d (a ++ b))
  | 0x0b => some (.ball l d (a ++ b))
  | 0x0c => given (a == 0) (.jtx l d b)
  | 0x0d => given (!l && d == 0 && a == 0 && b.extractLsb' 3 5 == 0) (.regang (b.extractLsb' 0 3))
  | 0x0e => given (!l && d == 0 && a == 0 && b == 0) .exit
  | 0x0f =>
    match b.toNat with
    | 0 => given (!l && d == 0 && a == 0) .yield
    | 1 => given (!l && d == 0 && a == 0) .yieldRegroup
    | _ => none
  | _ => none

/-- The candidate of the integer words (Table 3-8; R138-R147): the instruction whose unused fields are all zero (R72). -/
def candidateInteger (op : Nat) (l : Bool) (d a b : BitVec 8) : Option Instr :=
  match op with
  | 0x10 => some (.add l d a b)
  | 0x11 => some (.sub l d a b)
  | 0x12 => some (.mul l d a b)
  | 0x13 => some (.mulhi l d a b)
  | 0x14 => some (.mad l d a b)
  | 0x15 => some (.madw l d a b)
  | 0x16 => some (.addc l d a b)
  | 0x17 => some (.subb l d a b)
  | 0x18 => some (.min l d a b)
  | 0x19 => some (.max l d a b)
  | 0x1a => given (b == 0) (.abs l d a)
  | 0x1b => given (b == 0) (.neg l d a)
  | 0x1c => some (.and l d a b)
  | 0x1d => some (.or l d a b)
  | 0x1e => some (.xor l d a b)
  | 0x1f => given (b == 0) (.not l d a)
  | 0x20 => some (.shl l d a b)
  | 0x21 => some (.shr l d a b)
  | 0x22 => some (.sar l d a b)
  | 0x23 => some (.rot l d a b)
  | 0x24 => given (b == 0) (.clz l d a)
  | 0x25 => given (b == 0) (.popc l d a)
  | 0x26 => given (b == 0) (.brev l d a)
  | 0x27 => some (.bfe l d a b)
  | 0x28 => some (.bfi l d a b)
  | 0x29 => some (.sel l d a b)
  | 0x2a => some (.cmp l d a b)
  | 0x2b =>
    match b.toNat with
    | 0 => some (.mov l d a)
    | 1 => some (.movW8 l d a)
    | _ => none
  | 0x2c => given (!l) (.ldi d (a ++ b))
  | 0x2d => given (!l) (.ldih d (a ++ b))
  | _ => none

/-- The candidate of the floating-point and cross-lane words (Table 3-8; R148-R161): the instruction whose unused fields are all zero (R72). -/
def candidateFloat (op : Nat) (l : Bool) (d a b : BitVec 8) : Option Instr :=
  match op with
  | 0x30 => some (.fadd l d a b)
  | 0x31 => some (.fsub l d a b)
  | 0x32 => some (.fmul l d a b)
  | 0x33 => some (.ffma l d a b)
  | 0x34 => some (.fmin l d a b)
  | 0x35 => some (.fmax l d a b)
  | 0x36 => given (b == 0) (.fabs l d a)
  | 0x37 => given (b == 0) (.fneg l d a)
  | 0x38 => some (.fcmp l d a b)
  | 0x39 => given (b == 0) (.fclass l d a)
  | 0x3a => given (b == 0) (.fsqrt l d a)
  | 0x3b => given (b == 0) (.frcp l d a)
  | 0x3c => given (b == 0) (.frsq l d a)
  | 0x3d => given (b == 0) (.fexp2 l d a)
  | 0x3e => given (b == 0) (.flog2 l d a)
  | 0x3f => given (b == 0) (.fsin l d a)
  | 0x40 => given (b == 0) (.fcos l d a)
  | 0x41 => some (.fdivs l d a b)
  | 0x42 => some (.cvt l d a (b.extractLsb' 4 4) (b.extractLsb' 0 4))
  | 0x43 => some (.pack2 l d a b)
  | 0x48 => some (.shfl l d a b)
  | 0x49 => some (.shflup l d a b)
  | 0x4a => some (.shfldn l d a b)
  | 0x4b => some (.shflx l d a b)
  | 0x4c =>
    match b.toNat with
    | 0 => some (.voteAny l d a)
    | 1 => some (.voteAll l d a)
    | 2 => some (.voteBallot l d a)
    | 3 => some (.voteEq l d a)
    | _ => none
  | 0x4d =>
    match b.toNat with
    | 0 => some (.reduxAdd l d a)
    | 1 => some (.reduxMin l d a)
    | 2 => some (.reduxMax l d a)
    | 3 => some (.reduxAnd l d a)
    | 4 => some (.reduxOr l d a)
    | 5 => some (.reduxXor l d a)
    | 6 => some (.reduxFadd l d a)
    | 7 => some (.reduxFmin l d a)
    | 8 => some (.reduxFmax l d a)
    | 9 => some (.reduxScanadd l d a)
    | 10 => some (.reduxEscanadd l d a)
    | _ => none
  | 0x4e => some (.bcast l d a b)
  | 0x4f => given (!l && a == 0) (.rdsp d b)
  | _ => none

/-- The candidate of the memory words (Tables 3-8, 6-12; R186-R196): the instruction whose unused fields are all zero (R72). -/
def candidateMemory (op : Nat) (l : Bool) (d a b : BitVec 8) : Option Instr :=
  match op with
  | 0x50 => some (.ld l d a (b.extractLsb' 5 3) (b.extractLsb' 2 3) (b.extractLsb' 0 2))
  | 0x51 => some (.st l d a (b.extractLsb' 5 3) (b.extractLsb' 2 3) (b.extractLsb' 0 2))
  | 0x52 => given (b.extractLsb' 2 3 == 0) (.lds l d a (b.extractLsb' 5 3) (b.extractLsb' 0 2))
  | 0x53 => given (b.extractLsb' 2 3 == 0) (.sts l d a (b.extractLsb' 5 3) (b.extractLsb' 0 2))
  | 0x54 => given (b.extractLsb' 2 6 == 0) (.ldc l d a (b.extractLsb' 0 2))
  | 0x55 => given (b.extractLsb' 1 1 == 1) (.atom l d a (b.extractLsb' 5 3) (b.extractLsb' 2 3) (b.extractLsb' 0 1))
  | 0x56 => given (b.extractLsb' 1 1 == 1) (.atomnr l d a (b.extractLsb' 5 3) (b.extractLsb' 2 3) (b.extractLsb' 0 1))
  | 0x57 => given (b.extractLsb' 1 1 == 1) (.cas l d a (b.extractLsb' 5 3) (b.extractLsb' 2 3) (b.extractLsb' 0 1))
  | 0x58 => given (!l && d == 0 && a == 0 && b.extractLsb' 0 2 == 0) (.fence (b.extractLsb' 5 3) (b.extractLsb' 2 3))
  | 0x59 => given (!l && d.extractLsb' 4 4 == 0 && a == 0 && b.extractLsb' 5 3 == 0 && b.extractLsb' 0 2 == 0) (.pfence (d.extractLsb' 0 4) (b.extractLsb' 2 3))
  | 0x5a => given (d == 0 && b == 0) (.monitor l a)
  | 0x5b => given (!l && d == 0 && a == 0 && b == 0) .mwait
  | 0x5c => given (d.extractLsb' 1 7 == 0 && b == 0) (.pref l (d.extractLsb' 0 1) a)
  | 0x5d =>
    match d.toNat with
    | 0 => given (b == 0) (.cctlInv l a)
    | 1 => given (b == 0) (.cctlWb l a)
    | 2 => given (!l && a == 0 && b == 0) .cctlInvl1
    | _ => none
  | _ => none

/-- The candidate of the barrier, launch and system words (Tables 3-8, 3-9, 7-3; R207-R215): the instruction whose unused fields are all zero (R72). -/
def candidateSync (op : Nat) (l : Bool) (d a b : BitVec 8) : Option Instr :=
  match op with
  | 0x60 => given (b.extractLsb' 5 3 == 0) (.barinit l d a (b.extractLsb' 0 5))
  | 0x61 => given (!l && d == 0 && a == 0 && b.extractLsb' 5 3 == 0) (.bararr (b.extractLsb' 0 5))
  | 0x62 => given (!l && a == 0 && b.extractLsb' 5 3 == 0) (.barwait d (b.extractLsb' 0 5))
  | 0x63 => given (!l && a == 0 && b.extractLsb' 5 3 == 0) (.bartest d (b.extractLsb' 0 5))
  | 0x64 =>
    match (b.extractLsb' 0 3).toNat with
    | 0 => given (b.extractLsb' 6 2 == 0) (.sbarInit l d a (b.extractLsb' 3 3))
    | 1 => given (a == 0 && b.extractLsb' 6 2 == 0) (.sbarArr l d (b.extractLsb' 3 3))
    | 2 => given (b.extractLsb' 6 2 == 0) (.sbarWait l d a (b.extractLsb' 3 3))
    | 3 => given (b.extractLsb' 6 2 == 0) (.sbarTest l d a (b.extractLsb' 3 3))
    | 4 => given (a == 0 && b.extractLsb' 6 2 == 0) (.sbarFin l d (b.extractLsb' 3 3))
    | _ => none
  | 0x65 => given (b.extractLsb' 3 5 == 0) (.launch l d a (b.extractLsb' 0 3))
  | 0x66 =>
    match a.toNat with
    | 0 => given (!l) (.sysr d b)
    | 1 => some (.sysw l d b)
    | _ => none
  | 0x67 => given (!l && d == 0 && a == 0) (.trap b)
  | _ => none

/-- The candidate of the engine words (Table 3-10; R81): the instruction whose unused fields are all zero (R72). -/
def candidateEngine (op : Nat) (l : Bool) (d a b : BitVec 8) : Option Instr :=
  match op with
  | 0x68 =>
    match (b.extractLsb' 5 3).toNat with
    | 0 => some (.mma l d a (b.extractLsb' 0 5))
    | _ => none
  | 0x69 =>
    match (b.extractLsb' 5 3).toNat with
    | 0 => some (.mmag l d a (b.extractLsb' 0 5))
    | _ => none
  | 0x6a =>
    match (b.extractLsb' 5 3).toNat with
    | 0 => some (.maccFill l d a (b.extractLsb' 0 5))
    | _ => none
  | 0x6b =>
    match (b.extractLsb' 5 3).toNat with
    | 0 => some (.mst l d a (b.extractLsb' 0 5))
    | _ => none
  | 0x6c =>
    match (b.extractLsb' 5 3).toNat with
    | 0 => some (.mpair l d a (b.extractLsb' 0 5))
    | _ => none
  | 0x6d =>
    match (b.extractLsb' 5 3).toNat with
    | 0 => some (.mrel l d a (b.extractLsb' 0 5))
    | _ => none
  | 0x70 =>
    match (b.extractLsb' 5 3).toNat with
    | 0 => some (.rfwd l d a (b.extractLsb' 0 5))
    | _ => none
  | 0x71 =>
    match (b.extractLsb' 5 3).toNat with
    | 0 => some (.rmma l d a (b.extractLsb' 0 5))
    | _ => none
  | 0x72 =>
    match (b.extractLsb' 5 3).toNat with
    | 0 => some (.rrev l d a (b.extractLsb' 0 5))
    | 1 => some (.rchk l d a (b.extractLsb' 0 5))
    | _ => none
  | 0x73 =>
    match (b.extractLsb' 5 3).toNat with
    | 0 => some (.rscl l d a (b.extractLsb' 0 5))
    | _ => none
  | 0x74 =>
    match (b.extractLsb' 5 3).toNat with
    | 0 => some (.xcp l d a (b.extractLsb' 0 5))
    | _ => none
  | 0x75 =>
    match (b.extractLsb' 5 3).toNat with
    | 0 => some (.xcpr l d a (b.extractLsb' 0 5))
    | _ => none
  | 0x76 =>
    match (b.extractLsb' 5 3).toNat with
    | 0 => some (.xexp l d a (b.extractLsb' 0 5))
    | 1 => some (.xpack l d a (b.extractLsb' 0 5))
    | _ => none
  | 0x77 =>
    match (b.extractLsb' 5 3).toNat with
    | 0 => some (.xcan l d a (b.extractLsb' 0 5))
    | _ => none
  | 0x78 =>
    match (b.extractLsb' 5 3).toNat with
    | 0 => some (.rowcpy l d a (b.extractLsb' 0 5))
    | 1 => some (.rowfill l d a (b.extractLsb' 0 5))
    | 2 => some (.rowand l d a (b.extractLsb' 0 5))
    | 3 => some (.rowor l d a (b.extractLsb' 0 5))
    | 4 => some (.rowxor l d a (b.extractLsb' 0 5))
    | 5 => some (.rownot l d a (b.extractLsb' 0 5))
    | _ => none
  | 0x79 =>
    match (b.extractLsb' 5 3).toNat with
    | 0 => some (.rowq l d a (b.extractLsb' 0 5))
    | _ => none
  | 0x7a =>
    match (b.extractLsb' 5 3).toNat with
    | 0 => some (.snap l d a (b.extractLsb' 0 5))
    | 1 => some (.snapq l d a (b.extractLsb' 0 5))
    | 2 => some (.snaprel l d a (b.extractLsb' 0 5))
    | _ => none
  | 0x7b =>
    match (b.extractLsb' 5 3).toNat with
    | 0 => some (.cgrun l d a (b.extractLsb' 0 5))
    | 1 => some (.grun l d a (b.extractLsb' 0 5))
    | _ => none
  | 0x7c =>
    match (b.extractLsb' 5 3).toNat with
    | 0 => some (.erd l d a (b.extractLsb' 0 5))
    | _ => none
  | _ => none

/-- The candidate instruction of the fields of a word, by its major opcode (Table 3-8). -/
def candidate (op : BitVec 7) (l : Bool) (d a b : BitVec 8) : Option Instr :=
  let n := op.toNat
  if n < 0x10 then candidateControl n l d a b
  else if n < 0x30 then candidateInteger n l d a b
  else if n < 0x50 then candidateFloat n l d a b
  else if n < 0x60 then candidateMemory n l d a b
  else if n < 0x68 then candidateSync n l d a b
  else candidateEngine n l d a b

/-- Major opcode of a word, bits [31:25] (R71). -/
def opField (w : Word) : BitVec 7 := w.extractLsb' 25 7
/-- The L bit of a word, bit 24 (R73). -/
def lField (w : Word) : Bool := w.getLsbD 24
/-- Bits [23:16] of a word. -/
def dField (w : Word) : BitVec 8 := w.extractLsb' 16 8
/-- Bits [15:8] of a word. -/
def aField (w : Word) : BitVec 8 := w.extractLsb' 8 8
/-- Bits [7:0] of a word. -/
def bField (w : Word) : BitVec 8 := w.extractLsb' 0 8

/-- The fields of a clause header (Table 3-1), not yet checked. -/
def headerOf (w : Word) : Instr :=
  .clauseHeader (w.extractLsb' 13 12) (w.extractLsb' 9 4) (w.extractLsb' 5 4) (w.extractLsb' 0 5)

/-- Whether a word carries the header marker (R61). -/
def isHeader (w : Word) : Bool := opField w == 0x7F

/-- Decodes a clause header (R61); none where the word is no header or an undefined one (R82). -/
def decodeHeader (w : Word) : Option Instr :=
  if isHeader w && (headerOf w).wellFormed then some (headerOf w) else none

/-- Decodes an instruction word; none for every undefined encoding (R72, R82). DEDUCED, safe: log entry 14. -/
def decodeWord (w : Word) : Option Instr :=
  (candidate (opField w) (lField w) (dField w) (aField w) (bField w)).filter Instr.wellFormed

/-- Decodes a word wherever it stands: a header at the head of a clause, or an instruction word. -/
def decode (w : Word) : Option Instr :=
  if isHeader w then decodeHeader w else decodeWord w

/-- Decodes an instruction of the opcode table from its bits, which fill one 32-bit word. -/
def decodeTableWord (nbits w : Nat) : Option Instr :=
  if nbits = 0 then none else decode (BitVec.ofNat 32 (w % 2 ^ nbits))

/-! ### Clauses -/

/-- A control-transfer word (R63). -/
def Instr.isTransfer : Instr → Bool
  | .bra _ | .call _ | .ret | .bzm _ | .bnzm _ | .bany _ _ _ | .ball _ _ _ | .jtx _ _ _ | .regang _ | .exit => true
  | _ => false

/-- The flag number of a flag-kind engine instruction (R20, R81). -/
def Instr.flagNumber : Instr → Option (BitVec 5)
  | .mma _ _ _ b | .mmag _ _ _ b | .maccFill _ _ _ b | .maccLoad _ _ _ b | .maccCopy _ _ _ b | .mst _ _ _ b
  | .mpair _ _ _ b | .mrel _ _ _ b | .rfwd _ _ _ b | .rmma _ _ _ b | .rrev _ _ _ b | .rchk _ _ _ b
  | .rscl _ _ _ b | .xcan _ _ _ b | .rowq _ _ _ b | .snap _ _ _ b | .snapq _ _ _ b | .snaprel _ _ _ b
  | .erd _ _ _ b => some b
  | _ => none

/-- Whether a decoded word may stand in a clause: a transfer only as the last word (R63), a flag-kind engine
instruction only with b = FB (R20), a JTX only with a table the kernel has (R91). -/
def fitsClause (njtab : Nat) (fb : BitVec 4) (last : Bool) (i : Instr) : Bool :=
  (!i.isTransfer || last) &&
  (match i.flagNumber with
   | some b => b.toNat == fb.toNat
   | none => true) &&
  (match i with
   | .jtx _ _ t => t.toNat < njtab
   | _ => true)

/-- The index of the first undefined word among the words of a clause, counted from k (R64). -/
def firstUndefined (njtab : Nat) (fb : BitVec 4) (k : Nat) : List Word → Option Nat
  | [] => none
  | w :: ws =>
    match decodeWord w with
    | none => some k
    | some i => if fitsClause njtab fb ws.isEmpty i then firstUndefined njtab fb (k + 1) ws else some k

/-- The index of the first undefined word of a clause, its header first; none where all are defined (R64). -/
def clauseUndefined (njtab : Nat) : List Word → Option Nat
  | [] => some 0
  | h :: ws =>
    match decodeHeader h with
    | some (.clauseHeader _ _ fb _) => firstUndefined njtab fb 1 ws
    | _ => some 0

/-! ### The encoder -/

/-- A word from its fields (R71). -/
def mkWord (op : BitVec 7) (l : Bool) (d a b : BitVec 8) : Word :=
  op ++ BitVec.ofBool l ++ d ++ a ++ b

/-- The word of an instruction; none for a row without bits. -/
def encode : Instr → Option Word
  | .clauseHeader wait fa fb len => some (0x7F#7 ++ wait ++ fa ++ fb ++ len)
  | .nop => some (mkWord 0x00 false 0 0 0)
  | .guardOff => some (mkWord 0x02 false 0 0 2)
  | .mset => some (mkWord 0x04 false 0 0 5)
  | .ret => some (mkWord 0x07 false 0 0 0)
  | .exit => some (mkWord 0x0e false 0 0 0)
  | .yield => some (mkWord 0x0f false 0 0 0)
  | .yieldRegroup => some (mkWord 0x0f false 0 0 1)
  | .mwait => some (mkWord 0x5b false 0 0 0)
  | .cctlInvl1 => some (mkWord 0x5d false 2 0 0)
  | .mode imm => some (mkWord 0x01 false 0 (imm.extractLsb' 8 8) (imm.extractLsb' 0 8))
  | .guard l a => some (mkWord 0x02 l 0 a 0)
  | .guardInverted l a => some (mkWord 0x02 l 0 a 1)
  | .mload l a => some (mkWord 0x04 l 0 a 1)
  | .mand l a => some (mkWord 0x04 l 0 a 2)
  | .mandn l a => some (mkWord 0x04 l 0 a 3)
  | .mor l a => some (mkWord 0x04 l 0 a 4)
  | .monitor l a => some (mkWord 0x5a l 0 a 0)
  | .cctlInv l a => some (mkWord 0x5d l 0 a 0)
  | .cctlWb l a => some (mkWord 0x5d l 1 a 0)
  | .stage a n => some (mkWord 0x03 false 0 a n)
  | .msave d => some (mkWord 0x04 false d 0 0)
  | .mpop d => some (mkWord 0x04 false d 0 6)
  | .mfirst d => some (mkWord 0x04 false d 0 7)
  | .bra o => some (mkWord 0x05 false (o.extractLsb' 16 8) (o.extractLsb' 8 8) (o.extractLsb' 0 8))
  | .call o => some (mkWord 0x06 false (o.extractLsb' 16 8) (o.extractLsb' 8 8) (o.extractLsb' 0 8))
  | .bzm o => some (mkWord 0x08 false 0 (o.extractLsb' 8 8) (o.extractLsb' 0 8))
  | .bnzm o => some (mkWord 0x09 false 0 (o.extractLsb' 8 8) (o.extractLsb' 0 8))
  | .bany l c o => some (mkWord 0x0a l c (o.extractLsb' 8 8) (o.extractLsb' 0 8))
  | .ball l c o => some (mkWord 0x0b l c (o.extractLsb' 8 8) (o.extractLsb' 0 8))
  | .jtx l x t => some (mkWord 0x0c l x 0 t)
  | .regang t => some (mkWord 0x0d false 0 0 (0#5 ++ t))
  | .add l d a b => some (mkWord 0x10 l d a b)
  | .sub l d a b => some (mkWord 0x11 l d a b)
  | .mul l d a b => some (mkWord 0x12 l d a b)
  | .mulhi l d a b => some (mkWord 0x13 l d a b)
  | .mad l d a b => some (mkWord 0x14 l d a b)
  | .madw l d a b => some (mkWord 0x15 l d a b)
  | .addc l d a b => some (mkWord 0x16 l d a b)
  | .subb l d a b => some (mkWord 0x17 l d a b)
  | .min l d a b => some (mkWord 0x18 l d a b)
  | .max l d a b => some (mkWord 0x19 l d a b)
  | .and l d a b => some (mkWord 0x1c l d a b)
  | .or l d a b => some (mkWord 0x1d l d a b)
  | .xor l d a b => some (mkWord 0x1e l d a b)
  | .shl l d a b => some (mkWord 0x20 l d a b)
  | .shr l d a b => some (mkWord 0x21 l d a b)
  | .sar l d a b => some (mkWord 0x22 l d a b)
  | .rot l d a b => some (mkWord 0x23 l d a b)
  | .bfe l d a b => some (mkWord 0x27 l d a b)
  | .bfi l d a b => some (mkWord 0x28 l d a b)
  | .sel l d a b => some (mkWord 0x29 l d a b)
  | .cmp l d a b => some (mkWord 0x2a l d a b)
  | .fadd l d a b => some (mkWord 0x30 l d a b)
  | .fsub l d a b => some (mkWord 0x31 l d a b)
  | .fmul l d a b => some (mkWord 0x32 l d a b)
  | .ffma l d a b => some (mkWord 0x33 l d a b)
  | .fmin l d a b => some (mkWord 0x34 l d a b)
  | .fmax l d a b => some (mkWord 0x35 l d a b)
  | .fcmp l d a b => some (mkWord 0x38 l d a b)
  | .fdivs l d a b => some (mkWord 0x41 l d a b)
  | .pack2 l d a b => some (mkWord 0x43 l d a b)
  | .shfl l d a b => some (mkWord 0x48 l d a b)
  | .shflup l d a b => some (mkWord 0x49 l d a b)
  | .shfldn l d a b => some (mkWord 0x4a l d a b)
  | .shflx l d a b => some (mkWord 0x4b l d a b)
  | .bcast l d a b => some (mkWord 0x4e l d a b)
  | .abs l d a => some (mkWord 0x1a l d a 0)
  | .neg l d a => some (mkWord 0x1b l d a 0)
  | .not l d a => some (mkWord 0x1f l d a 0)
  | .clz l d a => some (mkWord 0x24 l d a 0)
  | .popc l d a => some (mkWord 0x25 l d a 0)
  | .brev l d a => some (mkWord 0x26 l d a 0)
  | .mov l d a => some (mkWord 0x2b l d a 0)
  | .movW8 l d a => some (mkWord 0x2b l d a 1)
  | .fabs l d a => some (mkWord 0x36 l d a 0)
  | .fneg l d a => some (mkWord 0x37 l d a 0)
  | .fclass l d a => some (mkWord 0x39 l d a 0)
  | .fsqrt l d a => some (mkWord 0x3a l d a 0)
  | .frcp l d a => some (mkWord 0x3b l d a 0)
  | .frsq l d a => some (mkWord 0x3c l d a 0)
  | .fexp2 l d a => some (mkWord 0x3d l d a 0)
  | .flog2 l d a => some (mkWord 0x3e l d a 0)
  | .fsin l d a => some (mkWord 0x3f l d a 0)
  | .fcos l d a => some (mkWord 0x40 l d a 0)
  | .voteAny l d a => some (mkWord 0x4c l d a 0)
  | .voteAll l d a => some (mkWord 0x4c l d a 1)
  | .voteBallot l d a => some (mkWord 0x4c l d a 2)
  | .voteEq l d a => some (mkWord 0x4c l d a 3)
  | .reduxAdd l d a => some (mkWord 0x4d l d a 0)
  | .reduxMin l d a => some (mkWord 0x4d l d a 1)
  | .reduxMax l d a => some (mkWord 0x4d l d a 2)
  | .reduxAnd l d a => some (mkWord 0x4d l d a 3)
  | .reduxOr l d a => some (mkWord 0x4d l d a 4)
  | .reduxXor l d a => some (mkWord 0x4d l d a 5)
  | .reduxFadd l d a => some (mkWord 0x4d l d a 6)
  | .reduxFmin l d a => some (mkWord 0x4d l d a 7)
  | .reduxFmax l d a => some (mkWord 0x4d l d a 8)
  | .reduxScanadd l d a => some (mkWord 0x4d l d a 9)
  | .reduxEscanadd l d a => some (mkWord 0x4d l d a 10)
  | .ldi d imm => some (mkWord 0x2c false d (imm.extractLsb' 8 8) (imm.extractLsb' 0 8))
  | .ldih d imm => some (mkWord 0x2d false d (imm.extractLsb' 8 8) (imm.extractLsb' 0 8))
  | .cvt l d a src dst => some (mkWord 0x42 l d a (src ++ dst))
  | .rdsp d f => some (mkWord 0x4f false d 0 f)
  | .ld l d a sem scope size => some (mkWord 0x50 l d a (sem ++ scope ++ size))
  | .st l d a sem scope size => some (mkWord 0x51 l d a (sem ++ scope ++ size))
  | .lds l d a sem size => some (mkWord 0x52 l d a (sem ++ 0#3 ++ size))
  | .sts l d a sem size => some (mkWord 0x53 l d a (sem ++ 0#3 ++ size))
  | .ldc l d a size => some (mkWord 0x54 l d a (0#6 ++ size))
  | .atom l d a sem scope z => some (mkWord 0x55 l d a (sem ++ scope ++ 1#1 ++ z))
  | .atomnr l d a sem scope z => some (mkWord 0x56 l d a (sem ++ scope ++ 1#1 ++ z))
  | .cas l d a sem scope z => some (mkWord 0x57 l d a (sem ++ scope ++ 1#1 ++ z))
  | .fence sem scope => some (mkWord 0x58 false 0 0 (sem ++ scope ++ 0#2))
  | .pfence paths scope => some (mkWord 0x59 false (0#4 ++ paths) 0 (0#3 ++ scope ++ 0#2))
  | .pref l lev a => some (mkWord 0x5c l (0#7 ++ lev) a 0)
  | .barinit l x y b => some (mkWord 0x60 l x y (0#3 ++ b))
  | .bararr b => some (mkWord 0x61 false 0 0 (0#3 ++ b))
  | .barwait x b => some (mkWord 0x62 false x 0 (0#3 ++ b))
  | .bartest x b => some (mkWord 0x63 false x 0 (0#3 ++ b))
  | .sbarInit l x y scope => some (mkWord 0x64 l x y (0#2 ++ scope ++ 0#3))
  | .sbarWait l x y scope => some (mkWord 0x64 l x y (0#2 ++ scope ++ 2#3))
  | .sbarTest l x y scope => some (mkWord 0x64 l x y (0#2 ++ scope ++ 3#3))
  | .sbarArr l x scope => some (mkWord 0x64 l x 0 (0#2 ++ scope ++ 1#3))
  | .sbarFin l x scope => some (mkWord 0x64 l x 0 (0#2 ++ scope ++ 4#3))
  | .launch l d a scope => some (mkWord 0x65 l d a (0#5 ++ scope))
  | .sysr x r => some (mkWord 0x66 false x 0 r)
  | .sysw l x r => some (mkWord 0x66 l x 1 r)
  | .trap code => some (mkWord 0x67 false 0 0 code)
  | .mma l d a b => some (mkWord 0x68 l d a (0#3 ++ b))
  | .mmag l d a b => some (mkWord 0x69 l d a (0#3 ++ b))
  | .maccFill l d a b => some (mkWord 0x6a l d a (0#3 ++ b))
  | .maccLoad l d a b => some (mkWord 0x6a l d a (0#3 ++ b))
  | .maccCopy l d a b => some (mkWord 0x6a l d a (0#3 ++ b))
  | .mst l d a b => some (mkWord 0x6b l d a (0#3 ++ b))
  | .mpair l d a b => some (mkWord 0x6c l d a (0#3 ++ b))
  | .mrel l d a b => some (mkWord 0x6d l d a (0#3 ++ b))
  | .rfwd l d a b => some (mkWord 0x70 l d a (0#3 ++ b))
  | .rmma l d a b => some (mkWord 0x71 l d a (0#3 ++ b))
  | .rrev l d a b => some (mkWord 0x72 l d a (0#3 ++ b))
  | .rchk l d a b => some (mkWord 0x72 l d a (1#3 ++ b))
  | .rscl l d a b => some (mkWord 0x73 l d a (0#3 ++ b))
  | .xcp l d a b => some (mkWord 0x74 l d a (0#3 ++ b))
  | .xcpr l d a b => some (mkWord 0x75 l d a (0#3 ++ b))
  | .xexp l d a b => some (mkWord 0x76 l d a (0#3 ++ b))
  | .xpack l d a b => some (mkWord 0x76 l d a (1#3 ++ b))
  | .xcan l d a b => some (mkWord 0x77 l d a (0#3 ++ b))
  | .rowcpy l d a b => some (mkWord 0x78 l d a (0#3 ++ b))
  | .rowfill l d a b => some (mkWord 0x78 l d a (1#3 ++ b))
  | .rowand l d a b => some (mkWord 0x78 l d a (2#3 ++ b))
  | .rowor l d a b => some (mkWord 0x78 l d a (3#3 ++ b))
  | .rowxor l d a b => some (mkWord 0x78 l d a (4#3 ++ b))
  | .rownot l d a b => some (mkWord 0x78 l d a (5#3 ++ b))
  | .rowq l d a b => some (mkWord 0x79 l d a (0#3 ++ b))
  | .snap l d a b => some (mkWord 0x7a l d a (0#3 ++ b))
  | .snapq l d a b => some (mkWord 0x7a l d a (1#3 ++ b))
  | .snaprel l d a b => some (mkWord 0x7a l d a (2#3 ++ b))
  | .cgrun l d a b => some (mkWord 0x7b l d a (0#3 ++ b))
  | .grun l d a b => some (mkWord 0x7b l d a (1#3 ++ b))
  | .erd l d a b => some (mkWord 0x7c l d a (0#3 ++ b))
  | .compactionGatheringLimit _ _ => none
  | .quantumExpiry _ _ => none
  | .mwaitWake _ _ _ => none
  | .loadCompletion _ _ _ => none
  | .storeAcknowledgement _ _ _ => none
  | .barrierWaitReturn _ _ _ => none
  | .barrierTimeout _ _ => none
  | .launchAnswer _ => none
  | .pairFormationTimeout _ => none
  | .ringStallEnd _ _ _ => none
  | .engineCommandStart _ => none
  | .commandCompletion _ => none
  | .destinationArrival _ => none
  | .remoteCompletion _ => none
  | .workgroupRetire _ => none
  | .preemptionRequest _ => none
  | .imageSeal _ => none
  | .snapshotStartRequest _ => none
  | .colourGrant _ _ _ => none
  | .dieStateReport _ _ _ => none
  | .allocatorStateNotice _ _ _ => none
  | .stagingBufferRoom _ => none
  | .colStagingDrain _ => none
  | .colSweepUnit _ _ _ => none
  | .tierWriteFailure _ _ => none
  | .channelCloseLimit _ _ => none
  | .tagResetDone _ _ _ => none
  | .snapshotMarker _ _ _ => none
  | .write _ _ => none
  | .readRequest _ _ => none
  | .readResponse _ _ => none
  | .atomic _ _ => none
  | .atomicResponse _ _ => none
  | .writeAcknowledgement _ _ => none
  | .barrierArrival _ _ => none
  | .teardownMarker _ _ => none
  | .teardownAcknowledgement _ _ => none
  | .graphDecrement _ _ => none
  | .slotRequest _ _ => none
  | .slotReply _ _ => none
  | .slotRelease _ _ => none
  | .contribution _ _ => none
  | .result _ _ => none
  | .reduceWrite _ _ => none
  | .keySwitch _ _ => none
  | .credit _ _ => none
  | .linkAcknowledgement _ _ => none
  | .linkNak _ _ => none
  | .flitSend _ => none
  | .keySwitchSend _ => none
  | .retrain _ => none
  | .retrainComplete _ => none
  | .vfTeardown _ => none
  | .teardownWaitExpiry _ => none
  | .chunkDispatch => none
  | .chunkCompletion _ _ => none
  | .slotRetry _ _ => none
  | .notify _ => none
  | .chainEnable _ _ => none
  | .engine _ _ _ => none
  | .chainLaunch _ _ _ => none
  | .gload _ _ _ => none
  | .gunload _ _ _ => none
  | .chainRun _ _ _ => none
  | .restore _ _ _ => none
  | .tinv _ _ _ => none
  | .cntr _ _ _ => none
  | .chainEntryCompletion _ _ _ => none
  | .nodeDispatch => none
  | .operatingPointStable _ => none
  | .policyHookAnswer _ _ => none
  | .policyHookTimeout _ => none
  | .attributionPeriodEnd _ _ _ => none
  | .periodCharge _ => none
  | .mirrorWrite => none
  | .signedReading _ => none
  | .partitionCreate _ => none
  | .partitionDelete => none
  | .faultWindowSet => none
  | .firmwareStage => none
  | .attestationReport => none
  | .attestationCertificate => none
  | .warmReset => none
  | .powerLimitSet => none
  | .linkKeyWrite => none
  | .vfFunctionLevelReset _ => none
  | .coldReset => none
  | .unexpectedReset => none
  | .registerWrite _ _ => none
  | .powerLimitReached => none

/-- The instruction that the decoder names for an encoded one: the three MACC instructions share their words, and
the decoder names MACC_FILL (R246; the leader's command word tells them apart, log entry 14). -/
def Instr.named : Instr → Instr
  | .maccLoad l d a b => .maccFill l d a b
  | .maccCopy l d a b => .maccFill l d a b
  | i => i

end Sys2Proof
end

