-- ==== Sys2Proof/Machine/State.lean ====
section
/-! DEFINITION. The state of the package as plain data (INVENTORY.md lists every piece with its rule and its reset
value), the machine's faults and refusals, and the state after reset. -/

namespace Sys2Proof.Machine

/-! ### The gang -/

/-- What one lane of one register holds: 32 bits and the P side bit (R98). -/
structure LaneVal where
  val : Word := 0
  p : Bool := false
  deriving DecidableEq, Repr

/-- A barrier: a named one of the workgroup, or a scope barrier by its physical address (R199, R203). -/
inductive BarName where
  | named (n : Nat)
  | scope (loc : Nat)
  deriving DecidableEq, Repr

/-- What a waiting slice waits for (R95). -/
inductive Wait where
  /-- a clause header whose WAIT flags are not all set (R62) -/
  | flags
  /-- MWAIT (R194) -/
  | mwait
  /-- a barrier wait: the barrier, the phase it waits for, the result register and the acquire scope (R202) -/
  | barrier (bar : BarName) (phase dest scope : Nat)
  /-- a compaction point: the address of the clause that follows it (R117) -/
  | gathering (point : Nat)
  deriving DecidableEq, Repr

/-- Slice state (Table 4-1). `grouped`: taken into an issue group of compaction (R118). -/
inductive SliceState where
  | runnable
  | waiting (w : Wait)
  | parked (token : Nat)
  | held
  | exited
  | grouped (group : Nat)
  deriving DecidableEq, Repr

/-- What YIELD asked of the clause in progress (R116). -/
inductive YieldAsk where
  | no
  | plain
  | regroup
  deriving DecidableEq, Repr

/-- A watch of MONITOR: the line (a location of the package, or of the window) and whether it has fired (R193). -/
structure Watch where
  window : Bool
  line : Nat
  fired : Bool := false
  deriving DecidableEq, Repr

/-- What a slice holds (Table 4-1). widx is 0 at a clause header and k at the k-th word of the clause, whose words
are held as fetched (R65, R66). -/
structure Slice where
  pc : Nat := 0
  hdr : Nat := 0
  widx : Nat := 0
  clause : List Word := []
  clauseNo : Nat := 0
  am : BitVec 4 := 0xF
  guard : BitVec 4 := 0xF
  sense : Bool := false
  mode : BitVec 16 := 0
  st : SliceState := .runnable
  sub : Nat := 0
  returns : List Nat := []
  latch : Word := 0
  watch : Option Watch := none
  yieldAsk : YieldAsk := .no
  /-- at a header it fell through to, after a clause of this many words (R62) -/
  fell : Option Nat := none
  /-- stalled at a full ring slot since this cycle (R16, R209) -/
  ringStall : Option Nat := none
  deriving DecidableEq, Repr

/-- A completion flag (R67): open while the clause that armed it last has not ended. -/
structure Flag where
  set : Bool := true
  count : Nat := 0
  opened : Bool := false
  armer : Nat := 0
  /-- widest scope of the engine completions it stands for (R44) -/
  scope : Nat := 0
  deriving DecidableEq, Repr

/-- An open jump frame (R112-R114): the JTX, its table, the slices with their saved masks, the selections of the
lanes, the groups left and the current group. pending: a start or close that met no header (R112). -/
structure Frame where
  token : Nat
  join : Nat
  table : Nat
  targets : List Nat
  saved : List (Nat × BitVec 4)
  sel : List (Nat × Nat)
  left : List Nat
  group : Option Nat
  pending : Bool := false
  hdr : Nat
  pc : Nat
  widx : Nat
  deriving DecidableEq, Repr

/-- Kinds of an access of a memory instruction. -/
inductive AccKind where
  | load
  | store
  | atomic
  | atomicNoResult
  | prefetch
  | cctl
  deriving DecidableEq, Repr

/-- A lane's result that waits for the completion of its access: 64 bits and a mark. -/
structure LaneResult where
  lane : Nat
  value : Nat
  p : Bool
  deriving DecidableEq, Repr

/-- A part of an access that is out on the link: the tag it waits for and the lanes and offsets it serves. -/
structure RemotePart where
  port : Nat
  tag : Nat
  addr : Nat
  len : Nat
  lanes : List (Nat × Nat)
  /-- how the caches of the die and core may hold what arrives: CACHE of the page (Table 6-4) -/
  cache : Nat := 2
  done : Bool := false
  failed : Bool := false
  deriving DecidableEq, Repr

/-- An outstanding access of a memory instruction (R68, R69, R219). -/
structure Access where
  kind : AccKind
  slices : Nat
  /-- the register that is pending, and how many registers from it on -/
  dest : Nat
  width : Nat
  size : Nat
  scope : Nat
  acquire : Bool
  cas : Bool := false
  results : List LaneResult := []
  /-- a package, window or sys part is still to be completed, and whether it has sys-homed lanes -/
  home : Bool
  sys : Bool := false
  /-- some lane that flag B counts is answered with the home part: a sys-homed one, or one that a cache serves (R68) -/
  nearB : Bool := false
  /-- an LDC, whose fabric-homed lanes fill the constant cache -/
  const : Bool := false
  remote : List RemotePart := []
  flagA : Option Nat := none
  flagB : Option Nat := none
  /-- the flag B that counted it (R197), and the addresses of its fabric-homed lanes -/
  lossB : Option Nat := none
  vas : List (Nat × Nat) := []
  deriving DecidableEq, Repr

/-- A remote write whose loss the gang has not yet taken (R197, R204): its access, address, lanes, clobber cause, its
flag B. -/
structure LostWrite where
  access : Nat
  /-- the slices that issued it, for whose releases it counts -/
  slices : Nat
  addr : Nat
  lanes : Nat
  clobber : Bool
  flagB : Option Nat
  deriving DecidableEq, Repr

/-- A conversion fault that the gang has not yet taken (R266, Table 10-5): the flag of its command, the command's
sequence number, the code and both details. -/
structure ConvFault where
  flag : Nat
  seq : Nat
  code : Nat
  detail0 : Nat
  detail1 : Nat
  deriving DecidableEq, Repr

/-- A gang (Table 4-1, R93). -/
structure Gang where
  slices : List Slice := []
  regs : Tab LaneVal := []
  flags : List Flag := List.replicate 12 {}
  frames : List Frame := []
  quantum : Nat := 0
  /-- the sub-gang whose turn it is -/
  cur : Option Nat := some 0
  staging : NatSet := []
  /-- registers pending until a result arrives (R21, R69) -/
  pend : NatSet := []
  accesses : Tab Access := []
  nextAccess : Nat := 0
  clauses : Nat := 0
  /-- arrival marks: per barrier the mask of slices marked, and 256 once the gang's arrival is counted (R201) -/
  marks : List (BarName × Nat) := []
  /-- arrival phases (R202) -/
  phases : List (BarName × Nat) := []
  lost : List LostWrite := []
  faulted : List ConvFault := []
  ended : Bool := false
  /-- SIMD unit the gang runs on (R97), and its gang slot there (R96) -/
  unit : Nat := 0
  slot : Nat := 0
  deriving DecidableEq, Repr

/-! ### The context -/

/-- A named barrier of a workgroup (R199, Table 7-11). -/
structure NamedBar where
  expect : Nat := 0
  arrived : Nat := 0
  phase : Nat := 0
  err : Bool := false
  /-- ERR gathered by engine arrivals of the current phase (R200) -/
  errNow : Bool := false
  bound : Option Nat := none
  amask : Nat := 0
  earr : Nat := 0
  deriving DecidableEq, Repr

/-- What a watchdog counts (R209). -/
inductive WatchKind where
  | named (b : Nat)
  | scope (loc : Nat)
  | ring (slot : Nat)
  deriving DecidableEq, Repr

/-- A running watchdog count: its kind, the die cycle it began at, the gang whose wait began it, and for a scope
barrier the address that wait named (R209, R210). DEDUCED, unsafe: log entry 22. -/
structure WatchCount where
  kind : WatchKind
  since : Nat
  gang : Nat
  va : Nat := 0
  deriving DecidableEq, Repr

/-- Why a context stops or has stopped (R216, R219). -/
inductive RunState where
  /-- dispatched to a core whose die's operating point is not yet stable (R397) -/
  | placed
  | running
  | stopping
  | sealed
  | reported
  | terminated
  | retired
  deriving DecidableEq, Repr

/-- Whose decision a sealed context waits for (R216, R219, R381). -/
inductive StopCause where
  | none
  | fault
  | preempted
  | snapshot
  deriving DecidableEq, Repr

/-- A fault record (Table 7-8) with its diagnostic, where it has one, as bytes (Table 7-9). -/
structure FaultRec where
  code : Nat := 0
  flags : Nat := 0
  ctx : Nat := 0
  part : Nat := 0
  gang : Nat := 0
  slices : Nat := 0
  widx : Nat := 0
  lanes : Nat := 0
  hdr : Nat := 0
  pc : Nat := 0
  addr : Nat := 0
  detail0 : Nat := 0
  detail1 : Nat := 0
  cycle : Nat := 0
  die : Nat := 0
  core : Nat := 0
  diag : List Byte := []
  deriving DecidableEq, Repr

/-- An issue group of compaction (R117, R118): per slice position the home gang and the slice's own position. -/
structure Group where
  unit : Nat
  members : List (Nat × Nat)
  quantum : Nat := 0
  deriving DecidableEq, Repr

/-- A compaction gathering: SIMD unit, point, die cycle of the first arrival (R117). -/
structure Gathering where
  unit : Nat
  point : Nat
  since : Nat
  deriving DecidableEq, Repr

/-- The core's own record of a ring slot's command: its sequence number and its number in the command table (R16). -/
structure SlotRec where
  seq : Nat
  cmd : Nat
  done : Bool := false
  deriving DecidableEq, Repr

/-- A colour tag (Table 13-4). -/
structure Tag where
  g0 : Bool := false
  g1 : Bool := false
  wep : Nat := 0
  deriving DecidableEq, Repr

/-- One accumulator slot of a matrix array: 64x64 FP32 by 64*row+column (R225), its sticky flag and its tag,
FP or RNS (R226, R258). -/
structure AccSlot where
  cells : Tab (BitVec 32) := []
  poisoned : Bool := false
  rns : Bool := false
  deriving DecidableEq, Repr

/-- An accumulator pair of RNS mode: its valid-channel mask and its bound (R255, R258). -/
structure RnsPair where
  vch : BitVec 5 := 0
  bound : BitVec 32 := 0
  deriving DecidableEq, Repr

/-- An array's part in a span: number of arrays, key, its member number, and the workgroup ids of member 0, which tell
the span from others of its launch (R236, R250). -/
structure SpanPart where
  arrays : Nat
  key : Nat
  member : Nat
  lead : List Nat := []
  deriving DecidableEq, Repr

/-- A pending MPAIR of an array: the command, span size, key, the die cycle of the first member's acceptance, the
limit in die cycles, and later MPAIRs of the array for the same group (R248). -/
structure PairAsk where
  cmd : Nat
  arrays : Nat
  key : Nat
  launch : Nat
  part : Nat
  since : Nat
  limit : Nat
  more : List Nat := []
  deriving DecidableEq, Repr

/-- A matrix array, or a half of one on a split core (R225, R226, R238): claim, slots, pairs, span, colour tag of
its slots (R250). -/
structure MArray where
  claim : Option Nat := none
  slots : List AccSlot := List.replicate 4 {}
  pairs : List RnsPair := List.replicate 2 {}
  span : Option SpanPart := none
  asking : Option PairAsk := none
  tags : List Tag := List.replicate 4 {}
  deriving DecidableEq, Repr

/-- How a workgroup came to run (R45, R212, R386): a device launch, a chain entry, or a node of a graph. -/
inductive LaunchFrom where
  | device
  | chain (vf chain entry : Nat)
  | graph (handle node : Nat)
  deriving DecidableEq, Repr

/-- A context: one workgroup (R13, R199, R213, R221, Table 7-11). -/
structure Ctx where
  part : Nat := 0
  khdr : Nat := 0
  regsN : Nat := 8
  gangsN : Nat := 1
  nbar : Nat := 0
  scratch : Nat := 0
  prio : Nat := 0
  oppoint : Nat := 0
  codeBase : Nat := 0
  codeSize : Nat := 0
  /-- jump tables as read at launch: token, join, targets, the last two as addresses (R91, log entry 16) -/
  jtabs : List (Nat × Nat × List Nat) := []
  nwg : List Nat := [1, 1, 1]
  wgid : List Nat := [0, 0, 0]
  /-- constant base (R186); 0 while a waiting launch has no slot -/
  cbase : Nat := 0
  /-- address and size of the data section, which the front end maps read-only at CBASE (R89) -/
  dataAt : Nat := 0
  dataSize : Nat := 0
  karg : Nat := 0
  /-- launch mode in force: 0 neither, 1 compaction, 2 duplex (R90) -/
  lmode : Nat := 0
  npre : Nat := 0
  depth : Nat := 0
  launch : Nat := 0
  wdog : Nat := 0
  /-- of its partition's record, as it stood at its dispatch: the watchdog cap, and whether others may pre-empt it (R382) -/
  wdcap : Nat := 0
  preempt : Bool := false
  /-- core number 160*die+core, and the half of a split core (R31, R97) -/
  core : Nat := 0
  half : Option Bool := none
  /-- where the front end has placed the window in the core's physical scratchpad (R281) -/
  base : Nat := 0
  gangs : List Gang := []
  window : Memory := []
  /-- marked 4-byte words of the window (R177) -/
  windowMarks : NatSet := []
  seq : Nat := 0
  slots : Tab SlotRec := []
  bars : List NamedBar := []
  run : RunState := .running
  cause : StopCause := .none
  fault : Option FaultRec := none
  watches : List WatchCount := []
  ccount : Nat := 0
  groups : Tab Group := []
  nextGroup : Nat := 0
  gatherings : List Gathering := []
  svc : Bool := false
  /-- colour tags of the context's register granules, by 32*gang+granule, and their value at allocation (R326) -/
  tags : Tab Tag := []
  tag0 : Tag := {}
  /-- order of its dispatch (R395), and the restoring entry's launch that also counts it (R386) -/
  order : Nat := 0
  also : Option Nat := none
  /-- in an image: the number of the context that was captured -/
  origin : Nat := 0
  /-- while sealed: the array it had claimed (R250, R279) -/
  heldArray : Option MArray := none
  /-- sub-gangs' acquire on resume is still due at a scope (R45, R57) -/
  acq : Option Nat := none
  deriving DecidableEq, Repr

/-! ### Cores and caches -/

/-- A cached sector: 32 bytes and its poison mark (Table 6-7). -/
structure Sector where
  bytes : List Byte := []
  mark : Bool := false
  /-- a copy that the home directory keeps coherent (R174) -/
  coh : Bool := false
  deriving DecidableEq, Repr

/-- A core: its caches (Table 6-7) by sector number, the sectors of code that a fetch has read at a peer from a page
that no cache may hold (R172), the physical lane steered around in each SIMD unit (R122), whether it is retired. -/
structure Core where
  l1 : Tab Sector := []
  consts : Tab Sector := []
  fetched : Tab Sector := []
  steered : List (Option Nat) := [none, none, none, none]
  retired : Bool := false
  /-- the physical scratchpad outside the windows of live workgroups, with its marks (R281) -/
  raw : Memory := []
  rawMarks : NatSet := []
  /-- colour tags of its scratchpad banks (R326) -/
  bankTags : Tab Tag := []
  deriving DecidableEq, Repr

/-- A live scope barrier word: its location, the context and core that initialised it (R203, R208). -/
structure ScopeBar where
  loc : Nat
  ctx : Nat
  core : Nat
  deriving DecidableEq, Repr

/-! ### Snapshot engine (R322-R349) -/

/-- The registers a die keeps for a partition: E0, E1 and EP (R326). -/
structure DieEpoch where
  e0 : Bool := false
  e1 : Bool := false
  ep : Nat := 0
  deriving DecidableEq, Repr

/-- A unit (R326): a memory granule by number, a physical scratchpad bank of a core (the upper half of a split core has
banks 16 to 31), a register granule of a gang, an accumulator slot of an array. -/
inductive UnitName where
  | granule (g : Nat)
  | bank (core b : Nat)
  | regs (ctx gang k : Nat)
  | slot (array t : Nat)
  deriving DecidableEq, Repr

/-- The content of a unit with its marks (Table 13-9). -/
inductive UnitData where
  | bytes (bs : List Byte) (marks : List Nat)
  | lanes (vs : Tab LaneVal)
  | acc (a : AccSlot) (p : RnsPair)
  deriving DecidableEq, Repr

/-- Colour states at a die (Table 13-2). -/
inductive DieState where
  | idle
  | hold
  | opened
  | closed
  | drained
  | resetting
  deriving DecidableEq, Repr

/-- Colour states at the allocator (Table 13-1). -/
inductive AllocState where
  | free
  | recording
  | draining
  | complete
  | failed
  | releasing
  deriving DecidableEq, Repr

/-- A saved unit of a snapshot. -/
structure Saved where
  name : UnitName
  data : UnitData
  deriving DecidableEq, Repr

/-- A logged message: its channel and what was received (R335, Table 13-9). -/
structure Logged where
  chan : Channel
  flit : Flit
  port : Nat
  deriving DecidableEq, Repr

/-- A record of an image's stream (Table 13-9): a die header, a saved unit, a context by the number of its copy, a logged
message and a channel close with their places in the die's log, a reading, the package state, which the image holds,
a trailer with its counts per kind and its hash. -/
inductive Record where
  | header (dom epoch base tag : Nat) (quiescent : Bool) (part : Nat)
  | unit (v : Saved)
  | context (n : Nat)
  | message (place : Nat) (l : Logged)
  | close (ch : Channel) (place : Nat)
  | energy (reading : List Byte)
  | package (dom ssn : Nat)
  | trailer (counts : List Nat) (hash : List Byte)
  deriving DecidableEq, Repr

/-- A die's state for one colour of a domain (R325, R339, R340): the snapshot, its base and epochs, the channels
whose marker is due, those closed with their places in the log, open host channels, units the sweep has yet to visit, the
staging buffer, the message log, the captured reading, and the units written to the tier. -/
structure DieColour where
  st : DieState := .idle
  ssn : Nat := 0
  lastSsn : Nat := 0
  inc : Bool := false
  base : Nat := 0
  baseEpoch : Nat := 0
  epoch : Nat := 0
  tgt : Nat := 0
  tag : Nat := 0
  due : List Channel := []
  closedAt : List (Channel × Nat) := []
  hostOpen : NatSet := []
  /-- the sweep: granules passed of the partition's on this die, and the on-chip units captured that are left -/
  sweepAt : Nat := 0
  chips : List UnitName := []
  sweepTotal : Nat := 0
  staged : List Saved := []
  log : List Logged := []
  records : List Saved := []
  /-- captured contexts and commands, by the numbers of their copies (R330 step 5) -/
  contexts : List Nat := []
  readings : List (List Byte) := []
  bytes : Nat := 0
  stale : Nat := 0
  quiescent : Bool := false
  deriving DecidableEq, Repr

/-- The allocator's state for one colour (R324), with the snapshot it holds and the dies' last reports. -/
structure AllocColour where
  st : AllocState := .free
  ssn : Nat := 0
  inc : Bool := false
  base : Nat := 0
  tgt : Nat := 0
  tag : Nat := 0
  /-- epochs of the base's record by die, as they were at acceptance (R340) -/
  baseEpochs : Tab Nat := []
  since : Nat := 0
  reports : Tab DieState := []
  /-- ports in service of other packages, by pod position, as their markers name them (R334) -/
  planes : Tab (BitVec 64) := []
  /-- the command whose request was granted and whose die has not recorded yet -/
  cmd : Option Nat := none
  /-- SNAPREL commands that wait for FREE (R346) -/
  releasers : NatSet := []
  deriving DecidableEq, Repr

/-- A start request on its way to the allocator (R323): the command or node, none where another package sent it, and the
die it was issued on. -/
structure SnapAsk where
  cmd : Option Nat
  die : Nat
  col : Bool
  inc : Bool
  base : Nat
  tgt : Nat
  tag : Nat
  deriving DecidableEq, Repr

/-- A completed snapshot that a die remembers (R340): its SSN and the epoch of its record per die. -/
structure PastSnap where
  ssn : Nat
  epochs : Tab Nat
  complete : Bool
  deriving DecidableEq, Repr

/-- A snapshot domain (R322, R323): its partition on this package, the allocator's die (from 4 on one of another package;
the model holds the allocator wherever it lies), the tier targets that are
configured and in service, the SSN count, the allocator's colours, the waiting start requests, the remembered
snapshots, the close limit. -/
structure Domain where
  part : Nat
  allocDie : Nat := 0
  targets : List Bool := [true, true, true, true]
  ssn : Nat := 0
  col0 : AllocColour := {}
  col1 : AllocColour := {}
  asks : List SnapAsk := []
  past : List PastSnap := []
  limit : Nat := 2 ^ 30
  /-- other logical packages of the domain -/
  others : List Nat := []
  deriving DecidableEq, Repr

/-! ### Engine commands -/

/-- Where a command came from (R10, R28, R386): a ring, a chain entry, or a node of a graph's run. -/
inductive CmdFrom where
  | ring (ctx gang slices seq slot dest : Nat)
  | chain (vf chain entry : Nat)
  | node (handle node : Nat)
  deriving DecidableEq, Repr

/-- How far a command is (R17, R22). -/
inductive CmdState where
  | published
  | started
  | completed
  deriving DecidableEq, Repr

/-- A write of a command to a peer that is still to be sent: its location, kind (1, or 15 with a reduction), and bytes
with their marks. -/
structure Outgoing where
  loc : Nat
  kind : Nat := 1
  rop : Nat := 0
  bytes : List (Byte × Bool)
  deriving DecidableEq, Repr

/-- A command (R13-R23): the core's own copy of its words (R18), what it reaches (R30), and how far it is.
`late` lists what is still to happen after completion of its writes: destination and remote arrivals (R285). -/
structure Cmd where
  origin : CmdFrom
  part : Nat
  /-- context whose page tables and window it uses; the core that issued it -/
  ctx : Nat
  core : Nat
  eng : Nat
  op : Nat
  words : List Word
  state : CmdState := .published
  err : Bool := false
  code : Nat := 0
  result : Word := 0
  /-- how far the engine is, and what it carries from start to completion: bytes read from peers, each with 256 for
  its mark, or the details of a conversion's fault -/
  pos : Nat := 0
  data : List Nat := []
  /-- the clause flag a ring command counts against (R68) -/
  flagB : Option Nat := none
  /-- link parts, answered or out, and the requests that wait for a tag (R285, R354) -/
  remote : List RemotePart := []
  toRead : List RemotePart := []
  toWrite : List Outgoing := []
  /-- arrivals still to be made: at the destination barrier, at the RCB barrier (R285) -/
  destArr : Bool := false
  remoteArr : Bool := false
  cancelled : Bool := false
  /-- virtual channel of its writes: 3 in a chunk operation (Table 14-3) -/
  vc : Nat := 0
  /-- it comes from firmware's own chain, so it may name the device aperture (R281, R386) -/
  svc : Bool := false
  /-- 128-byte lines of global memory the command wrote, for the discard of Table 2-6 -/
  wrote : NatSet := []
  deriving DecidableEq, Repr

/-! ### Whose turn it is (log entries 1, 2, 13) -/

/-- A physical upset that strikes a word (R121, R136, R137; log entry 13): duplex results that differ, with the lane's
or the partner's wrong or all three different; what the shadow unit computes of an element: sign, exponent and top 6
fraction bits, as one number. DESIGN CHOICE, safe: log entry 13. -/
inductive UpsetKind where
  | duplexLane
  | duplexPartner
  | duplexAll
  | shadow (elem value : Nat)
  deriving DecidableEq, Repr

/-- A lane and what strikes it. -/
structure Upset where
  lane : Nat
  kind : UpsetKind
  deriving DecidableEq, Repr

/-- A unit that self-test or training finds faulty (R415): a core, a lane of a core's SIMD unit, a way of a die's caches, a
DRAM row by address/2048, a row engine by 64*die+channel, a residue channel of an array, a port. -/
inductive Defect where
  | core (core : Nat)
  | lane (core unit phys : Nat)
  | way (die way : Nat)
  | row (row : Nat)
  | rowEngine (engine : Nat)
  | channel (array ch : Nat)
  | port (port : Nat)
  deriving DecidableEq, Repr

/-- Who moves in a step. DESIGN CHOICE, safe: log entry 1. DESIGN CHOICE, safe: log entry 13. DEDUCED, safe: log entry
44. -/
inductive Mover where
  /-- the default choice: the oldest posted happening, else the next runnable gang -/
  | auto
  | gang (ctx g : Nat)
  | group (ctx j : Nat)
  /-- the i-th posted happening -/
  | event (i : Nat)
  /-- a happening that comes from outside -/
  | input (ev : Instr)
  /-- a cache drops a sector (R172) -/
  | evictL1 (core sector : Nat)
  | evictConst (core sector : Nat)
  | evictRemote (die sector : Nat)
  /-- an uncorrectable error of a DRAM or L2 sector, of a scratchpad word, of an accumulator slot (R176, R235) -/
  | sectorError (sector : Nat)
  | scratchError (ctx word : Nat)
  | slotError (array slot : Nat)
  /-- a detected error that changes nothing but time: parity or a corrected error in a way of a die's caches; a corrected
  error in a bank of a core's scratchpad, in a DRAM sector, in an array's slot storage (R176, R235) -/
  | wayCorrected (die way : Nat)
  | bankCorrected (core bank : Nat)
  | sectorCorrected (sector : Nat)
  | slotCorrected (array : Nat)
  /-- a channel of an element of an accumulator pair in RNS mode goes wrong: a residue of the channel (R263, R276) -/
  | residueUpset (array pair channel elem value : Nat)
  /-- frame i of a started row command will fail verification, where it is performed in the array (R321) -/
  | rowUpset (cmd i : Nat)
  /-- a die is retired: its cores leave service, and what it still records for a snapshot is lost (R341) -/
  | dieRetired (die : Nat)
  /-- a quad is retired: its four cores leave service (Table 1-10) -/
  | quadRetired (quad : Nat)
  /-- an uncorrectable error of a sector that a way of its die's L2 holds (R176) -/
  | wayError (way sector : Nat)
  /-- a remote access's path fails after link retry (R197); the path of a sys-homed line of row i of a started MMAG
  (R245) -/
  | pathFailure (port tag : Nat)
  | gatherFailure (cmd i : Nat)
  /-- a write of the host or of an agent of the system to sys memory (R36, R410) -/
  | sysWrite (addr : Nat) (bytes : List Byte)
  /-- the host asks for the resume or the termination of a reported context (R216) -/
  | hostAsks (ctx : Nat) (resume : Bool)
  /-- the host, or firmware, reads n bytes at a register (R3, R7) -/
  | registerRead (reg : RegName) (n : Nat)
  /-- firmware names another die of a domain as its allocator; a start request of another package's die reaches it (R323)
  -/
  | allocator (dom die : Nat)
  | snapRequest (dom : Nat) (ask : SnapAsk)
  /-- firmware loads a policy plug-in for a partition, or removes it (R381) -/
  | plugin (part : Nat) (code : Option (List Byte))
  /-- a unit that will fail self-test or training, the step at which bring-up will fail (0 for none), and a firmware slot
  whose image has decayed (R415, R417) -/
  | defect (d : Defect)
  | bootFault (step : Nat)
  | slotDecay (slot : Nat)
  deriving DecidableEq, Repr

/-- One turn: who moves, the die cycles that pass on each die, and what strikes the word. DESIGN CHOICE, safe: log
entry 1. -/
structure Turn where
  mover : Mover := .auto
  elapsed : List Nat := [1, 1, 1, 1]
  upsets : List Upset := []
  deriving DecidableEq, Repr

/-- Who issues the word that exec runs: context, gang, mask of slices, clause header, word address and index, and what
strikes it. DESIGN CHOICE, safe: log entry 2. -/
structure Issue where
  ctx : Nat := 0
  gang : Nat := 0
  slices : Nat := 0
  hdr : Nat := 0
  pc : Nat := 0
  widx : Nat := 0
  word : Word := 0
  upsets : List Upset := []
  deriving DecidableEq, Repr

/-- A LAUNCH that waits for the walker's answer (R212): who asked, the descriptor, the scope. -/
structure LaunchAsk where
  part : Nat
  depth : Nat
  ctx : Nat
  gang : Nat
  slices : Nat
  dest : Nat
  words : List Word
  scope : Nat
  core : Nat
  deriving DecidableEq, Repr

/-! ### Thamer Link (R350-R369) -/

/-- A key slot of one direction of a port (R360, R362, Table 14-4): the key, whether it holds one, the counter
(sending), the last counter taken (receiving; none while none was taken since the key was written). -/
structure KeySlot where
  key : Nat := 0
  valid : Bool := false
  count : Nat := 0
  taken : Option Nat := none
  deriving DecidableEq, Repr

/-- A port (R350, R356, R358, R361, R362, R365): registers of Tables 14-4 and 14-5, link sequence numbers, the replay
buffer, resends of its flits, retrains, flits that wait to be sent, credits and deficits. -/
structure Port where
  lkid : Nat := 0
  en : Bool := false
  act : Bool := false
  ret : Bool := false
  kreq : Bool := false
  thr : Nat := 0
  tx0 : KeySlot := {}
  tx1 : KeySlot := {}
  rlkid : Nat := 0
  ren : Bool := false
  ract : Bool := false
  /-- the receiving slot that a key-switch flit has closed (R361) -/
  rclosed : Option Bool := none
  rx0 : KeySlot := {}
  rx1 : KeySlot := {}
  seq : Nat := 0
  expect : Nat := 0
  nakSent : Bool := false
  replay : List Flit := []
  /-- the LSEQ of the unacknowledged key-switch flit -/
  switchSeq : Option Nat := none
  /-- resends of the flits of the replay buffer, in its order (R358) -/
  resends : List Nat := []
  retrains : Nat := 0
  retraining : Bool := false
  /-- the first LSEQ sent after the last retrain -/
  fresh : Option Nat := none
  down : Bool := false
  waiting : List Flit := []
  /-- shared credits by virtual channel, reserved credits by 8*function+channel, as used so far (R365) -/
  sharedUsed : Tab Nat := []
  reservedUsed : Tab Nat := []
  /-- input-buffer slots that wait to be returned as credits: function, and 8*pool+channel; the reserved slots that
  received flits hold, by 8*function+channel -/
  owed : List (Nat × Nat) := []
  rxReserved : NatSet := []
  deficits : Tab Nat := []
  /-- flits dropped and counted (R367) -/
  dropped : Nat := 0
  deriving DecidableEq, Repr

/-- The life of a virtual function id (R364, R367). -/
inductive VfState where
  | unassigned
  | live
  /-- issue has stopped; the die cycle at which the wait for responses began -/
  | tearing (since : Nat)
  | quarantined
  deriving DecidableEq, Repr

/-- A virtual function (R364, R367, R383): its partition, port set, weight, tag counter, virtual command processor
page, and what it remembers of its chains and teardown. -/
structure Vf where
  part : Nat := 0
  ports : Nat := 0
  weight : Nat := 4096
  st : VfState := .unassigned
  nextTag : Nat := 0
  page : Memory := []
  /-- teardown acknowledgements received, by package (R367); whether a function-level reset began the teardown (R411) -/
  acks : List Nat := []
  flr : Bool := false
  /-- the host has written SNANS while SNPEND was 1, and the page has not been read since (R384) -/
  answered : Bool := false
  /-- interrupts sent to the host at completions of entries with IRQ (R385) -/
  irqs : Nat := 0
  /-- slots of the fault queue written so far, which FQTAIL shows (R387); ERR and CODE of a reading that the page does not
  show yet (R408) -/
  tail : Nat := 0
  ended : Option (Bool × Nat) := none
  deriving DecidableEq, Repr

/-- Whom a transaction tag serves (R354, R363): an access of a gang, a command, a chunk of a graph's run. -/
inductive TagUse where
  | lanes (ctx gang access : Nat)
  | command (cmd : Nat)
  | chunk (handle node : Nat)
  /-- a read of a sector of code for a core (R65, R175): whether its constant cache may hold what arrives (R172), and
  whether no discard has overtaken it -/
  | code (core loc : Nat) (hold fresh : Bool)
  /-- a write of firmware or of the front end, which what they show of it waits for (R386, R387) -/
  | front
  /-- a read of a sector at a peer by the front end -/
  | frontRead (loc : Nat)
  deriving DecidableEq, Repr

/-- An outstanding request on the link (R363). -/
structure Pending where
  port : Nat
  use : TagUse
  kind : Nat
  /-- its flit has been sent, and holds a reply reservation -/
  sent : Bool := false
  /-- the port that its flit took instead, where that it was queued at went down first -/
  via : Option Nat := none
  /-- the colours, as a mask, whose record has discarded it: its answer is not logged (R335) -/
  cut : Nat := 0
  deriving DecidableEq, Repr

/-- A request that waits for a transaction tag (R354): its partition, the location at a peer, what its tag will serve,
its kind, channel and payload. -/
structure Unsent where
  part : Nat
  loc : Nat
  use : TagUse
  kind : Nat
  vc : Nat
  payload : List Byte
  deriving DecidableEq, Repr

/-- A happening of the front end that waits for sectors at peers: those still to come, and those it has. DESIGN CHOICE,
unsafe: log entry 80. -/
structure FrontWait where
  ev : Instr
  asked : List Nat
  held : Tab (List Byte) := []
  deriving DecidableEq, Repr

/-- A reduction slot allocator's answer to an instance (R375): its key, members, the slot or none, which members have
asked and released, the members' pod positions and functions, and the contributions by 256*step+member (R376). -/
structure SlotUse where
  ikey : Nat
  nmem : Nat
  rop : Nat
  slot : Option Nat
  asked : NatSet := []
  released : NatSet := []
  members : Tab Nat := []
  vfs : Tab Nat := []
  given : Tab Flit := []
  deriving DecidableEq, Repr

/-! ### Front end (R380-R397) -/

/-- A launch node (R212, R392): where it came from, its number, what each workgroup starts as but for its ids and its
place, PLACE (R389), the scope and core of a device launch, the scope of the acquire of its lanes (R45), the next
workgroup to dispatch, and how many have ended. -/
structure Launch where
  origin : LaunchFrom
  tmpl : Ctx
  place : Nat := 0
  within : Option (Nat × Nat) := none
  acq : Nat := 0
  total : Nat := 1
  next : Nat := 0
  ended : Nat := 0
  terminated : Bool := false
  deriving DecidableEq, Repr

/-- What a node of the ready pool runs (R28, R386, R392): a launch, a command, a saved context or the members of a span,
a chain entry of another kind. -/
inductive Work where
  | launch (l : Nat)
  | command (k : Nat)
  | saved (cs : List Nat)
  | entry (vf chain n : Nat)
  deriving DecidableEq, Repr

/-- A node of the ready pool (R392, R393, R395): its work, partition, base and effective priority, the die-0 cycle at
which it became ready, its class and key among nodes of one cycle, and the contexts being pre-empted for it. -/
structure PoolNode where
  work : Work
  part : Nat
  prio : Nat
  eff : Nat
  since : Nat
  cls : Nat := 2
  key : Nat := 0
  victims : List Nat := []
  looked : Bool := false
  room : List Nat := []
  deriving DecidableEq, Repr

/-- A chain entry's progress (R385, R386). -/
inductive EntryState where
  | waiting
  /-- its node is in the ready pool -/
  | pooled
  | started
  | done
  deriving DecidableEq, Repr

/-- A chain entry that firmware has taken: its 64 bytes as read, how far it is, and its VALUE, ERR and CODE. -/
structure Entry where
  bytes : List Byte
  st : EntryState := .waiting
  value : Nat := 0
  err : Bool := false
  code : Nat := 0
  deriving DecidableEq, Repr

/-- A command chain as firmware holds it (R384, R385): EN, BASE and SIZE as read while EN was 0, HEAD and CSEQ, and the
entries taken that CSEQ has not passed, by number. Numbers go on where EN rises again: `first` is that of the entry at
which HEAD, TAIL and CSEQ are 0. -/
structure Chain where
  first : Nat := 0
  en : Bool := false
  base : Nat := 0
  size : Nat := 0
  head : Nat := 0
  cseq : Nat := 0
  entries : Tab Entry := []
  deriving DecidableEq, Repr

/-- A variant of a collective graph (R370, R388): fallback, planes, operations of 64 bytes. -/
structure Variant where
  fallback : Option Nat
  planes : Nat
  ops : List (List Byte)
  deriving DecidableEq, Repr

/-- How far a node of a run is (R372). -/
inductive NodeState where
  | blocked
  | ready
  | running
  | finished
  | failed
  deriving DecidableEq, Repr

/-- A run of a graph (R372, R373, R379, R391): the command that it completes, its number, variant and bases, per node
its count and state, the answers to slot requests by plane, whether the variant is still open, ERR, and per SWRED node
the step and its plane's slot, with the die-0 cycle of the last retry. -/
structure Run where
  cmd : Nat
  number : Nat
  variant : Nat := 0
  bases : List Nat := []
  counts : List Nat := []
  states : List NodeState := []
  slots : Tab (Option Nat) := []
  choosing : Bool := false
  err : Bool := false
  steps : Tab Nat := []
  retried : Nat := 0
  /-- restored with SWRED nodes unfinished: slots are asked for again, and no fallback is taken (R377) -/
  again : Bool := false
  /-- decrements that arrived while the variant was open, by node -/
  early : List Nat := []
  deriving DecidableEq, Repr

/-- A loaded graph (R370, R388-R390): partition, kind, default priority, bindings, nodes of 128 bytes or variants,
runs begun, the run in progress and the decrements held for the next run. -/
structure Graph where
  part : Nat
  collective : Bool
  defPrio : Nat
  nbind : Nat
  nodes : List (List Byte) := []
  variants : List Variant := []
  runs : Nat := 0
  run : Option Run := none
  held : List Nat := []
  deriving DecidableEq, Repr

/-! ### Meters and non-volatile storage (R399-R409, R413-R418) -/

/-- The counters of a partition as the mirror holds them (R406). -/
structure Meter where
  count : Nat := 0
  direct : Nat := 0
  gapu : Nat := 0
  deriving DecidableEq, Repr

/-- A firmware image in a slot (R417): SVN, DIGEST, size. -/
structure Firmware where
  svn : Nat := 0
  digest : List Byte := []
  /-- the slot still returns what was written to it -/
  intact : Bool := true
  deriving DecidableEq, Repr

/-- What readings of a partition depend on beside its counters: whether a gap lies since its last signed reading, RSEQ of
that reading, SSN of the latest snapshot captured here (R404, R406, R407). -/
structure Audit where
  gapMark : Bool := false
  rseq : Nat := 0
  ssn : Nat := 0
  deriving DecidableEq, Repr

/-- What survives a reset (R406, R407, R415-R418): the mirror with the package's total and gap count, what readings of
each partition depend on, the reading and report numbers, partition records, the firmware slots, which of them is active, what is staged, the fused minimum. -/
structure NonVolatile where
  mirror : Tab Meter := []
  total : Nat := 0
  gaps : Nat := 0
  audit : Tab Audit := []
  rseq : Nat := 0
  aseq : Nat := 0
  records : List PartRecord := []
  slots : List Firmware := [{}, {}]
  active : Nat := 0
  staged : Bool := false
  minSvn : Nat := 0
  deriving DecidableEq, Repr

/-- An image on a tier target (R342): the snapshot, the logical package that it is of, and the stream of its records, each
with its die. -/
structure Image where
  dom : Nat
  ssn : Nat
  base : Nat
  inc : Bool
  part : Nat
  tgt : Nat
  /-- DRAM allocation units of the partition when it was recorded -/
  dram : List (Nat × Nat)
  logical : Nat := 0
  records : List (Nat × Record) := []
  /-- package state (record 0x0A): packages of the partition, graphs, launches, ready nodes, requests that are out or
  wait for a tag, and the commands of graphs and chains by number -/
  packages : Nat := 0
  graphs : Tab Graph := []
  launches : Tab Launch := []
  pool : List PoolNode := []
  pendings : Tab Pending := []
  unsent : List Unsent := []
  nodeCmds : List (Nat × Cmd) := []
  /-- live scope barrier words of the partition's contexts -/
  bars : List ScopeBar := []
  complete : Bool := false
  quiescent : Bool := true
  deriving DecidableEq, Repr

/-! ### The package -/

/-- A partition: its record (R382) and its counters (R399, R404, R406, R315, R386). -/
structure Part where
  record : PartRecord
  /-- queue notices so far, records that wait for room in the fault queue, and the policy defaults applied (R381, R387) -/
  qseq : Nat := 0
  waiting : List (Nat × List Byte) := []
  defaults : Nat := 0
  /-- row fallbacks (R315); corrected and transient events, retired units (Table 15-6, CNTR) -/
  fallbacks : Nat := 0
  corrected : Nat := 0
  transient : Nat := 0
  retired : Nat := 0
  lateReplies : Nat := 0
  /-- COUNT, DIRECT, GAPU (R399), the plug-in's code (R381, R418) -/
  meter : Meter := {}
  plugin : Option (List Byte) := none
  deriving DecidableEq, Repr

/-- The package. -/
structure State where
  /-- the model's own: who moves next (log entry 1), the posted happenings and the issuing word (log entry 2),
  the counter of free values (log entry 6), the slot that issued last on each SIMD unit, by 4*core+unit, and the unit
  that issued last (R96) -/
  turns : List Turn := []
  agenda : List Instr := []
  issue : Issue := {}
  freeIdx : Nat := 0
  last : Tab Nat := []
  lastUnit : Nat := 0
  /-- die cycle counters (R214) and operating points (R397) -/
  cycles : List Nat := [0, 0, 0, 0]
  ctxs : Tab Ctx := []
  nextCtx : Nat := 1
  cores : Tab Core := []
  /-- matrix arrays by 2*core+half (R225), and the live residue channels of each (R277) -/
  arrays : Tab MArray := []
  channels : Tab (BitVec 5) := []
  /-- remote-data caches by die (R172) -/
  remoteData : Tab (Tab Sector) := []
  /-- package memory by physical address, and its marked 32-byte sectors (R164, R177) -/
  dram : Memory := []
  dramMarks : NatSet := []
  /-- memory of the host and safe-tier ports by port*2^50+address (R164) -/
  sysMem : Memory := []
  sysMarks : NatSet := []
  scopeBars : List ScopeBar := []
  cmds : Tab Cmd := []
  nextCmd : Nat := 0
  launchAsks : Tab LaunchAsk := []
  nextAsk : Nat := 0
  parts : Tab Part := []
  /-- snapshot domains by id; E0, E1, EP by 4*partition+die; tags of memory granules; colour states by
  8*domain+2*die+colour; the allocator's state as each die last heard it, by the same key; images on the tiers; the
  contexts that images hold (R322-R347) -/
  domains : Tab Domain := []
  epochs : Tab DieEpoch := []
  tags : Tab Tag := []
  colours : Tab DieColour := []
  notices : Tab AllocState := []
  /-- notices and reports on their way, by the same key (R324, R325, R345) -/
  noticesDue : Tab (List AllocState) := []
  reportsDue : Tab (List DieState) := []
  images : List Image := []
  imageCtxs : Tab Ctx := []
  nextImageCtx : Nat := 0
  /-- ports by number; virtual functions by id; outstanding requests by 4096*function+tag, and those that wait for a
  tag; reduction slots of the Spire planes by plane; functions of other packages that were torn down, as pod position and id (R350-R367, R375) -/
  ports : Tab Port := []
  vfs : Tab Vf := []
  pendings : Tab Pending := []
  unsent : List Unsent := []
  /-- sectors at peers that the happening in progress may read, by location; those it has found missing; the happenings of
  the front end that wait for such (log entry 80) -/
  frontHeld : Tab (List Byte) := []
  frontMiss : List Nat := []
  frontWaits : List FrontWait := []
  spires : Tab (List SlotUse) := []
  tornDown : List (Nat × Nat) := []
  /-- late or unexpected messages that were discarded and counted (R324, R367, R372) -/
  discards : Nat := 0
  /-- remote accesses that were lost and counted (R197) -/
  lostCount : Nat := 0
  /-- pod position of the package, set at installation (R350) -/
  podPos : Nat := 0
  /-- events counted per source (R33, R276): source number to the die cycles at which they occurred; windows and
  thresholds that the operator has changed, by 4*class+die (R398, R419) -/
  events : Tab (List Nat) := []
  windows : Tab (Nat × Nat) := []
  /-- row engines by 64*die+channel: fallback counters, and those that are retired (R315, R321); DRAM rows that spares
  have replaced, by address/2048, and retired cache ways by 2^16*die+way (R33, Table 17-9) -/
  rowFallbacks : Tab Nat := []
  rowRetired : NatSet := []
  rowsSpared : NatSet := []
  waysRetired : NatSet := []
  /-- launch nodes by number; the ready pool; bypass counts, aging thresholds and boosts by level; dispatches so far
  (R392, R393) -/
  launches : Tab Launch := []
  nextLaunch : Nat := 1
  pool : List PoolNode := []
  bypass : List Nat := List.replicate 24 0
  agen : List Nat := List.replicate 24 256
  ageb : List Nat := List.replicate 24 1
  dispatches : Nat := 0
  /-- policy hooks that have been called and have not returned (R381) -/
  hooks : List Hook := []
  /-- chains by 4*function+chain; loaded graphs by handle; ready chunks of each function in order (R374, R385, R390) -/
  chains : Tab Chain := []
  graphs : Tab Graph := []
  nextHandle : Nat := 1
  chunks : Tab (List (Nat × Nat)) := []
  /-- the function that each port visits next (R374) -/
  visits : Tab Nat := []
  /-- deficits of the collective engine by function, and the function that it visits next (R374); what the Spires have
  sent to this package and its ports have not taken, by port (R375, R376) -/
  chunkDeficits : Tab Nat := []
  chunkVisit : Nat := 0
  spireOut : Tab (List Flit) := []
  /-- commands that snapshots captured, by image context number (R330 step 5) -/
  imageCmds : Tab (List (Nat × Cmd)) := []
  imageAsks : Tab (List LaunchAsk) := []
  /-- operating points by die, the points to which dies are rising, those that the power limit allows, the limit in
  watts (R397, R413) -/
  points : List Nat := [0, 0, 0, 0]
  rising : List (Option Nat) := [none, none, none, none]
  allowed : List Nat := [7, 7, 7, 7]
  powerLimit : Nat := 3600
  /-- attribution periods: the die cycle at which each die's began; charges on their way to die 0 by die; energy of the
  package in microjoules, and at its last mirror (R400, R406) -/
  periods : List Nat := [0, 0, 0, 0]
  charges : Tab (List (List Charge)) := []
  /-- nanojoules that the rounding of each die's last period left over (R400) -/
  carried : List Nat := [0, 0, 0, 0]
  energy : Nat := 0
  mirrored : Nat := 0
  /-- the management page, the requests that the monitor has observed, the one it serves first, each as the page stood
  then; whether step 1 of bring-up has ended, whether bring-up is complete and degraded, whether some image runs (R412,
  R415) -/
  mgmt : Memory := []
  requests : List Memory := []
  booted : Bool := false
  /-- what the host's last read of a register returned (R3, R7) -/
  hostSaw : List Byte := []
  ready : Bool := false
  degraded : Bool := false
  running : Option Firmware := none
  /-- the attestation key has been derived (R416); units that fail self-test or training, and
  the step at which bring-up fails, 0 for none (R415; the model's own record of the hardware's condition) -/
  attested : Bool := false
  defects : List Defect := []
  bootFails : Nat := 0
  stored : NonVolatile := {}
  deriving DecidableEq, Repr

/-! ### Stops -/

/-- Why a step stops with a fault. No step of this model does: every access the spec calls a fault is an exception
that the context takes (R216), and a happening whose condition does not hold changes nothing. -/
inductive Fault where
  /-- raised by nothing; safe, since a machine that stops proves less -/
  | unreachable
  deriving DecidableEq, Repr

/-- Why a step is refused. -/
inductive Refusal where
  /-- raised by an arm of exec whose instruction has no meaning yet; safe, since the run ends -/
  | notModelled (mnemonic : String)
  deriving DecidableEq, Repr

/-- The package right after a cold reset (R414): memory lists nothing, no context runs, the die cycle counters are at
0 (R214), no chain is enabled (R411), and bring-up is what happens next (R415). The values that the spec does not
state are those of log entries 3, 4 and 5; both firmware slots hold the image that the package is shipped with. DESIGN
CHOICE, unsafe: log entry 3. DESIGN CHOICE, safe: log entry 5. DEDUCED, unsafe: log entry 42. -/
def State.reset : State :=
  { agenda := [.coldReset],
    stored := { slots := List.replicate 2 { svn := Config.shippedSvn, digest := Config.shippedDigest } } }

end Sys2Proof.Machine
end

