-- ==== Sys2Proof/Machine/Ops.lean ====
section
/-! DEFINITION. The named operations over contexts, gangs, slices, lanes and registers; posting happenings; and
taking a fault, with the return from one beside it (R216-R218, R222, R420). -/

namespace Sys2Proof.Machine

/-- What every meaning answers. -/
abbrev Result := Host.Outcome State Fault Refusal

/-! ### Contexts, gangs and slices -/

/-- The context of a number, where it is live. -/
def State.ctxOf (s : State) (c : Nat) : Option Ctx := Tab.find c s.ctxs

/-- Changes a context. -/
def State.modCtx (c : Nat) (f : Ctx → Ctx) (s : State) : State := { s with ctxs := Tab.update c f s.ctxs }

/-- Changes a gang of a context. -/
def Ctx.modGang (g : Nat) (f : Gang → Gang) (x : Ctx) : Ctx := { x with gangs := mapNth g f x.gangs }

/-- Changes a gang of a context. -/
def State.modGang (c g : Nat) (f : Gang → Gang) (s : State) : State := s.modCtx c (Ctx.modGang g f)

/-- The issuing context. -/
def State.cx (s : State) : Ctx := (s.ctxOf s.issue.ctx).getD {}

/-- The n-th gang of a context. -/
def Ctx.gang (x : Ctx) (g : Nat) : Gang := nthOr {} x.gangs g

/-- The issuing gang. -/
def State.gg (s : State) : Gang := s.cx.gang s.issue.gang

/-- Changes the issuing context. -/
def State.modCx (f : Ctx → Ctx) (s : State) : State := s.modCtx s.issue.ctx f

/-- Changes the issuing gang. -/
def State.modGg (f : Gang → Gang) (s : State) : State := s.modGang s.issue.ctx s.issue.gang f

/-- The n-th slice of a gang. -/
def Gang.slice (g : Gang) (i : Nat) : Slice := nthOr {} g.slices i

/-- Changes the slices of a mask, each with its number. -/
def Gang.modSlices (mask : Nat) (f : Nat → Slice → Slice) (g : Gang) : Gang :=
  { g with slices := g.slices.mapIdx (fun i sl => if bit mask i then f i sl else sl) }

/-- The numbers of the slices of a mask, ascending. -/
def slicesOf (mask : Nat) : List Nat := maskBits 8 mask

/-- The issuing slices. -/
def State.issuing (s : State) : List Nat := slicesOf s.issue.slices

/-- A slice that has not exited (R93). -/
def Slice.live (sl : Slice) : Bool := sl.st != .exited

/-- The mask of the non-exited slices of a gang. -/
def Gang.liveMask (g : Gang) : Nat :=
  maskOf ((List.range g.slices.length).filter (fun i => (g.slice i).live))

/-- Posts a happening. DESIGN CHOICE, safe: log entry 2. -/
def State.post (ev : Instr) (s : State) : State := { s with agenda := s.agenda ++ [ev] }

/-! ### Cores and cycles -/

/-- Die of a core number 160*die+core. -/
def dieOf (core : Nat) : Nat := core / Config.coresPerDie

/-- A core. -/
def State.core (s : State) (n : Nat) : Core := Tab.read {} n s.cores

/-- Changes a core. -/
def State.modCore (n : Nat) (f : Core → Core) (s : State) : State :=
  { s with cores := Tab.write {} n (f (s.core n)) s.cores }

/-- The cycle counter of a die (R214). -/
def State.cycle (s : State) (die : Nat) : Nat := nthOr 0 s.cycles die

/-- Takes the next free number. DESIGN CHOICE, safe: log entry 6. -/
def State.free (s : State) : Nat × State := (Config.freeNat s.freeIdx, { s with freeIdx := s.freeIdx + 1 })

/-- Takes n free bytes. DESIGN CHOICE, safe: log entry 6. -/
def State.freeBytes (n : Nat) (s : State) : List Byte × State :=
  ((List.range n).map (fun i => Config.freeByte (s.freeIdx + i)), { s with freeIdx := s.freeIdx + n })

/-! ### Lanes and registers -/

/-- The lane's slice. -/
def sliceOfLane (l : Nat) : Nat := l / 4

/-- Active mask bit of a lane (Table 4-1). -/
def Gang.am (g : Gang) (l : Nat) : Bool := (g.slice (sliceOfLane l)).am.getLsbD (l % 4)

/-- Effective mask of a lane: am(l) and (g(l) xor sense) (R78). -/
def Gang.enabled (g : Gang) (l : Nat) : Bool :=
  let sl := g.slice (sliceOfLane l)
  sl.am.getLsbD (l % 4) && (sl.guard.getLsbD (l % 4) ^^ sl.sense)

/-- The lanes of a mask of slices, ascending. -/
def lanesOf (slices : Nat) : List Nat := (List.range 32).filter (fun l => bit slices (sliceOfLane l))

/-- The issuing lanes that the effective mask enables, ascending (R103). -/
def State.enabledLanes (s : State) : List Nat := (lanesOf s.issue.slices).filter s.gg.enabled

/-- The leader lane of the issuing slices (R12, R99). -/
def State.leader (s : State) : Nat := 4 * leastOr 0 s.issuing

/-- What a lane of a register holds. -/
def Gang.reg (g : Gang) (r l : Nat) : LaneVal := Tab.read {} (32 * r + l) g.regs

/-- Writes a lane of a register. -/
def Gang.setReg (r l : Nat) (v : LaneVal) (g : Gang) : Gang :=
  { g with regs := Tab.write {} (32 * r + l) v g.regs }

/-- Writes the lanes of a register from a list. -/
def Gang.setLanes (r : Nat) : List (Nat × LaneVal) → Gang → Gang
  | [], g => g
  | (l, v) :: t, g => Gang.setLanes r t (g.setReg r l v)

/-- A scalar result: one value in every lane of a mask of slices, P clear (R99). -/
def Gang.setScalar (r slices : Nat) (v : Word) (g : Gang) : Gang :=
  g.setLanes r ((lanesOf slices).map (fun l => (l, { val := v })))

/-- The value of a register in the leader lane. -/
def State.lead (s : State) (r : Nat) : LaneVal := s.gg.reg r s.leader

/-- The 64-bit value of a register pair of a lane, low word first (R74). -/
def Gang.pair (g : Gang) (r l : Nat) : Nat := (g.reg r l).val.toNat + 2 ^ 32 * (g.reg (r + 1) l).val.toNat

/-- Poison of a register pair of a lane (R125). -/
def Gang.pairP (g : Gang) (r l : Nat) : Bool := (g.reg r l).p || (g.reg (r + 1) l).p

/-- Removes registers from the staging buffer when an instruction with L completes (R73, R102); of a pair that an
operand names, both. DEDUCED, safe: log entry 63. -/
def Gang.unstage (l : Bool) (a n : Nat) (g : Gang) : Gang :=
  if l then { g with staging := g.staging.filter (fun r => r < a || a + n ≤ r) } else g

/-- Removes registers from the issuing gang's staging buffer. -/
def State.unstage (l : Bool) (a n : Nat) (s : State) : State := if l then s.modGg (Gang.unstage l a n) else s

/-! ### Faults -/

/-- Fault codes (Table 7-10). -/
def fIllegalEncoding : Nat := 0x0001
def fRegRange : Nat := 0x0002
def fRegPair : Nat := 0x0003
def fTypeMismatch : Nat := 0x0004
def fPoisonControl : Nat := 0x0005
def fPoisonAddress : Nat := 0x0006
def fJtabRange : Nat := 0x0007
def fJtabDepth : Nat := 0x0008
def fTokenOrder : Nat := 0x0009
def fCallDepth : Nat := 0x000A
def fDuplexMismatch : Nat := 0x0010
def fShadowMismatch : Nat := 0x0011
def fAddressRange : Nat := 0x0018
def fScratchRange : Nat := 0x0019
def fMisaligned : Nat := 0x001A
def fAtomInvalid : Nat := 0x001B
def fPageNotPresent : Nat := 0x001C
def fPageFormat : Nat := 0x001D
def fPagePermission : Nat := 0x001E
def fMonitorRange : Nat := 0x001F
def fRemoteWriteLost : Nat := 0x0020
def fCommandInvalid : Nat := 0x0028
def fBarrierRange : Nat := 0x0029
def fBarrierState : Nat := 0x002A
def fBarrierClobber : Nat := 0x002B
def fBarrierTimeout : Nat := 0x002C
def fTrap : Nat := 0x0030
def fRangeOverflow : Nat := 0x0040
def fResidueMismatch : Nat := 0x0041

/-- The fields of a fault that its rule names (Table 7-14). -/
structure FaultInfo where
  code : Nat
  lanes : Nat := 0
  addr : Nat := 0
  detail0 : Nat := 0
  detail1 : Nat := 0
  fetch : Bool := false
  deriving DecidableEq, Repr

/-- Whether a fault's record is precise and its context resumable (Table 7-10). -/
def faultFlags (f : FaultInfo) : Nat :=
  (if f.code = fRemoteWriteLost ∨ f.code = fBarrierTimeout then 0 else 3) + (if f.fetch then 4 else 0)

/-- The record of a fault of the issuing slices at a word (Table 7-8). -/
def State.faultRecord (f : FaultInfo) (hdr pc widx : Nat) (s : State) : FaultRec :=
  { code := f.code, flags := faultFlags f, ctx := s.issue.ctx, part := s.cx.part, gang := s.issue.gang,
    slices := s.issue.slices, widx := widx, lanes := f.lanes, hdr := hdr, pc := pc, addr := f.addr,
    detail0 := f.detail0, detail1 := f.detail1, cycle := s.cycle (dieOf s.cx.core), die := dieOf s.cx.core,
    core := s.cx.core % Config.coresPerDie }

/-- Stops a context with a record: no gang of it issues another word (R123, R216), it drains, its image is sealed
and the record goes to the front end (IMAGE_SEAL). -/
def State.stopCtx (c : Nat) (r : FaultRec) (s : State) : State :=
  match s.ctxOf c with
  | none => s
  | some x =>
    if x.run = .running then
      s.modCtx c (fun y => { y with run := .stopping, cause := .fault, fault := some r })
    else s

/-- Sets a flag whose count is zero and whose clause has ended (R67). -/
def Flag.settle (f : Flag) : Flag := if f.count = 0 ∧ f.opened = false then { f with set := true } else f

/-- Whether a flag is set. -/
def Gang.flagSet (g : Gang) (i : Nat) : Bool := (nthOr {} g.flags i).set

/-- The flags of a WAIT field. -/
def waitFlags (wait : BitVec 12) : List Nat := maskBits 12 wait.toNat

/-- Whether every flag of a WAIT field is set (R62). -/
def Gang.waitDone (wait : BitVec 12) (g : Gang) : Bool := (waitFlags wait).all g.flagSet

/-- A slice that waits at a header whose flags are all set is runnable again (R62). -/
def Slice.wake (g : Gang) (sl : Slice) : Slice :=
  if sl.st == .waiting .flags && g.waitDone ((nthOr 0 sl.clause 0).extractLsb' 13 12) then { sl with st := .runnable } else sl

/-- Wakes the slices that wait at a header whose flags are all set. -/
def Gang.wakeSlices (g : Gang) : Gang := { g with slices := g.slices.map (Slice.wake g) }

/-- Ends a clause for the flags that it armed last (R67); a flag that this sets may end the wait of other slices (R62). -/
def Gang.closeFlags (clauseNo : Nat) (g : Gang) : Gang :=
  Gang.wakeSlices
    { g with flags := g.flags.map (fun f => if f.opened && f.armer == clauseNo then ({ f with opened := false }).settle else f) }

/-- The number of the clause that the issuing slices are in. -/
def State.clauseNo (s : State) : Nat := (s.gg.slice (leastOr 0 s.issuing)).clauseNo

/-- Takes a fault at a named word (R216, R420): the faulting word and its later words have no effect (R66), and its
clause counts as ended for the flags it armed (R67). -/
def State.raiseAt (f : FaultInfo) (hdr pc widx : Nat) (s : State) : State :=
  (s.modGg (Gang.closeFlags s.clauseNo)).stopCtx s.issue.ctx (s.faultRecord f hdr pc widx)

/-- Takes a fault at the issuing word. -/
def State.raise (f : FaultInfo) (s : State) : State := s.raiseAt f s.issue.hdr s.issue.pc s.issue.widx

/-- The first fault of a list of checks, in their order. -/
def firstFault : List (Option FaultInfo) → Option FaultInfo
  | [] => none
  | some f :: _ => some f
  | none :: t => firstFault t

/-- A check that raises where its condition holds. -/
def faultIf (c : Bool) (f : FaultInfo) : Option FaultInfo := if c then some f else none

/-- Does what a word does where no check raises. -/
def State.checked (f : Option FaultInfo) (act : State → State) (s : State) : State :=
  match f with
  | some i => s.raise i
  | none => act s

end Sys2Proof.Machine
end

