-- ==== Sys2Proof/Machine/Memory.lean ====
section
/-! DEFINITION. Homes and locations (R163, R164), the page walk (R166-R169), striping (R182, R183), reads at the home
and through the caches (R172-R175), and the marks of memory (R177). A location is one number: a package physical
address, a logical package with an address there, or a sys port with an address. -/

namespace Sys2Proof.Machine

/-- First location of fabric homes: fabricBase + 2^39*(512*partition + logical package) + address. -/
def fabricBase : Nat := 2 ^ 60
/-- First location of sys homes: sysBase + 2^50*port + address. -/
def sysBase : Nat := 2 ^ 61

/-- The home of a location (Table 6-2). -/
inductive Home where
  | package
  | fabric
  | sys
  deriving DecidableEq, Repr

/-- The home of a location. -/
def homeOf (loc : Nat) : Home := if loc < fabricBase then .package else if loc < sysBase then .fabric else .sys

/-- The die that homes a package location (Table 6-2). -/
def homeDie (loc : Nat) : Nat := bits loc 38 37

/-- The 32-byte sector of a location (R177). -/
def sectorOf (loc : Nat) : Nat := loc / 32

/-- The byte at a package or sys location. -/
def State.homeByte (s : State) (loc : Nat) : Byte :=
  if loc < fabricBase then s.dram.get loc else s.sysMem.get (loc - sysBase)

/-- Bytes from a package or sys location on. -/
def State.homeBytes (s : State) (loc n : Nat) : List Byte := (List.range n).map (fun i => s.homeByte (loc + i))

/-- A little-endian number of n bytes in package memory. -/
def State.dramNat (s : State) (pa n : Nat) : Nat := ofLeBytes (s.dram.bytes pa n)

/-- Whether the sector of a location is marked at its home (R177). -/
def State.homeMark (s : State) (loc : Nat) : Bool :=
  if loc < fabricBase then NatSet.has (sectorOf loc) s.dramMarks else NatSet.has (sectorOf (loc - sysBase)) s.sysMarks

/-! ### The page walk -/

/-- A leaf entry (Tables 6-3, 6-4). -/
structure Leaf where
  level : Nat
  pageBits : Nat
  pr : Bool
  pw : Bool
  px : Bool
  home : Home
  coh : Bool
  cache : Nat
  stripe : Bool
  rowl : Bool
  logic : Bool
  base : Nat
  ssi : Nat
  ctp : Nat
  deriving DecidableEq, Repr

/-- Why an access has no location: a code, and the level at which the walk stopped (R169, Table 7-14). -/
structure WalkFail where
  code : Nat
  level : Nat
  deriving DecidableEq, Repr

/-- The levels below the root, as the number of their first index bit and of their index bits (Table 6-3a). -/
def walkLevels : List (Nat × Nat) := [(47, 10), (38, 9), (29, 9), (21, 8), (16, 5)]

/-- Whether a DRAM allocation unit is the 512 MiB of its die that firmware keeps for itself, which no partition and no
program reaches (R380): the die's last. DESIGN CHOICE, unsafe: log entry 81. -/
def firmwareUnit (u : Nat) : Bool := u % 256 == 255

/-- Whether a leaf's physical address breaks Table 6-2, or lies in firmware's own memory (R380). DESIGN CHOICE, unsafe: log
entry 81. -/
def leafAddrBad (home stripe pa : Nat) : Bool :=
  match home with
  | 0 => bits pa 51 39 != 0 || firmwareUnit (pa / 2 ^ 29)
  | 1 => if stripe = 1 then bits pa 51 39 != 0 else bits pa 51 48 != 0
  | _ => bits pa 51 50 == 3

/-- Whether a leaf entry of a level is malformed (R167-R169). -/
def leafBad (w0 w1 pageBits : Nat) : Bool :=
  let home := bits w0 58 57
  let pa := bits w0 51 9 * 512
  bits w0 7 0 != 0 || bits w1 63 60 != 0 || bits w1 4 0 != 0 || home == 3 || bits w0 55 54 == 3
  || pa % 2 ^ pageBits != 0 || leafAddrBad home (bits w0 53 53) pa
  || (bit w0 53 && home != 1) || (bit w0 56 && home != 0) || (bit w0 52 && home != 0)
  || (bit w0 8 && !bit w0 52) || (bit w0 60 && !bit w0 61) || (!bit w0 53 && bits w1 59 52 != 0)
  || (bit w0 60 && home == 0 && bits w1 51 5 == 0)

/-- The leaf of a well-formed leaf entry. -/
def leafOf (w0 w1 level pageBits : Nat) : Leaf :=
  { level := level, pageBits := pageBits, pr := bit w0 61, pw := bit w0 60, px := bit w0 59,
    home := if bits w0 58 57 = 0 then .package else if bits w0 58 57 = 1 then .fabric else .sys,
    coh := bit w0 56, cache := bits w0 55 54, stripe := bit w0 53, rowl := bit w0 52, logic := bit w0 8,
    base := bits w0 51 9 * 512, ssi := bits w1 59 52, ctp := bits w1 51 5 * 32 }

/-- Whether a pointer entry is malformed: an unused field that is not zero, an address beyond package memory (Table
6-2), or one not aligned to the next table, whose entries have the given number of index bits (R167, R169). -/
def pointerBad (w0 w1 nextBits : Nat) : Bool :=
  bits w0 61 52 != 0 || bits w0 8 0 != 0 || w1 != 0 || bits w0 51 39 != 0 || (bits w0 51 9 * 512) % (16 * 2 ^ nextBits) != 0

/-- The walk from a table of a level on (R166-R169). -/
def State.walk (s : State) (va table level : Nat) : List (Nat × Nat) → WalkFail ⊕ Leaf
  | [] => .inl { code := fPageFormat, level := 4 }
  | (lo, n) :: rest =>
    let entry := table + 16 * bits va (lo + n - 1) lo
    let w0 := s.dramNat entry 8
    let w1 := s.dramNat (entry + 8) 8
    if !bit w0 63 then .inl { code := fPageNotPresent, level := level }
    else if bit w0 62 then
      if level < 2 || leafBad w0 w1 lo then .inl { code := fPageFormat, level := level }
      else .inr (leafOf w0 w1 level lo)
    else
      match rest with
      | [] => .inl { code := fPageFormat, level := level }
      | (_, m) :: _ =>
        if pointerBad w0 w1 m then .inl { code := fPageFormat, level := level }
        else s.walk va (bits w0 51 9 * 512) (level + 1) rest

/-- A partition's record; a partition that does not exist has an empty one. -/
def State.part (s : State) (p : Nat) : Option Part := Tab.find p s.parts

/-- Root of a partition's page tables (R166). -/
def State.rootOf (s : State) (p : Nat) : Nat := match s.part p with | some r => r.record.root | none => 0

/-- Whether a number up to 509 is prime. -/
def isPrime (n : Nat) : Bool := 2 ≤ n && (List.range n).all (fun d => d < 2 || n % d != 0)

/-- Whether a stripe set size is allowed (Table 6-10). -/
def stripeSizeOk (n : Nat) : Bool := n ∈ [1, 2, 4, 8, 16, 32, 64, 128, 256, 512] || (n ≤ 509 && isPrime n)

/-- The xor of the k-bit chunks of a number, at most f of them (R183). -/
def xorChunks (k : Nat) : Nat → Nat → Nat
  | 0, _ => 0
  | f + 1, b => (b % 2 ^ k) ^^^ xorChunks k f (b / 2 ^ k)

/-- The ordinal of a block in a stripe set of n packages (R183). 2 is a power of two and a prime: the first of the rule's
two cases is taken. DESIGN CHOICE, unsafe: log entry 60. -/
def stripeOrdinal (n block : Nat) : Nat :=
  if n = 1 then 0
  else if n ∈ [2, 4, 8, 16, 32, 64, 128, 256, 512] then xorChunks (Nat.log2 n) 31 block
  else block % n

/-- The pod position of a logical package in a partition's package map (R164, R382). -/
def State.podOf (s : State) (p logical : Nat) : Option Nat :=
  match s.part p with
  | some r => (r.record.pmap.find? (fun e => e.1 == logical)).map (·.2)
  | none => none

/-- The location of an address at a logical package of a partition: this package's own memory, or a fabric home (R183).
A page that is not striped and names the own package is treated in the same way. DEDUCED, unsafe: log entry 61. -/
def State.peerLoc (s : State) (p logical addr : Nat) : Nat :=
  if s.podOf p logical = some s.podPos then addr else fabricBase + 2 ^ 39 * (512 * p + logical) + addr

/-- The location at a peer that a fabric leaf names; a leaf that names firmware's own memory of this package is malformed
(R380). DESIGN CHOICE, unsafe: log entry 81. -/
def State.fabricLoc (s : State) (p level logical addr : Nat) : WalkFail ⊕ Nat :=
  let loc := s.peerLoc p logical addr
  if homeOf loc == .package && firmwareUnit (loc / 2 ^ 29) then .inl { code := fPageFormat, level := level } else .inr loc

/-- The location of a virtual address under its leaf (R164, R182, R183); a stripe set of a wrong size makes the leaf
malformed. -/
def State.leafLoc (s : State) (p va : Nat) (l : Leaf) : WalkFail ⊕ Nat :=
  let pa := l.base + va % 2 ^ l.pageBits
  match l.home with
  | .package => .inr pa
  | .sys => .inr (sysBase + pa)
  | .fabric =>
    if l.stripe then
      let sstb := match s.part p with | some r => r.record.sstb | none => 0
      let set := sstb + 2048 * l.ssi
      let n := s.dramNat set 2
      if stripeSizeOk n then
        let o := stripeOrdinal n (bits pa 38 8)
        s.fabricLoc p l.level (s.dramNat (set + 8 + 2 * o) 2 % 512) (pa % 2 ^ 39)
      else .inl { code := fPageFormat, level := l.level }
    else s.fabricLoc p l.level (bits pa 47 39) (pa % 2 ^ 39)

/-- The permissions an access needs (Table 6-5). -/
structure Need where
  r : Bool := false
  w : Bool := false
  x : Bool := false
  noSys : Bool := false
  deriving DecidableEq, Repr

/-- A translated access: its location and its leaf. -/
structure Place where
  loc : Nat
  leaf : Leaf
  deriving DecidableEq, Repr

/-- Whether a leaf denies an access (Table 6-5). -/
def Leaf.denies (l : Leaf) (need : Need) : Bool :=
  (need.r && !l.pr) || (need.w && !l.pw) || (need.x && !l.px) || (need.noSys && l.home == .sys)

/-- Translates an address by the partition's page tables (R166-R169, R182, R183). -/
def State.tableWalk (s : State) (p va : Nat) (need : Need) : WalkFail ⊕ Place :=
  match s.walk va (s.rootOf p) 0 walkLevels with
  | .inl f => .inl f
  | .inr l =>
    match s.leafLoc p va l with
    | .inl f => .inl f
    | .inr loc =>
      if l.denies need then .inl { code := fPagePermission, level := l.level } else .inr { loc := loc, leaf := l }

/-! ### The constant region (R186, Table 6-1) -/

/-- Base of slot k of the constant region. -/
def slotBase (k : Nat) : Nat := 0xFF00000000000000 + 2 ^ 32 * k

/-- Launches and contexts of a partition that hold a slot of the constant region: those live, and those of images. -/
def State.slotHolders (s : State) (p : Nat) : List Ctx :=
  ((s.launches.map (fun e => e.2.tmpl)) ++ s.ctxs.map (·.2) ++ s.images.flatMap (fun i => i.launches.map (fun e => e.2.tmpl))).filter
    (fun x => x.part == p && x.cbase != 0)

/-- The address in a kernel's data section that an address of the constant region stands for: the front end maps the
section's pages at CBASE (R89, log entry 19). -/
def State.sectionVa (s : State) (p va : Nat) : Option Nat :=
  if slotBase 0 ≤ va && va < slotBase 65536 then
    match (s.slotHolders p).find? (fun x => x.cbase == va - va % 2 ^ 32) with
    | some x => if va % 2 ^ 32 < ceilDiv x.dataSize 65536 * 65536 then some (x.dataAt + va % 2 ^ 32) else none
    | none => none
  else none

/-- Translates an address of a partition for an access: the data section in the constant region is read-only, and the
partition's tables translate every other address (R166-R169, R182, R183, R186). DESIGN CHOICE, unsafe: log entry 8.
DEDUCED, safe: log entry 19. -/
def State.translate (s : State) (p va : Nat) (need : Need) : WalkFail ⊕ Place :=
  match s.sectionVa p va with
  | none => s.tableWalk p va need
  | some a =>
    match s.tableWalk p a { r := true } with
    | .inl f => .inl f
    | .inr pl =>
      let l := { pl.leaf with level := 4, pw := false, px := false }
      if l.denies need then .inl { code := fPagePermission, level := 4 } else .inr { pl with leaf := l }

/-- Whether an address lies in the spaces that page tables translate (Table 6-1). -/
def translatedVa (va : Nat) : Bool := canonicalVa va && va < 0xFFFFFF8000000000

/-- First address of the local scratchpad window (Table 6-1). -/
def windowBase : Nat := 0xFFFFFFFFFFF80000

/-! ### Reads through the caches -/

/-- The content of a sector at its home. -/
def State.homeSector (s : State) (loc : Nat) (coh : Bool) : Sector :=
  { bytes := s.homeBytes (32 * sectorOf loc) 32, mark := s.homeMark loc, coh := coh }

/-- The remote-data cache of a die. -/
def State.rdc (s : State) (die : Nat) : Tab Sector := Tab.read [] die s.remoteData

/-- Changes the remote-data cache of a die. -/
def State.modRdc (die : Nat) (f : Tab Sector → Tab Sector) (s : State) : State :=
  { s with remoteData := Tab.write [] die (f (s.rdc die)) s.remoteData }

/-- Whether a location is homed on a die. -/
def homedOn (loc die : Nat) : Bool := homeOf loc == .package && homeDie loc == die

/-- A sector held for a core: by its L1, else by its die's remote-data cache, where the page lets them hold it
(R172). -/
def State.heldSector (s : State) (core loc cache : Nat) : Option Sector :=
  match (if cache = 0 then Tab.find (sectorOf loc) (s.core core).l1 else none) with
  | some x => some x
  | none => if cache = 2 || homedOn loc (dieOf core) then none else Tab.find (sectorOf loc) (s.rdc (dieOf core))

/-- Fills the caches of a core with a sector it has read (R172). -/
def State.fillSector (core loc cache : Nat) (x : Sector) (s : State) : State :=
  let s1 := if cache = 2 || homedOn loc (dieOf core) then s
            else s.modRdc (dieOf core) (Tab.set (sectorOf loc) x)
  if cache = 0 then s1.modCore core (fun c => { c with l1 := Tab.set (sectorOf loc) x c.l1 }) else s1

/-- Reads a sector for a core on the LS path: what its caches hold, else the home's content, which they then hold. Not
for fabric homes, which are read by flits (R172, R184). DESIGN CHOICE, unsafe: log entry 8. -/
def State.readSector (core loc : Nat) (l : Leaf) (s : State) : Sector × State :=
  match s.heldSector core loc l.cache with
  | some x => (x, s)
  | none => (s.homeSector loc l.coh, s.fillSector core loc l.cache (s.homeSector loc l.coh))

/-- n bytes of a sector from a location on. -/
def Sector.from (x : Sector) (loc n : Nat) : List Byte := (x.bytes.drop (loc % 32)).take n

/-- A sector that a core's constant cache holds, where the page lets it (R172, R175). -/
def State.heldConst (s : State) (core : Nat) (p : Place) : Option Sector :=
  if p.leaf.cache = 2 then none else Tab.find (sectorOf p.loc) (s.core core).consts

/-- A sector of code that a fetch of a core finds there: in its constant cache, or as just read at a peer. -/
def State.heldCode (s : State) (core : Nat) (p : Place) : Option Sector :=
  (s.heldConst core p).orElse (fun _ => Tab.find (sectorOf p.loc) (s.core core).fetched)

/-- Reads a word of code without filling the constant cache: what the core holds, else the home (R65, R175). -/
def State.codeBytes (s : State) (core : Nat) (p : Place) (n : Nat) : List Byte :=
  match s.heldCode core p with
  | some x => x.from p.loc n
  | none => s.homeBytes p.loc n

/-- Fills the constant cache with the sectors of a list of places, where their pages let it hold them (R172, R175). -/
def State.fillConst (core : Nat) : List Place → State → State
  | [], s => s
  | p :: t, s =>
    let s1 := if p.leaf.cache = 2 || (s.heldConst core p).isSome then s
      else s.modCore core (fun c => { c with consts := Tab.set (sectorOf p.loc) (s.homeSector p.loc false) c.consts })
    State.fillConst core t s1

/-- The word of code at a virtual address for a context; none where it does not translate with PX. -/
def State.codeWord (s : State) (x : Ctx) (va : Nat) : WalkFail ⊕ Word :=
  match s.translate x.part va { x := true } with
  | .inl f => .inl f
  | .inr p => .inr (BitVec.ofNat 32 (ofLeBytes (s.codeBytes x.core p 4)))

/-! ### Responses that a discard overtakes (R42, R47, R48, Table 2-6) -/

/-- The parts of an access that are out at peers and that a test of their location and length names fill no cache
nearer than a level: 1 not the L1, 2 no cache (R172). -/
def Access.keepOut (lvl : Nat) (test : Nat → Nat → Bool) (a : Access) : Access :=
  { a with remote := a.remote.map (fun r =>
      if !r.done && test r.addr r.len then { r with cache := Nat.max r.cache lvl } else r) }

/-- What the loads of a gang on one path still bring fills no cache nearer than a level. -/
def Gang.keepOut (const : Bool) (lvl : Nat) (test : Nat → Nat → Bool) (g : Gang) : Gang :=
  { g with accesses := g.accesses.map (fun e => if e.2.const == const then (e.1, e.2.keepOut lvl test) else e) }

/-- A discard in the caches of the cores that a test names reaches responses still on their way: what they bring goes to
their lanes alone, so that no cache holds again what the discard dropped (R42, R47, R60). -/
def State.keepOut (const : Bool) (cores : Nat → Bool) (lvl : Nat) (test : Nat → Nat → Bool) (s : State) : State :=
  if s.pendings.isEmpty then s
  else { s with ctxs := s.ctxs.map (fun e =>
    if cores e.2.core then (e.1, { e.2 with gangs := e.2.gangs.map (Gang.keepOut const lvl test) }) else e) }

/-- A read of code for a core that a discard of its constant cache overtakes. -/
def Pending.overtake (core : Nat) (q : Pending) : Pending :=
  match q.use with
  | .code c loc hold _ => if c = core then { q with use := .code c loc hold false } else q
  | .lanes _ _ _ | .command _ | .chunk _ _ | .front | .frontRead _ => q

/-! ### Dropping cached sectors (Table 2-6) -/

/-- Drops every global-memory line of a core's L1. -/
def State.dropL1 (core : Nat) (s : State) : State :=
  (s.modCore core (fun c => { c with l1 := [] })).keepOut false (· == core) 1 (fun _ _ => true)

/-- Drops a core's constant cache, and what is still on its way to it. -/
def State.dropConst (core : Nat) (s : State) : State :=
  let s1 := (s.modCore core (fun c => { c with consts := [], fetched := [] })).keepOut true (· == core) 2 (fun _ _ => true)
  if s1.pendings.isEmpty then s1
  else { s1 with pendings := s1.pendings.map (fun e => (e.1, e.2.overtake core)) }

/-- Drops the remote-data cache sectors of a die that a test of their location names. -/
def State.dropRdc (die : Nat) (test : Nat → Sector → Bool) (s : State) : State :=
  s.modRdc die (fun t => t.filter (fun e => !test (32 * e.1) e.2))

/-- The acquire of lanes of a core at a scope (Table 2-6): from quad on the L1 goes; from package on the package-homed
remote-data lines that are not coherent; from pod on the fabric-homed lines, and the sys-homed ones with them (R174).
DESIGN CHOICE, unsafe: log entry 8. -/
def State.acquire (core scope : Nat) (s : State) : State :=
  let s1 := if scope = 0 then s else s.dropL1 core
  let s2 := if scope < 3 then s1
            else s1.dropRdc (dieOf core) (fun loc x => homeOf loc == .package && !x.coh)
  if scope < 4 then s2
  else (s2.dropRdc (dieOf core) (fun loc _ => homeOf loc != .package)).keepOut false (fun k => dieOf k == dieOf core) 2
    (fun _ _ => true)

/-- Drops the 128-byte lines of a list from a core's L1 (Table 6-7). -/
def State.dropLines (core : Nat) (lines : List Nat) (s : State) : State :=
  if lines.isEmpty then s
  else (s.modCore core (fun c => { c with l1 := c.l1.filter (fun e => !lines.contains (e.1 / 4)) })).keepOut false (· == core)
    1 (fun a n => lines.any (fun k => a < 128 * k + 128 && 128 * k < a + n))

/-- Drops the 128-byte lines of a list from a core's L1 and its die's remote-data cache. -/
def State.dropDieLines (core : Nat) (lines : List Nat) (s : State) : State :=
  if lines.isEmpty then s
  else ((s.dropLines core lines).dropRdc (dieOf core) (fun loc _ => lines.contains (loc / 128))).keepOut false
    (fun k => dieOf k == dieOf core) 2 (fun a n => lines.any (fun k => a < 128 * k + 128 && 128 * k < a + n))

/-- Drops a sector from every L1 and every remote-data cache of the package. -/
def State.dropCopies (k : Nat) (s : State) : State :=
  let s1 := (s.cores.map (·.1)).foldl (fun t n => t.modCore n (fun c => { c with l1 := Tab.drop k c.l1 })) s
  (s1.remoteData.map (·.1)).foldl (fun t d => t.modRdc d (Tab.drop k)) s1

/-- A write updates the sectors that caches hold (R172, R173): bytes of one sector, in the L1 of a core and the
remote-data cache of its die. -/
def Sector.patch (loc : Nat) (b : Byte) (x : Sector) : Sector :=
  { x with bytes := mapNth (loc % 32) (fun _ => b) x.bytes }

end Sys2Proof.Machine
end

