-- ==== Sys2Proof/Machine/Link.lean ====
section
/-! DEFINITION. What a package sends over Thamer Link (R350-R354, R363): virtual functions and their port sets,
transaction tags, payloads, and the flits that wait at a port; fills of the constant cache from peers. -/

namespace Sys2Proof.Machine

/-! ### Virtual functions -/

/-- A virtual function. -/
def State.vf (s : State) (v : Nat) : Vf := Tab.read {} v s.vfs

/-- Changes a virtual function. -/
def State.modVf (v : Nat) (f : Vf → Vf) (s : State) : State := { s with vfs := Tab.write {} v (f (s.vf v)) s.vfs }

/-- Whether a virtual function serves a partition. -/
def Vf.serves (x : Vf) (p : Nat) : Bool := x.part == p && x.st != .unassigned

/-- The virtual function whose page holds a partition's fault queue, and through which its lanes reach peers: the
lowest of its functions. DESIGN CHOICE, unsafe: log entry 18. -/
def State.vfOf (s : State) (p : Nat) : Option Nat := (s.vfs.find? (fun e => e.2.serves p)).map (·.1)

/-- Changes a partition. -/
def State.modPart (p : Nat) (f : Part → Part) (s : State) : State := { s with parts := Tab.update p f s.parts }

/-- A port. -/
def State.port (s : State) (p : Nat) : Port := Tab.read {} p s.ports

/-- Changes a port. -/
def State.modPort (p : Nat) (f : Port → Port) (s : State) : State := { s with ports := Tab.write {} p (f (s.port p)) s.ports }

/-! ### Ports (R352) -/

/-- The hash of an address at a logical package (R352). -/
def portHash (q addr : Nat) : Nat := xorChunks 6 6 (bits addr 38 8) ^^^ (q % 64) ^^^ (bits q 8 6)

/-- The port of a message of a virtual function that names an address at a logical package; none where its set is
empty. -/
def State.portFor (s : State) (v q addr : Nat) : Option Nat :=
  match maskBits 64 (s.vf v).ports with
  | [] => none
  | ps => some (nthOr 0 ps (portHash q addr % ps.length))

/-- The lowest port of a virtual function's set. -/
def State.lowPort (s : State) (v : Nat) : Option Nat := (maskBits 64 (s.vf v).ports).head?

/-- The partitions whose functions use a port. -/
def State.partsOnPort (s : State) (p : Nat) : List Nat :=
  ((s.vfs.filter (fun e => bit e.2.ports p)).map (fun e => e.2.part)).eraseDups

/-- A way to a peer: the virtual function, the port and the pod position. -/
structure Route where
  vf : Nat
  port : Nat
  pod : Nat
  deriving DecidableEq, Repr

/-- The logical package and the address there of a fabric location. -/
def peerOf (loc : Nat) : Nat × Nat := ((loc - fabricBase) / 2 ^ 39 % 512, (loc - fabricBase) % 2 ^ 39)

/-- The route of a partition's message to a fabric location; none where nothing leads there, and the message is lost at
once (R352). -/
def State.routeOf (s : State) (part loc : Nat) : Option Route :=
  let (q, a) := peerOf loc
  match s.vfOf part, s.podOf part q with
  | some v, some pod =>
    if (s.vf v).st == .live then (s.portFor v q a).map (fun p => { vf := v, port := p, pod := pod }) else none
  | _, _ => none

/-! ### Payloads (Table 14-3) -/

/-- Payload of a write, a reduce write (with its ROP) or a read request (no data). -/
def memPayload (addr nb pm rop : Nat) (data : List Byte) : List Byte :=
  leBytes 8 addr ++ leBytes 2 nb ++ leBytes 1 pm ++ leBytes 1 rop ++ leBytes 4 0 ++ data

/-- Payload of a read response. -/
def readPayload (status nb pm : Nat) (data : List Byte) : List Byte :=
  leBytes 8 status ++ leBytes 2 nb ++ leBytes 1 pm ++ leBytes 5 0 ++ data

/-- Payload of an atomic. -/
def atomicPayload (addr opw size fl pm opnd cmp : Nat) : List Byte :=
  leBytes 8 addr ++ leBytes 4 opw ++ leBytes 1 size ++ leBytes 1 fl ++ leBytes 1 pm ++ leBytes 1 0 ++ leBytes 8 opnd ++
  leBytes 8 cmp

/-- Payload of an atomic response. -/
def atomicReply (status old pm : Nat) : List Byte := leBytes 8 status ++ leBytes 8 old ++ leBytes 1 pm

/-- A field of n bytes of a payload; unused bytes are zero. -/
def fieldIn (f : Flit) (off n : Nat) : Nat := ofLeBytes ((List.range n).map (fun i => nthOr 0 f.payload (off + i)))

/-- The data bytes of a payload from an offset on. -/
def dataIn (f : Flit) (off n : Nat) : List Byte := (List.range n).map (fun i => nthOr 0 f.payload (off + i))

/-! ### Sending -/

/-- A flit waits at a port to be sent (FLIT_SEND). DESIGN CHOICE, safe: log entry 59. -/
def State.queueFlit (p : Nat) (f : Flit) (s : State) : State :=
  (s.modPort p (fun x => { x with waiting := x.waiting ++ [f] })).post (.flitSend p)

/-- Key of an outstanding request. -/
def pendKey (v tag : Nat) : Nat := 4096 * v + tag

/-- The outstanding requests of a virtual function. -/
def State.outOf (s : State) (v : Nat) : Nat := (s.pendings.filter (fun e => e.1 / 4096 == v)).length

/-- The first free tag from a number on, among n tries. -/
def State.freeTag (s : State) (v : Nat) : Nat → Nat → Nat
  | 0, t => t
  | n + 1, t => if (Tab.find (pendKey v t) s.pendings).isSome then s.freeTag v n ((t + 1) % 4096) else t

/-- The port that carries a request. -/
def Pending.carrier (q : Pending) : Nat := q.via.getD q.port

/-- Whether a request is an engine's, or firmware's, and no lane's. -/
def TagUse.isEngine : TagUse → Bool
  | .lanes _ _ _ => false
  | .command _ | .chunk _ _ | .code _ _ _ _ | .front | .frontRead _ => true

/-- Sends a request along a route and remembers whom its tag serves; the tag comes back. DESIGN CHOICE, unsafe: log
entry 18. -/
def State.request (r : Route) (use : TagUse) (tk vc : Nat) (payload : List Byte) (s : State) : Nat × State :=
  let tag := s.freeTag r.vf 4096 (s.vf r.vf).nextTag
  let f : Flit := { spkg := s.podPos, dpkg := r.pod, vf := r.vf, vc := vc, tk := BitVec.ofNat 4 tk,
                    tag := BitVec.ofNat 12 tag, payload := payload, engine := use.isEngine }
  let s1 := s.modVf r.vf (fun x => { x with nextTag := (tag + 1) % 4096 })
  (tag, { s1 with pendings := Tab.set (pendKey r.vf tag) { port := r.port, use := use, kind := tk } s1.pendings }.queueFlit
    r.port f)

/-- Sends a request along a route, or lets it wait while its function has no free tag (R354). -/
def State.requestOrWait (r : Route) (m : Unsent) (s : State) : State :=
  if s.outOf r.vf < 4096 then (s.request r m.use m.kind m.vc m.payload).2 else { s with unsent := s.unsent ++ [m] }

/-! ### What the front end reads at peers (R52, R384, R389) -/

/-- A sector at a peer has come for the happenings of the front end that wait for it, or has been lost: then it has no
bytes. A happening that waits for no more goes on. DESIGN CHOICE, unsafe: log entry 80. -/
def State.takeFront (loc : Nat) (bs : List Byte) (s : State) : State :=
  let take := fun (w : FrontWait) =>
    if w.asked.contains loc then { w with asked := w.asked.filter (· != loc), held := Tab.set loc bs w.held } else w
  { s with frontWaits := s.frontWaits.map take,
           agenda := s.agenda ++ (s.frontWaits.filter (fun w => w.asked != [] && (take w).asked == [])).map (·.ev) }

/-- Asks the peer for a sector that the front end reads; where no route leads there it is lost at once. -/
def State.askFront (s : State) (loc : Nat) : State :=
  let part := (loc - fabricBase) / 2 ^ 48
  match s.routeOf part loc with
  | some r => s.requestOrWait r { part := part, loc := loc, use := .frontRead loc, kind := 2, vc := 0,
                                  payload := memPayload (peerOf loc).2 32 0 0 [] }
  | none => s.takeFront loc []

/-- A happening begins: the sectors at peers that it has waited for are there. -/
def State.openFront (ev : Instr) (s : State) : State :=
  match s.frontWaits.find? (fun w => w.ev == ev && w.asked == []) with
  | some w => { s with frontHeld := w.held, frontWaits := s.frontWaits.erase w }
  | none => s

/-- A happening that t is the outcome of has ended: where it has found sectors at peers missing it has done nothing, and
waits until they have come; else what it has read is let go. DESIGN CHOICE, unsafe: log entry 80. -/
def State.settleFront (ev : Instr) (s t : State) : State :=
  if t.frontMiss = [] then (if t.frontHeld = [] then t else { t with frontHeld := [] })
  else
    let miss := t.frontMiss.eraseDups
    miss.foldl State.askFront { s with frontHeld := [], frontWaits := s.frontWaits ++ [{ ev := ev, asked := miss, held := s.frontHeld }] }

/-- A happening with the sectors at peers that the front end reads for it; run is exec. -/
def State.runFront (run : Instr → State → Result) (ev : Instr) (s : State) : Result :=
  match run ev (s.openFront ev) with
  | .next t => .next ((s.openFront ev).settleFront ev t)
  | .fault f => .fault f
  | .refused r => .refused r

/-! ### Code at peers (R65, R175) -/

/-- Whether a sector of code is already asked for by a core, and no discard has overtaken the request. -/
def State.codeAsked (s : State) (core loc : Nat) : Bool :=
  (s.pendings.map (fun e => e.2.use) ++ s.unsent.map (·.use)).any (fun u => match u with
    | .code c l _ fresh => c == core && l == loc && fresh
    | .lanes _ _ _ | .command _ | .chunk _ _ | .front | .frontRead _ => false)

/-- A sector of code has come from a peer: to the constant cache where the page lets it hold it, else to the fetches of
the core that wait for it (R172, R175). -/
def State.takeCode (core loc : Nat) (hold : Bool) (x : Sector) (s : State) : State :=
  s.modCore core (fun c =>
    if hold then { c with consts := Tab.set (sectorOf loc) x c.consts }
    else { c with fetched := Tab.set (sectorOf loc) x c.fetched })

/-- Asks the peer for a 32-byte sector of code; where no route leads there it arrives lost, as zeros. -/
def State.askSector (part core at_ : Nat) (hold : Bool) (s : State) : State :=
  if s.codeAsked core at_ then s
  else
    match s.routeOf part at_ with
    | some r => s.requestOrWait r { part := part, loc := at_, use := .code core at_ hold true, kind := 2, vc := 0,
                                    payload := memPayload (peerOf at_).2 32 0 0 [] }
    | none => s.takeCode core at_ hold { bytes := List.replicate 32 0, mark := true }

/-- Asks the peer for the sector of a place of code. -/
def State.askCode (part core : Nat) (p : Place) (s : State) : State :=
  s.askSector part core (32 * sectorOf p.loc) (p.leaf.cache != 2)

/-- Whether a place of code can be read now: the core holds its sector, or it is not homed at a peer. -/
def State.codeHere (s : State) (core : Nat) (p : Place) : Bool :=
  homeOf p.loc != .fabric || (s.heldCode core p).isSome

/-- The place of a code address whose sector must first come from a peer. -/
def State.codeAway (s : State) (x : Ctx) (va : Nat) : Option Place :=
  match s.translate x.part va { x := true } with
  | .inl _ => none
  | .inr p => if s.codeHere x.core p then none else some p

end Sys2Proof.Machine
end

