-- ==== Sys2Proof/Machine/Flow.lean ====
section
/-! DEFINITION. How slices move: sub-gangs and whose turn it is (R94, R95), transfers and fall-through (R62, R63,
R108), parking and release (R109, R110), jump frames (R113), gathering and issue groups of compaction (R117, R118),
and the end of a word. -/

namespace Sys2Proof.Machine

/-! ### Whose turn it is in a gang -/

/-- A slice that can issue (R95). -/
def Slice.runs (sl : Slice) : Bool := sl.st == .runnable

/-- The numbers of the slices of a gang, ascending, that a test names. -/
def Gang.which (test : Slice → Bool) (g : Gang) : List Nat :=
  (List.range g.slices.length).filter (fun i => test (g.slice i))

/-- The mask of the runnable slices of a sub-gang. -/
def Gang.subMask (sub : Nat) (g : Gang) : Nat := maskOf (g.which (fun sl => sl.runs && sl.sub == sub))

/-- Gives the turn to the sub-gang of a slice, counting its quantum from 0 (R95). -/
def Gang.turnTo (i : Nat) (g : Gang) : Gang := { g with cur := some (g.slice i).sub, quantum := 0 }

/-- The lowest-numbered runnable slice's sub-gang takes the turn (R95 item 1); none where no slice can issue. -/
def Gang.chooseLowest (g : Gang) : Gang :=
  match g.which Slice.runs with
  | i :: _ => g.turnTo i
  | [] => { g with cur := none }

/-- Keeps the turn of a current sub-gang that can still issue, and gives it to the lowest otherwise (R95). -/
def Gang.choose (g : Gang) : Gang :=
  match g.cur with
  | some sub => if g.which (fun sl => sl.runs && sl.sub == sub) = [] then g.chooseLowest else g
  | none => g.chooseLowest

/-- The lowest slice of each runnable sub-gang, ascending. -/
def Gang.runnableLowest (g : Gang) : List Nat :=
  (g.which Slice.runs).filter (fun i =>
    (g.which (fun sl => sl.runs && sl.sub == (g.slice i).sub)).head? == some i)

/-- The runnable sub-gang after one whose lowest slice is given, in rising order of lowest slice with a wrap (R95 item
2). Where no other can run the same one continues, and counts a new quantum. DESIGN CHOICE, safe: log entry 64. -/
def Gang.chooseAfter (here : Nat) (g : Gang) : Gang :=
  match g.runnableLowest.filter (fun i => here < i) with
  | i :: _ => g.turnTo i
  | [] => g.chooseLowest

/-- The runnable sub-gang after the current one (R95 item 2). -/
def Gang.chooseNext (g : Gang) : Gang :=
  g.chooseAfter (match g.cur with
    | some sub => leastOr 0 (g.which (fun sl => sl.live && sl.sub == sub))
    | none => 0)

/-- Gives the runnable slices of a list sub-gangs by their addresses: one per distinct PC, numbered by its lowest
slice (R94, R108). -/
def Gang.partSubs (is : List Nat) (g : Gang) : Gang :=
  let old := g
  { g with slices := g.slices.mapIdx (fun i (sl : Slice) =>
      if i ∈ is then { sl with sub := leastOr i (is.filter (fun j => (old.slice j).pc == sl.pc)) } else sl) }

/-! ### Jump frames (R113) -/

/-- The slices of a frame's current group. -/
def Frame.holds (f : Frame) (i : Nat) : Bool :=
  match f.group with
  | some k => f.sel.any (fun e => e.2 == k && sliceOfLane e.1 == i)
  | none => false

/-- The innermost open frame of which an address is the join and whose current group holds a slice (R113): a slice of
an inner group belongs to the groups of the enclosing frames too (R109). DEDUCED, unsafe: log entry 28. -/
def Gang.joinOf (g : Gang) (i pc : Nat) : Option Frame := g.frames.find? (fun f => f.holds i && f.join == pc)

/-- The token under which a slice counts as parked (R110): its own, or its frame's where it is held. -/
def Gang.tokenOf (g : Gang) (i : Nat) : Option Nat :=
  match (g.slice i).st with
  | .parked t => some t
  | .held => (g.frames.find? (fun f => f.saved.any (fun e => e.1 == i) && !f.holds i)).map (·.token)
  | _ => none

/-- Moves a slice to a clause header: it arrives at the join of an open frame whose group holds it and parks, or it is at
the header (R113). -/
def Gang.moveTo (i pc : Nat) (fell : Option Nat) (g : Gang) : Gang :=
  let joined := (g.joinOf i pc).map (·.token)
  { g with slices := mapNth i (fun sl =>
      { sl with pc := pc, widx := 0, clause := [], fell := fell,
                st := match joined with | some t => .parked t | none => sl.st }) g.slices }

/-- Releases every slice parked under a token: runnable, one sub-gang per PC (R110). -/
def Gang.release (token : Nat) (g : Gang) : Gang :=
  let is := g.which (fun sl => sl.st == .parked token)
  Gang.partSubs is { g with slices := g.slices.map (fun sl => if sl.st == .parked token then { sl with st := .runnable } else sl) }

/-- Starts a group of the innermost frame (R113): its slices run at the target under the masks of their selections,
the frame's other live slices are held. -/
def Gang.startGroup (f : Frame) (k target : Nat) (left : List Nat) (g : Gang) : Gang :=
  let f' := { f with group := some k, left := left, pending := false }
  let on := fun i => f.sel.any (fun e => e.2 == k && sliceOfLane e.1 == i)
  let is := (f.saved.map (·.1)).filter (fun i => (g.slice i).live && on i)
  let g1 := { g with
    frames := f' :: g.frames.tail,
    slices := g.slices.mapIdx (fun i (sl : Slice) =>
      if !(f.saved.any (fun e => e.1 == i)) || !sl.live then sl
      else if on i then
        { sl with st := .runnable, pc := target, widx := 0, clause := [], fell := none,
                  am := BitVec.ofNat 4 (maskOf ((List.range 4).filter (fun b => f.sel.contains (4 * i + b, k)))) }
      else { sl with st := .held }) }
  g1.partSubs is

/-- What the close of a frame does to a slice: its saved mask, its PC at the join, parked under the token (R113). -/
def Frame.closeSlice (f : Frame) (i : Nat) (sl : Slice) : Slice :=
  match f.saved.find? (fun e => e.1 == i) with
  | some (_, am) =>
    if sl.live then { sl with st := .parked f.token, am := am, pc := f.join, widx := 0, clause := [], fell := none } else sl
  | none => sl

/-- Closes the innermost frame (R113): masks come back, its slices are at the join, and the slices parked under its
token are released. -/
def Gang.closeFrame (f : Frame) (g : Gang) : Gang :=
  Gang.release f.token { g with frames := g.frames.tail, slices := g.slices.mapIdx f.closeSlice }

/-- The first group left of a frame that has a live slice, with the groups after it; a group whose slices have all
exited is passed over, and its TARGET is not looked at. DESIGN CHOICE, unsafe: log entry 65. -/
def Gang.nextGroup (g : Gang) (f : Frame) : List Nat → Option (Nat × List Nat)
  | [] => none
  | k :: t =>
    if f.sel.any (fun e => e.2 == k && (g.slice (sliceOfLane e.1)).live) then some (k, t) else g.nextGroup f t

/-- What the release rule does next in a gang (R110, R113). -/
inductive Release where
  | nothing
  | token (t : Nat)
  | start (f : Frame) (k target : Nat) (left : List Nat)
  | close (f : Frame)
  | discard (f : Frame)
  deriving DecidableEq, Repr

/-- The release rule: when every live slice is parked or held, the highest token is released, or the innermost frame
that bears it starts its next group or closes (R110, R113). A frame whose slices have all exited goes first, with no
close and its JOIN not looked at. DESIGN CHOICE, unsafe: log entry 65. -/
def Gang.releaseDue (g : Gang) : Release :=
  let live := g.which Slice.live
  if live = [] || live.any (fun i => (g.tokenOf i).isNone) then .nothing
  else
    let top := (live.filterMap g.tokenOf).foldl Nat.max 0
    match g.frames with
    | f :: _ =>
      if f.saved.all (fun e => !(g.slice e.1).live) then .discard f
      else if top = f.token then
        match g.nextGroup f f.left with
        | some (k, t) => .start f k (nthOr 0 f.targets k) t
        | none => .close f
      else .token top
    | [] => .token top

/-- A fault of a gang that no word in issue raises: a group start or a frame close that meets no header (R112). -/
def State.raiseFrame (c g : Nat) (f : Frame) (info : FaultInfo) (s : State) : State :=
  let x := (s.ctxOf c).getD {}
  let r : FaultRec :=
    { code := info.code, flags := 3, ctx := c, part := x.part, gang := g, slices := maskOf (f.saved.map (·.1)),
      widx := f.widx, lanes := info.lanes, hdr := f.hdr, pc := f.pc, addr := info.addr, detail0 := info.detail0,
      detail1 := info.detail1, cycle := s.cycle (dieOf x.core), die := dieOf x.core, core := x.core % Config.coresPerDie }
  (s.modGang c g (fun y => { y with frames := mapNth 0 (fun z => { z with pending := true }) y.frames })).stopCtx c r

/-- The word at an address where it is no clause header; none where it is one, or where no word can be read there now
(then the fetch itself raises or waits, R65). -/
def State.notHeader (s : State) (x : Ctx) (va : Nat) : Option Word :=
  match s.codeAway x va, s.codeWord x va with
  | none, .inr w => if isHeader w then none else some w
  | _, _ => none

/-- Does what needs the word at an address: a word that is still at a peer is asked for first, and nothing else happens
until it has come (R63, R65). -/
def State.onCode (x : Ctx) (va : Nat) (act : State → State) (s : State) : State :=
  match s.codeAway x va with
  | some p => s.askCode x.part x.core p
  | none => act s

/-- Applies the release rule to a gang once. Every slice was parked or held, so the lowest that can run now takes the turn
(R95 item 1). A group start or a frame close whose first word
is still at a peer waits for it (R63, R65). -/
def State.settleOnce (c g : Nat) (s : State) : State :=
  let x := (s.ctxOf c).getD {}
  let gg := x.gang g
  match gg.releaseDue with
  | .nothing => s.modGang c g Gang.choose
  | .token t => s.modGang c g (fun y => (y.release t).chooseLowest)
  | .discard _ => s.modGang c g (fun y => { y with frames := y.frames.tail })
  | .start f k target left =>
    if (s.codeAway x target).isSome then s
    else
      match s.notHeader x target with
      | some _ =>
        s.raiseFrame c g f
          { code := fIllegalEncoding, lanes := maskOf ((f.sel.filter (fun e => e.2 == k)).map (·.1)), addr := target,
            detail0 := k, detail1 := f.table * 2 ^ 16 + f.targets.length }
      | none => s.modGang c g (fun y => (y.startGroup f k target left).chooseLowest)
  | .close f =>
    if (s.codeAway x f.join).isSome then s
    else
      match s.notHeader x f.join with
      | some _ =>
        s.raiseFrame c g f
          { code := fIllegalEncoding, addr := f.join, detail0 := 0xFFFFFFFF,
            detail1 := f.table * 2 ^ 16 + f.targets.length }
      | none => s.modGang c g (fun y => (y.closeFrame f).chooseLowest)

/-- The release rule for a gang: frames whose slices have all exited go first. -/
def State.settleGang (c g : Nat) (s : State) : State := (List.range 10).foldl (fun t _ =>
  match ((t.ctxOf c).getD {}).gang g |>.releaseDue with
  | .nothing => t.modGang c g Gang.choose
  | _ => if ((t.ctxOf c).getD {}).run = .running then t.settleOnce c g else t) s

/-- The release rule for every gang of a context: a start or a close that failed, or that waited for code, is attempted
again (R112). -/
def State.settleCtx (c : Nat) (s : State) : State :=
  (List.range ((s.ctxOf c).getD {}).gangs.length).foldl (fun t g => t.settleGang c g) s

/-- The release rule in the running contexts of a core to which code has come from a peer. -/
def State.settleCore (core : Nat) (s : State) : State :=
  ((s.ctxs.filter (fun e => e.2.core == core && e.2.run == .running)).map (·.1)).foldl (fun t c => t.settleCtx c) s

/-! ### Compaction (R117, R118) -/

/-- The slices of a context that have gathered at a point on a SIMD unit, as gang and slice numbers. -/
def Ctx.gathered (x : Ctx) (unit point : Nat) : List (Nat × Nat) :=
  (List.range x.gangs.length).flatMap (fun g =>
    if (x.gang g).unit = unit then ((x.gang g).which (fun sl => sl.st == .waiting (.gathering point))).map (fun i => (g, i)) else [])

/-- The j-th issue group: of each slice position the j-th gathered slice in rising order of home gang (R117). -/
def groupMembers (ms : List (Nat × Nat)) (j : Nat) : List (Nat × Nat) :=
  (List.range 8).filterMap (fun k => (ms.filter (fun m => m.2 == k))[j]?)

/-- Puts slices of a context into a state. -/
def Ctx.setSlices (ms : List (Nat × Nat)) (f : Slice → Slice) (x : Ctx) : Ctx :=
  ms.foldl (fun y m => y.modGang m.1 (fun g => { g with slices := mapNth m.2 f g.slices })) x

/-- Forms the issue groups of a gathering from the j-th on. -/
def Ctx.formGroups (unit : Nat) (ms : List (Nat × Nat)) : List Nat → Ctx → Ctx
  | [], x => x
  | j :: t, x =>
    let m := groupMembers ms j
    if m = [] then x
    else
      let id := x.nextGroup
      Ctx.formGroups unit ms t
        ({ x with nextGroup := id + 1, groups := Tab.set id { unit := unit, members := m } x.groups }.setSlices m
          (fun sl => { sl with st := .grouped id }))

/-- Ends a gathering and regroups its slices (R117 items 3, 4). -/
def Ctx.endGathering (unit point : Nat) (x : Ctx) : Ctx :=
  ({ x with gatherings := x.gatherings.filter (fun k => !(k.unit == unit && k.point == point)) }).formGroups unit
    (x.gathered unit point) (List.range 16)

/-- Whether every live slice of the context's gangs on a unit is at the point or cannot come to it (R117 item 2). -/
def Ctx.gatheringFull (x : Ctx) (unit : Nat) : Bool :=
  x.gangs.all (fun g => g.unit != unit || g.slices.all (fun sl => match Slice.st sl with | .runnable => false | .grouped _ => false | _ => true))

/-- Ends every gathering of a unit at which all who can come have come. -/
def Ctx.checkGatherings (unit : Nat) (x : Ctx) : Ctx :=
  if x.gatheringFull unit then
    (x.gatherings.filter (fun k => k.unit == unit)).foldl (fun y k => y.endGathering k.unit k.point) x
  else x

/-- Dissolves an issue group: each slice returns to its home gang at its PC, those of one gang as one sub-gang
(R118). -/
def Ctx.dissolve (j : Nat) (x : Ctx) : Ctx :=
  let x1 := { x with groups := Tab.drop j x.groups, gangs := x.gangs.map (fun (g : Gang) =>
    let is := g.which (fun sl => sl.st == .grouped j)
    ({ g with slices := g.slices.map (fun (sl : Slice) =>
        if sl.st == SliceState.grouped j then { sl with st := .runnable, sub := leastOr 0 is } else sl) }).choose) }
  x1

/-- Dissolves every issue group of a context (R118: at a fault or pre-emption). -/
def Ctx.dissolveAll (x : Ctx) : Ctx := (x.groups.map (·.1)).foldl (fun y j => y.dissolve j) x

/-! ### The end of a word -/

/-- Where an issuing slice goes after a clause: an address, and whether a transfer takes it there (R63, R108). -/
structure Dest where
  slice : Nat
  pc : Nat
  taken : Bool
  deriving DecidableEq, Repr

/-- Whether the issuing slices issue in an issue group of compaction (R118). -/
def State.inGroup (s : State) : Bool :=
  match (s.gg.slice (leastOr 0 s.issuing)).st with | .grouped _ => true | _ => false

/-- Counts the word against the quantum (R95); an issue group counts its own words. -/
def State.countWord (s : State) : State :=
  if s.inGroup then s else s.modGg (fun g => { g with quantum := g.quantum + 1 })

/-- What YIELD asked of the issuing slices' clause (R116). -/
def State.yieldAsk (s : State) : YieldAsk := (s.gg.slice (leastOr 0 s.issuing)).yieldAsk

/-- A slice that has come to a compaction point and not parked or exited on the way. -/
def Slice.canGather (sl : Slice) : Bool := match sl.st with | .runnable => true | .grouped _ => true | _ => false

/-- Slices that have ended a clause with YIELD regroup in compaction mode wait at the point that follows it (R117). -/
def Gang.gatherSlices (mask : Nat) (g : Gang) : Gang :=
  g.modSlices mask (fun _ sl => if sl.canGather then { sl with st := .waiting (.gathering sl.pc) } else sl)

/-- Notes a gathering at each point that slices have just reached (R117). -/
def State.noteGatherings (c g mask : Nat) (s : State) : State :=
  s.modCtx c (fun x =>
    let unit := (x.gang g).unit
    let points := (slicesOf mask).filterMap (fun i =>
      match ((x.gang g).slice i).st with | .waiting (.gathering p) => some p | _ => none)
    points.foldl (fun y p =>
      if y.gatherings.any (fun k => k.unit == unit && k.point == p) then y
      else { y with gatherings := y.gatherings ++ [{ unit := unit, point := p, since := s.cycle (dieOf x.core) }] }) x)

/-- After slices of a gang have moved, parked, exited or begun to wait: the release rule, the choice of the next
sub-gang, and the end of gatherings. -/
def State.afterMove (s : State) : State :=
  let c := s.issue.ctx
  let g := s.issue.gang
  (s.settleGang c g).modCtx c (fun x => x.checkGatherings (x.gang g).unit)

/-- Whether the issuing slices have their gang's turn: slices whose wait has just ended need not (R95). -/
def State.hasTurn (s : State) : Bool := s.gg.cur == some (s.gg.slice (leastOr 0 s.issuing)).sub

/-- The next sub-gang after one whose lowest slice is given takes the turn that a YIELD gave up (R95, R116). -/
def State.nextTurn (turn : Bool) (here : Nat) (s : State) : State :=
  if turn then s.modGg (Gang.chooseAfter here) else s

/-- What the end of a clause comes to once its slices have moved (R110, R113, R116): the release rule, then the choice
that a YIELD of the clause asked for, among all sub-gangs that can run now: turn is whether its slices had the gang's
turn, here their lowest. An issue group dissolves after a plain YIELD (R118), which its own step does. -/
def State.yieldNow (ask : YieldAsk) (turn : Bool) (here : Nat) (s : State) : State :=
  match ask with
  | .no => s.afterMove
  | .regroup =>
    if s.cx.lmode = 1 then
      let mask := s.issue.slices
      ((s.modGg (fun g => g.gatherSlices mask)).noteGatherings s.issue.ctx s.issue.gang mask).afterMove
    else s.afterMove.nextTurn (turn && !s.inGroup) here
  | .plain => s.afterMove.nextTurn (turn && !s.inGroup) here

/-- The turn after a parting: the part that holds the lowest slice continues, with its count (R95 item 3). -/
def Gang.keepTurn (is : List Nat) (g : Gang) : Gang :=
  match is with
  | i :: _ => if (g.slice i).runs then { g with cur := some (g.slice i).sub } else g
  | [] => g

/-- Slices leave a clause of a number and a length for their destinations: its flags close, slices at a join park, and
distinct addresses part the sub-gang, which keeps the turn that it had (R67, R95, R108, R113). -/
def Gang.leave (no len : Nat) (is : List Nat) (turn : Bool) (ds : List Dest) (g : Gang) : Gang :=
  let g1 := ds.foldl (fun h d => h.moveTo d.slice d.pc (if d.taken then none else some len)) (g.closeFlags no)
  let g2 := g1.partSubs (is.filter (fun i => (g1.slice i).runs))
  (if turn then g2.keepTurn is else g2).modSlices (maskOf is) (fun _ sl => { sl with yieldAsk := .no })

/-- The issuing slices leave their clause for their destinations (R62, R63, R108): the clause's flags close, slices
at a join park, distinct addresses part the sub-gang, and a YIELD of the clause takes effect. -/
def State.leaveClause (ds : List Dest) (s : State) : State :=
  let is := s.issuing
  let turn := s.hasTurn
  let len := (s.gg.slice (leastOr 0 is)).clause.length - 1
  let no := s.clauseNo
  (s.modGg (Gang.leave no len is turn ds)).yieldNow s.yieldAsk turn (leastOr 0 is)

/-- Slices whose destination is taken and no header (R63). DEDUCED, unsafe: log entry 53. -/
def State.badTargets (s : State) (ds : List Dest) : List (Dest × Word) :=
  ds.filterMap (fun d => if d.taken then (s.notHeader s.cx d.pc).map (fun w => (d, w)) else none)

/-- A control transfer of the issuing slices with what it does to their gang (R63): a taken destination that is no
header raises, and the transfer has no effect; a destination whose code is still at a peer makes the word wait. -/
def State.transferWith (f : Gang → Gang) (ds : List Dest) (s : State) : State :=
  match ds.filterMap (fun d => if d.taken then s.codeAway s.cx d.pc else none) with
  | p :: _ => s.askCode s.cx.part s.cx.core p
  | [] =>
    match s.badTargets ds with
    | (d, w) :: t =>
      s.raise { code := fIllegalEncoding, addr := d.pc, detail0 := w.toNat,
                detail1 := maskOf (d.slice :: t.map (fun e => e.1.slice)) }
    | [] => (s.modGg f).countWord.leaveClause ds

/-- A control transfer of the issuing slices (R63). -/
def State.transfer (ds : List Dest) (s : State) : State := s.transferWith id ds

/-- Slices of the mask that stand at a header that is the join of an open frame whose group holds them: released
there, or started there (R113). DEDUCED, unsafe: log entry 28. -/
def Gang.atJoin (mask : Nat) (g : Gang) : List Nat := (slicesOf mask).filter (fun i => (g.joinOf i (g.slice i).pc).isSome)

/-- Parks slices of a mask that stand at a join, under its frame's token; the others stay one sub-gang (R113).
DEDUCED, unsafe: log entry 28. -/
def Gang.parkAtJoin (mask : Nat) (g : Gang) : Gang :=
  Gang.partSubs ((slicesOf mask).filter (fun i => !(g.atJoin mask).contains i))
    (g.modSlices mask (fun i sl => match g.joinOf i sl.pc with | some f => { sl with st := .parked f.token } | none => sl))

/-- The issuing slices begin to wait (R95): the lowest runnable sub-gang takes the turn, and a gathering may end. -/
def State.beginWait (w : Wait) (s : State) : State :=
  (s.modGg (fun g => Gang.choose (g.modSlices s.issue.slices (fun _ sl => { sl with st := .waiting w })))).modCx
    (fun x => x.checkGatherings (x.gang s.issue.gang).unit)

/-- The issuing slices go to the next word of the clause, or after its last word fall through to the next address
(R62). -/
def State.advance (s : State) : State :=
  let is := s.issuing
  let sl := s.gg.slice (leastOr 0 is)
  if s.issue.widx < sl.clause.length - 1 then
    s.modGg (fun g => g.modSlices s.issue.slices (fun _ x => { x with pc := s.issue.pc + 4, widx := s.issue.widx + 1 }))
  else s.leaveClause (is.map (fun i => { slice := i, pc := s.issue.pc + 4, taken := false }))

/-- The issuing word has taken effect: it counts against the quantum, and the slices advance. -/
def State.endWord (s : State) : State := s.countWord.advance

/-- The end of a word with operand a: staging, then the next word (R102). -/
def State.endWordL (l : Bool) (a n : Nat) (s : State) : State := (s.unstage l a n).endWord

end Sys2Proof.Machine
end

