-- ==== Sys2Proof/Machine/Colours.lean ====
section
/-! DEFINITION. Colour tags of units and the saving of a unit's old content before a write (R326-R328, R339, R340). -/

namespace Sys2Proof.Machine

/-- Key of a domain's colour on a die. -/
def colKey (dom die : Nat) (col : Bool) : Nat := 8 * dom + 2 * die + ofBool col

/-- A die's state for a colour of a domain. -/
def State.dieCol (s : State) (dom die : Nat) (col : Bool) : DieColour := Tab.read {} (colKey dom die col) s.colours

/-- Changes a die's state for a colour of a domain. -/
def State.modDieCol (dom die : Nat) (col : Bool) (f : DieColour → DieColour) (s : State) : State :=
  { s with colours := Tab.write {} (colKey dom die col) (f (s.dieCol dom die col)) s.colours }

/-- E0, E1 and EP of a partition on a die (R326). -/
def State.epochOf (s : State) (part die : Nat) : DieEpoch := Tab.read {} (4 * part + die) s.epochs

/-- The generation bit of a colour. -/
def DieEpoch.e (x : DieEpoch) (col : Bool) : Bool := if col then x.e1 else x.e0

/-- G of a tag for a colour. -/
def Tag.g (x : Tag) (col : Bool) : Bool := if col then x.g1 else x.g0

/-- Sets G of a tag for a colour. -/
def Tag.setG (col v : Bool) (x : Tag) : Tag := if col then { x with g1 := v } else { x with g0 := v }

/-- The tag of a unit that is allocated now (Table 13-4). -/
def DieEpoch.fresh (x : DieEpoch) : Tag := { g0 := x.e0, g1 := x.e1, wep := x.ep }

/-- The domain of a partition; 0 for none (R322). -/
def State.domOf (s : State) (part : Nat) : Nat := match s.part part with | some p => p.record.domain | none => 0

/-- The partition that holds a package address: the one whose record lists its 512 MiB allocation unit (R382). -/
def State.ownerOf (s : State) (pa : Nat) : Option Nat :=
  (s.parts.find? (fun e => e.2.record.dram.any (fun u => u.2 == pa / 2 ^ 29))).map (·.1)

/-- Whether the check of R328 counts a colour as live on a die. -/
def DieState.live : DieState → Bool
  | .opened | .closed | .drained => true
  | .idle | .hold | .resetting => false

/-- Whether an epoch lies in a snapshot's window: from the base's epoch up to its own minus one, modulo 2^14 (R340). -/
def DieColour.inWindow (d : DieColour) (wep : Nat) : Bool :=
  let width := (d.epoch + 2 ^ 14 - d.baseEpoch) % 2 ^ 14
  width == 0 || (wep + 2 ^ 14 - d.baseEpoch) % 2 ^ 14 < width

/-- Whether a context holds resources of its core: one that has been terminated does until the last of its started
commands has reached its stop point (R27). -/
def Ctx.resident (x : Ctx) : Bool := x.run == .placed || x.run == .running || x.run == .stopping || x.run == .terminated

/-! ### Scratchpad banks (R31, R179, R326) -/

/-- The physical scratchpad of a core or a half. -/
def padOf (half : Option Bool) : Nat × Nat :=
  match half with
  | none => (0, Config.scratchpad)
  | some false => (0, Config.scratchpad / 2)
  | some true => (Config.scratchpad / 2, Config.scratchpad)

/-- Banks of a whole core, or of a half (R179). -/
def banksOf (half : Option Bool) : Nat := if half.isSome then 16 else 32

/-- Number of the first physical bank of a core or a half: the upper half of a split core has banks 16 to 31 (R31). -/
def firstBank (half : Option Bool) : Nat := if half = some true then 16 else 0

/-- The bank of a window word (R179). -/
def bankOf (n w : Nat) : Nat := (w + w / n) % n

/-- The physical bank of a word of a context's window: on a whole core, the window's bank; each half's banks are its own
(R326). -/
def Ctx.bankUnit (x : Ctx) (w : Nat) : UnitName := .bank x.core (firstBank x.half + bankOf (banksOf x.half) w)

/-- The physical banks that a context's window lies in. -/
def Ctx.bankUnits (x : Ctx) : List UnitName :=
  (List.range (banksOf x.half)).map (fun b => UnitName.bank x.core (firstBank x.half + b))

/-- Whether a context's window lies in a bank of a core. -/
def Ctx.inBank (core b : Nat) (x : Ctx) : Bool :=
  x.resident && x.core == core && (match x.half with | none => true | some h => h == decide (16 ≤ b))

/-- The contexts whose windows lie in a bank of a core; service contexts are of no snapshot domain (R396). -/
def State.bankCtxs (s : State) (core b : Nat) : List (Nat × Ctx) := s.ctxs.filter (fun e => e.2.inBank core b && !e.2.svc)

/-- A context that may be of a snapshot domain: no service context is (R396). -/
def State.domainCtx (s : State) (c : Nat) : Option Ctx := (s.ctxOf c).filter (fun x => !x.svc)

/-- Whether firmware has split a core between partitions (R31). -/
def State.splitCore (s : State) (core : Nat) : Bool :=
  s.parts.any (fun e => e.2.record.cores.any (fun c => c.core == core && c.half.isSome))

/-- The half of a split core to which a bank belongs. -/
def State.bankHalf (s : State) (core b : Nat) : Option Bool := if s.splitCore core then some (decide (16 ≤ b)) else none

/-- Rows of a bank (Table 13-9: 16,384 bytes of words). -/
def bankRows : Nat := 4096

/-- The word of row r of bank b, of n banks, counted from where the row count starts (R179). -/
def wordAt (n b r : Nat) : Nat := n * r + (b + n - r % n) % n

/-- Where row r of a context's part of a bank lies in its window; none where the row is not its own. -/
def Ctx.rowWord (x : Ctx) (b r : Nat) : Option Nat :=
  let n := banksOf x.half
  let first := (x.base - (padOf x.half).1) / (4 * n)
  let w := wordAt n (b % n) (r - first)
  if first ≤ r && 4 * w < x.scratch + 2304 then some w else none

/-- The word and the mark of a row of a bank: of the window that lies there, else of the scratchpad outside windows, whose
words count from the start of the core's or half's own. -/
def State.bankRow (s : State) (core b r : Nat) : List Byte × Bool :=
  match (s.bankCtxs core b).findSome? (fun e => (e.2.rowWord b r).map (fun w => (e.2, w))) with
  | some (x, w) => (x.window.bytes (4 * w) 4, NatSet.has w x.windowMarks)
  | none =>
    let half := s.bankHalf core b
    let n := banksOf half
    let w := (padOf half).1 / 4 + wordAt n (b % n) r
    let k : Core := Tab.read {} core s.cores
    (k.raw.bytes (4 * w) 4, NatSet.has w k.rawMarks)

/-- The bank of a byte of a core's scratchpad that lies in no window. -/
def State.rawBank (s : State) (core o : Nat) : UnitName :=
  let half := if s.splitCore core then some (decide ((padOf (some true)).1 ≤ o)) else none
  .bank core (firstBank half + bankOf (banksOf half) ((o - (padOf half).1) / 4))

/-! ### Units -/

/-- The partition of a unit; a unit of no partition has none. -/
def State.unitPart (s : State) : UnitName → Option Nat
  | .granule g => s.ownerOf (4096 * g)
  | .bank k b => (s.bankCtxs k b).head?.map (·.2.part)
  | .regs c _ _ => (s.domainCtx c).map (·.part)
  | .slot a _ => match (Tab.read {} a s.arrays : MArray).claim with | some c => (s.domainCtx c).map (·.part) | none => none

/-- The die of a unit. -/
def State.unitDie (s : State) : UnitName → Nat
  | .granule g => homeDie (4096 * g)
  | .bank k _ => dieOf k
  | .regs c _ _ => match s.ctxOf c with | some x => dieOf x.core | none => 0
  | .slot a _ => dieOf (a / 2)

/-- Where the tag of a memory granule lies (R327): in the colour table of its allocation unit, which firmware keeps in its
own memory on the die that homes the unit; the model holds the tags of all tables as one table by granule number.
DESIGN CHOICE, safe: log entry 83. -/
def tagAddr (g : Nat) : Nat := 2 ^ 29 * (g / 2 ^ 25 * 256 + 255) + 262144 * (g / 131072 % 256) + 2 * (g % 131072)

/-- The tag of a unit (R326). -/
def State.tagOf (s : State) : UnitName → Tag
  | .granule g => Tab.read {} g s.tags
  | .bank k b => Tab.read {} b (Tab.read {} k s.cores : Core).bankTags
  | .regs c g k => match s.ctxOf c with | some x => Tab.read x.tag0 (32 * g + k) x.tags | none => {}
  | .slot a t => nthOr {} (Tab.read {} a s.arrays : MArray).tags t

/-- Writes the tag of a unit. -/
def State.setTag (s : State) (v : Tag) : UnitName → State
  | .granule g => { s with tags := Tab.write {} g v s.tags }
  | .bank k b => s.modCore k (fun y => { y with bankTags := Tab.write {} b v y.bankTags })
  | .regs c g k => s.modCtx c (fun x => { x with tags := Tab.set (32 * g + k) v x.tags })
  | .slot a t =>
    let m : MArray := Tab.read {} a s.arrays
    { s with arrays := Tab.write {} a { m with tags := mapNth t (fun _ => v) m.tags } s.arrays }

/-- The content of a unit with its marks (Table 13-9). -/
def State.unitData (s : State) : UnitName → UnitData
  | .granule g =>
    .bytes (s.dram.bytes (4096 * g) 4096) ((List.range 128).filter (fun k => NatSet.has (128 * g + k) s.dramMarks))
  | .bank k b =>
    let rows := (List.range bankRows).map (s.bankRow k b)
    .bytes (rows.flatMap (·.1)) ((List.range bankRows).filter (fun r => (nthOr ([], false) rows r).2))
  | .regs c g k =>
    .lanes ((((s.ctxOf c).getD {}).gang g).regs.filter (fun e => e.1 / 256 == k))
  | .slot a t =>
    let m : MArray := Tab.read {} a s.arrays
    .acc (nthOr {} m.slots t) (nthOr {} m.pairs (t / 2))

/-- Payload bytes of a saved unit's record (Table 13-9): its content with marks or P bits; of a slot also its flag, its
tag, and VCH and BOUND. DESIGN CHOICE, unsafe: log entry 79. -/
def UnitName.size : UnitName → Nat
  | .granule _ => 4112
  | .bank _ _ => 16896
  | .regs _ _ _ => 1056
  | .slot _ _ => 16392

/-- Stages a unit's present content for a colour and counts it as saved (R328). -/
def State.stageUnit (dom die : Nat) (col : Bool) (u : UnitName) (s : State) : State :=
  s.modDieCol dom die col (fun d => { d with staged := d.staged ++ [{ name := u, data := s.unitData u }] })

/-- The check of R328 for one colour: an unsaved unit that the snapshot needs is staged, and counts as saved. -/
def State.saveFor (dom die part : Nat) (u : UnitName) (s : State) (col : Bool) : State :=
  let d := s.dieCol dom die col
  let t := s.tagOf u
  let e := (s.epochOf part die).e col
  if d.st.live && t.g col != e then
    let s1 := if !d.inc || d.inWindow t.wep then s.stageUnit dom die col u else s
    s1.setTag (t.setG col e) u
  else s

/-- Whether the partition's domain has a colour that is live on a die: only then does the check of R328 do more than
note the epoch of the write. -/
def State.colourLive (s : State) (dom die : Nat) : Bool :=
  (s.dieCol dom die false).st.live || (s.dieCol dom die true).st.live

/-- The check of R328 before a unit is written: both colours, then WEP := EP. -/
def State.beforeWrite (u : UnitName) (s : State) : State :=
  match s.unitPart u with
  | none => s
  | some part =>
    let dom := s.domOf part
    if dom = 0 then s
    else
      let die := s.unitDie u
      let s1 := if s.colourLive dom die then [false, true].foldl (State.saveFor dom die part u) s else s
      s1.setTag { s1.tagOf u with wep := (s1.epochOf part die).ep } u

/-- The check of R328 for several units, each once. -/
def State.beforeWrites (us : List UnitName) (s : State) : State := us.eraseDups.foldl (fun t u => t.beforeWrite u) s

/-- The check of R328 before registers of a gang are written. -/
def State.beforeRegs (c g : Nat) (rs : List Nat) (s : State) : State :=
  s.beforeWrites (rs.map (fun r => UnitName.regs c g (r / 8)))

end Sys2Proof.Machine
end

