-- ==== Sys2Proof/Machine/Writes.lean ====
section
/-! DEFINITION. Writes at the home and in a scratchpad window, whole for one instruction or engine write: colours
before (R328), bytes, marks (R177), coherent copies (R174) and watches (R193) after; and the live barrier words that
a write may meet (R203-R205). -/

namespace Sys2Proof.Machine

/-- Consecutive bytes written from a location or window offset on. -/
structure Seg where
  at_ : Nat
  bytes : List Byte
  deriving DecidableEq, Repr

/-- One past the last byte of a segment. -/
def Seg.stop (g : Seg) : Nat := g.at_ + g.bytes.length

/-- Whether two byte ranges meet. -/
def meets (a n b m : Nat) : Bool := a < b + m && b < a + n

/-- The numbers of the units of u bytes that a segment touches. -/
def Seg.units (u : Nat) (g : Seg) : List Nat :=
  if g.bytes = [] then [] else (List.range ((g.stop - 1) / u + 1 - g.at_ / u)).map (fun i => g.at_ / u + i)

/-- The units of u bytes that segments touch, each once. -/
def segUnits (u : Nat) (gs : List Seg) : List Nat := (gs.flatMap (Seg.units u)).eraseDups

/-- Whether segments cover every byte of a unit. -/
def covered (u : Nat) (gs : List Seg) (k : Nat) : Bool :=
  (List.range u).all (fun i => gs.any (fun g => g.at_ ≤ u * k + i && u * k + i < g.stop))

/-- The marks after a write (R177): a unit written with poison is marked; a unit of which every byte is written
without poison is cleared; a partial write leaves the mark. -/
def newMarks (u : Nat) (gs : List Seg) (poison : List Nat) (marks : NatSet) : NatSet :=
  (segUnits u gs).foldl (fun m k =>
    if NatSet.has k poison then NatSet.add k m
    else if NatSet.has k m && covered u gs k then NatSet.drop k m else m) marks

/-- Writes segments in their order. -/
def putSegs (gs : List Seg) (m : Memory) : Memory := gs.foldl (fun t g => t.putBytes g.at_ g.bytes) m

/-! ### Watches (R193) -/

/-- Fires a watch. -/
def Slice.fire (sl : Slice) : Slice := { sl with watch := sl.watch.map (fun w => { w with fired := true }) }

/-- Fires the watches of a gang that a test names. -/
def Gang.fireWatches (test : Watch → Bool) (g : Gang) : Gang :=
  { g with slices := g.slices.map (fun sl => if (sl.watch.map test).getD false then sl.fire else sl) }

/-- The slices of a context that wait in MWAIT under a watch that a test names. -/
def Ctx.wakes (c : Nat) (test : Watch → Bool) (x : Ctx) : List Instr :=
  (List.range x.gangs.length).flatMap (fun g =>
    (((x.gang g).which (fun sl => sl.st == .waiting .mwait && (sl.watch.map test).getD false)).map
      (fun i => ((x.gang g).slice i).sub)).eraseDups.map (fun sub => .mwaitWake c g sub))

/-- Fires the watches that a test names in the contexts of a list, and posts the wakes of the slices that wait. -/
def State.fireIn (cs : List (Nat × Ctx)) (test : Watch → Bool) (s : State) : State :=
  { s with
    agenda := s.agenda ++ cs.flatMap (fun e => e.2.wakes e.1 test),
    ctxs := s.ctxs.map (fun e => if cs.any (fun k => k.1 == e.1) then
      (e.1, { e.2 with gangs := e.2.gangs.map (Gang.fireWatches test) }) else e) }

/-- Whether some slice of a context holds a watch. -/
def Ctx.watching (x : Ctx) : Bool := x.gangs.any (fun g => g.slices.any (fun sl => sl.watch.isSome))

/-- Fires the watches on lines of package memory. -/
def State.fireLines (lines : List Nat) (s : State) : State :=
  let cs := s.ctxs.filter (fun e => e.2.watching)
  if cs = [] then s else s.fireIn cs (fun w => !w.window && NatSet.has w.line lines)

/-- Fires the watches on lines of a context's window. -/
def State.fireWindow (c : Nat) (lines : List Nat) (s : State) : State :=
  let cs := s.ctxs.filter (fun e => e.1 == c && e.2.watching)
  if cs = [] then s else s.fireIn cs (fun w => w.window && NatSet.has w.line lines)

/-! ### Writes -/

/-- Drops the copies of written sectors that the home directory keeps coherent (R174). -/
def State.dropCoherent (sectors : List Nat) (s : State) : State :=
  if s.remoteData = [] then s
  else (List.range 4).foldl (fun t die => t.dropRdc die (fun loc x => x.coh && NatSet.has (sectorOf loc) sectors)) s

/-- A write of package memory at its home: segments by physical address, and the sectors written with poison. -/
def State.writeDram (gs : List Seg) (poison : List Nat) (s : State) : State :=
  let s1 := s.beforeWrites ((segUnits 4096 gs).map UnitName.granule)
  (({ s1 with dram := putSegs gs s1.dram, dramMarks := newMarks 32 gs poison s1.dramMarks }).dropCoherent
    (segUnits 32 gs)).fireLines (segUnits 128 gs)

/-- A write of sys memory at its port: segments by port*2^50+address. DESIGN CHOICE, safe: log entry 59. -/
def State.writeSys (gs : List Seg) (poison : List Nat) (s : State) : State :=
  { s with sysMem := putSegs gs s.sysMem, sysMarks := newMarks 32 gs poison s.sysMarks }

/-- A write of a context's scratchpad window: segments by offset, and the 4-byte words written with poison. -/
def State.writeWindow (c : Nat) (gs : List Seg) (poison : List Nat) (s : State) : State :=
  match s.ctxOf c with
  | none => s
  | some x =>
    ((s.beforeWrites ((segUnits 4 gs).map x.bankUnit)).modCtx c (fun y =>
      { y with window := putSegs gs y.window, windowMarks := newMarks 4 gs poison y.windowMarks })).fireWindow c
      (segUnits 128 gs)

/-- A write to fabric homes overtakes what loads of a die's cores still bring of the same bytes: no cache holds it (R48).
-/
def State.overtaken (core : Nat) (gs : List Seg) (s : State) : State :=
  let far := gs.filter (fun g => homeOf g.at_ == .fabric)
  if far.isEmpty then s
  else s.keepOut false (fun k => dieOf k == dieOf core) 2 (fun a n => far.any (fun g => meets a n g.at_ g.bytes.length))

/-- The caches of a core hold what its lanes have stored (R172, R173): bytes of the L1 and of its die's remote-data
cache, where the sector is present. -/
def State.patchCaches (core : Nat) (gs : List Seg) (s : State) : State :=
  let patch := fun (t : Tab Sector) => gs.foldl (fun u g =>
    (List.range g.bytes.length).foldl (fun v i =>
      Tab.update (sectorOf (g.at_ + i)) (Sector.patch (g.at_ + i) (nthOr 0 g.bytes i)) v) u) t
  let s1 := if (s.core core).l1 = [] then s else s.modCore core (fun c => { c with l1 := patch c.l1 })
  (if s1.rdc (dieOf core) = [] then s1 else s1.modRdc (dieOf core) patch).overtaken core gs

/-- The sectors of a list that caches of a core and of its die hold take new marks after a store (R177). -/
def State.patchMarks (core : Nat) (sectors : List Nat) (mark : Nat → Bool → Bool) (s : State) : State :=
  let fix := fun (t : Tab Sector) => t.map (fun e =>
    if NatSet.has e.1 sectors then (e.1, { e.2 with mark := mark e.1 e.2.mark }) else e)
  let s1 := if (s.core core).l1 = [] then s else s.modCore core (fun c => { c with l1 := fix c.l1 })
  if s1.rdc (dieOf core) = [] then s1 else s1.modRdc (dieOf core) fix

/-- Drops sectors from a core's L1 and its die's remote-data cache, after an access of the home that did not pass
through them. -/
def State.dropSectors (core : Nat) (sectors : List Nat) (s : State) : State :=
  let s1 := if (s.core core).l1 = [] then s
    else s.modCore core (fun c => { c with l1 := c.l1.filter (fun e => !NatSet.has e.1 sectors) })
  let s2 := if s1.rdc (dieOf core) = [] then s1 else s1.dropRdc (dieOf core) (fun loc _ => NatSet.has (sectorOf loc) sectors)
  s2.overtaken core (sectors.map (fun k => { at_ := 32 * k, bytes := List.replicate 32 0 }))

/-! ### Live barrier words (R203-R205) -/

/-- The live scope barrier words that a range of package memory meets. -/
def State.scopeWords (s : State) (loc n : Nat) : List Nat :=
  ((s.scopeBars.filter (fun b => meets loc n b.loc 8)).map (·.loc))

/-- The named barriers of a context whose bound words a range of its window meets. -/
def Ctx.boundWords (x : Ctx) (o n : Nat) : List Nat :=
  (List.range x.bars.length).filter (fun b =>
    match (nthOr {} x.bars b).bound with | some w => meets o n w 8 | none => false)

end Sys2Proof.Machine
end

