-- ==== Sys2Proof/Machine/Queue.lean ====
section
/-! DEFINITION. Virtual command processor pages and the fault queue (R383, R387), and the counting of events with the
retirements they lead to (R33, R122, R276, R277, R398, R419). -/

namespace Sys2Proof.Machine

/-! ### Pages -/

/-- A field of n bytes of a virtual command processor page. -/
def State.pageNat (s : State) (v off n : Nat) : Nat := ofLeBytes ((s.vf v).page.bytes off n)

/-- Writes a field of n bytes of a page. -/
def State.setPage (v off n value : Nat) (s : State) : State :=
  s.modVf v (fun x => { x with page := x.page.putBytes off (leBytes n value) })

/-! ### Writes of firmware and of the front end in a partition's address space -/

/-- Where consecutive bytes from a virtual address on lie; none where some byte does not translate for the access. -/
def State.placeBytes (s : State) (p va n : Nat) (need : Need) : Option (List Nat) :=
  (List.range n).foldr (fun i acc =>
    match acc, s.translate p (va + i) need with
    | some l, .inr q => some (q.loc :: l)
    | _, _ => none) (some [])

/-- Gathers consecutive bytes inside one 256-byte block into segments of at most 208 bytes (R354). -/
def runsOf : List (Nat × Byte) → List Seg
  | [] => []
  | (a, b) :: t =>
    match runsOf t with
    | g :: r =>
      if g.at_ = a + 1 ∧ a % 256 ≠ 255 ∧ g.bytes.length < 208 then { at_ := a, bytes := b :: g.bytes } :: r
      else { at_ := a, bytes := [b] } :: g :: r
    | [] => [{ at_ := a, bytes := [b] }]

/-- Sends a write of the front end to a peer; where no route leads there it is lost. -/
def State.frontSend (p : Nat) (s : State) (g : Seg) : State :=
  match s.routeOf p g.at_ with
  | some q => s.requestOrWait q { part := p, loc := g.at_, use := .front, kind := 1, vc := 0,
                                  payload := memPayload (peerOf g.at_).2 g.bytes.length 0 0 g.bytes }
  | none => { s with lostCount := s.lostCount + 1 }

/-- Writes bytes at a virtual address of a partition; none where they do not translate with PW. -/
def State.writeVa (p va : Nat) (bs : List Byte) (s : State) : Option State :=
  match s.placeBytes p va bs.length { w := true } with
  | none => none
  | some ls =>
    let gs := runsOf (ls.zip bs)
    let s1 := (s.writeDram (gs.filter (fun g => g.at_ < fabricBase)) []).writeSys
      ((gs.filter (fun g => sysBase ≤ g.at_)).map (fun g => { g with at_ := g.at_ - sysBase })) []
    some ((gs.filter (fun g => homeOf g.at_ == .fabric)).foldl (State.frontSend p) s1)

/-! ### What the pages show once it has been performed (R386, R387, R408) -/

/-- A chain of a function. -/
def State.chain (s : State) (v c : Nat) : Chain := Tab.read {} (4 * v + c) s.chains

/-- Whether a write of firmware or of the front end for a partition has not been performed at its peer. -/
def State.frontOut (s : State) (p : Nat) : Bool :=
  s.pendings.any (fun e => e.2.use == .front && (s.vf (e.1 / 4096)).part == p) ||
  s.unsent.any (fun m => m.use == .front && m.part == p)

/-- A page shows how far its fault queue and chains are, and the end of a reading: FQTAIL, CSEQ, ESTAT with GO cleared. -/
def State.showPage (s : State) (v : Nat) : State :=
  let x := s.vf v
  let t := (List.range 4).foldl (fun (u : State) c =>
    u.setPage v (0x058 + 32 * c) 8 ((u.chain v c).cseq - (u.chain v c).first)) (s.setPage v 0x0CC 4 (x.tail % 2 ^ 32))
  match x.ended with
  | some (err, code) =>
    ((t.setPage v 0x22C 4 (2 ^ 31 + 2 ^ 30 * ofBool err + code % 2 ^ 16)).setPage v 0x228 4 0).modVf v (fun y => { y with ended := none })
  | none => t

/-- The pages of a partition's functions show it with release: once what was written before has been performed (R386,
R387). -/
def State.showPages (p : Nat) (s : State) : State :=
  if s.frontOut p then s
  else ((s.vfs.filter (fun e => e.2.part == p && e.2.st != .unassigned)).map (·.1)).foldl State.showPage s

/-- Every partition's pages show what has been performed. -/
def State.showAll (s : State) : State := (s.parts.map (·.1)).foldl (fun t p => t.showPages p) s

/-! ### The fault queue (R387) -/

/-- Header of a queue slot (Table 15-5). -/
def slotHeader (kind len qseq : Nat) : List Byte := leBytes 2 kind ++ leBytes 2 len ++ leBytes 4 qseq ++ leBytes 8 0

/-- Writes a notice into the next slot of a partition's fault queue and raises FQTAIL once the slot is written; none where
the queue is full or its slot cannot be written. -/
def State.tryNotice (p kind : Nat) (body : List Byte) (s : State) : Option State :=
  match s.vfOf p, s.part p with
  | some v, some pt =>
    let size := s.pageNat v 0x0C8 4
    let tail := (s.vf v).tail
    let head := s.pageNat v 0x0D0 4
    if (tail % 2 ^ 32 + 2 ^ 32 - head) % 2 ^ 32 < size then
      match s.writeVa p (s.pageNat v 0x0C0 8 + 1024 * (tail % 2 ^ 32 % size)) (slotHeader kind body.length pt.qseq ++ body) with
      | some t =>
        some (((t.modVf v (fun x => { x with tail := x.tail + 1 })).modPart p (fun x =>
          { x with qseq := (x.qseq + 1) % 2 ^ 32 })).showPages p)
      | none => none
    else none
  | _, _ => none

/-- A notice that is no fault record: dropped, and counted in FQLOST, where the queue is full (R387). -/
def State.notice (p kind : Nat) (body : List Byte) (s : State) : State :=
  match s.tryNotice p kind body with
  | some t => t
  | none =>
    match s.vfOf p with
    | some v => s.setPage v 0x0D4 4 ((s.pageNat v 0x0D4 4 + 1) % 2 ^ 32)
    | none => s

/-- The 64 bytes of a fault record (Table 7-8), with its diagnostic behind it (Table 7-9). -/
def FaultRec.bytes (r : FaultRec) : List Byte :=
  leBytes 2 r.code ++ leBytes 2 r.flags ++ leBytes 4 r.ctx ++ leBytes 1 r.part ++ leBytes 1 r.gang ++
  leBytes 1 r.slices ++ leBytes 1 r.widx ++ leBytes 4 r.lanes ++ leBytes 8 r.hdr ++ leBytes 8 r.pc ++
  leBytes 8 r.addr ++ leBytes 4 r.detail0 ++ leBytes 4 r.detail1 ++ leBytes 8 r.cycle ++ leBytes 1 r.die ++
  leBytes 1 r.core ++ leBytes 6 0 ++ r.diag

/-- A fault record goes to the queue, or waits for room in it (R387). -/
def State.faultNotice (c : Nat) (r : FaultRec) (s : State) : State :=
  match s.tryNotice r.part 1 r.bytes with
  | some t => t
  | none => s.modPart r.part (fun x => { x with waiting := x.waiting ++ [(c, r.bytes)] })

/-- Whether the record of a context's fault waits for room in the queue: the context stays sealed (R387). -/
def State.recordWaits (s : State) (p c : Nat) : Bool := (s.part p).any (fun x => x.waiting.any (fun w => w.1 == c))

/-- Writes the records that wait, in order, as far as the queue has room; f bounds their number. -/
def State.drainRecords (p : Nat) : Nat → State → State
  | 0, s => s
  | f + 1, s =>
    match s.part p with
    | some pt =>
      match pt.waiting with
      | (_, r) :: t =>
        match s.tryNotice p 1 r with
        | some s1 => State.drainRecords p f (s1.modPart p (fun x => { x with waiting := t }))
        | none => s
      | [] => s
    | none => s

/-! ### Counting events (R276) -/

/-- W and T that a source class resets to (Table 17-9). -/
def defaultWindow (cls : Nat) : Nat × Nat :=
  match cls with
  | 1 => (2 ^ 28, 3)
  | 2 => (2 ^ 30, 16)
  | 3 => (2 ^ 30, 16)
  | 4 => (2 ^ 32, 4)
  | 5 => (2 ^ 28, 64)
  | 6 => (2 ^ 30, 8)
  | 7 => (2 ^ 28, 8)
  | 8 => (2 ^ 28, 2)
  | _ => (2 ^ 28, 4)

/-- W and T of a source class on a die (R398). -/
def State.window (s : State) (cls die : Nat) : Nat × Nat := Tab.read (defaultWindow cls) (4 * cls + die) s.windows

/-- Number of a source: its class, its die, and its unit there. -/
def sourceOf (cls die unit : Nat) : Nat := 2 ^ 40 * cls + 2 ^ 32 * die + unit

/-- How many events of a source fall within its window now. -/
def State.recentEvents (s : State) (cls unit die : Nat) : Nat :=
  ((Tab.read [] (sourceOf cls die unit) s.events).filter (fun c => s.cycle die < c + (s.window cls die).1)).length

/-- Counts n events of a source now; true where the newest makes T of them fall within W die cycles (R276). Every event
stays counted, since W may be set wider later (R419). -/
def State.countEvents (cls unit die n : Nat) (s : State) : Bool × State :=
  let past := Tab.read [] (sourceOf cls die unit) s.events
  let t := { s with events := Tab.set (sourceOf cls die unit) (past ++ List.replicate n (s.cycle die)) s.events }
  (0 < n && (s.window cls die).2 ≤ t.recentEvents cls unit die, t)

/-- Of n events of a source that come now, those that leave it below its threshold: they are logged only (R276). -/
def State.transientEvents (s : State) (cls unit die n : Nat) : Nat :=
  Nat.min n ((s.window cls die).2 - 1 - s.recentEvents cls unit die)

/-- Counts n events of a source that partitions hold work on, for CNTR too (R276, Table 15-6): corrected ones, and those
of a source that they leave transient, which are logged only. -/
def State.sourceEvents (cls unit die n : Nat) (ps : List Nat) (corrected : Bool) (s : State) : Bool × State :=
  let (last, s1) := s.countEvents cls unit die n
  (last, ps.foldl (fun t p => t.modPart p (fun x =>
    { x with corrected := x.corrected + (if corrected then n else 0),
             transient := x.transient + s.transientEvents cls unit die n })) s1)

/-- The partitions that hold work on a core: those of its contexts. -/
def State.partsOnCore (s : State) (core : Nat) : List Nat :=
  ((s.ctxs.filter (fun e => e.2.core == core && e.2.run != .retired)).map (fun e => e.2.part)).eraseDups

/-- A retirement notice to partitions: class and number of the unit, and its die (Table 15-5, R398); CNTR counts the
unit (Table 15-6). -/
def State.retireNotices (ps : List Nat) (cls unit die : Nat) (s : State) : State :=
  ps.foldl (fun t p => (t.notice p 3 (leBytes 4 cls ++ leBytes 4 unit ++ leBytes 4 die)).modPart p (fun x =>
    { x with retired := x.retired + 1 })) s

/-- The partitions that hold work on a die: those of its contexts. -/
def State.partsOnDie (s : State) (die : Nat) : List Nat :=
  ((s.ctxs.filter (fun e => dieOf e.2.core == die && e.2.run != .retired)).map (fun e => e.2.part)).eraseDups

/-- Retires a core (Table 1-10): it holds no context again, its contexts are pre-empted, its partitions told. DEDUCED,
unsafe: log entry 57. -/
def State.retireCore (core : Nat) (s : State) : State :=
  if (s.core core).retired then s
  else
    let ps := s.partsOnCore core
    let cs := (s.ctxs.filter (fun e => e.2.core == core && (e.2.run == .running || e.2.run == .placed))).map (·.1)
    let s1 := s.modCore core (fun c => { c with retired := true })
    { s1.retireNotices ps 0 core (dieOf core) with agenda := s1.agenda ++ cs.map Instr.preemptionRequest }

/-- The physical lane that an architectural lane of a unit runs on (R122). -/
def State.physLane (s : State) (core unit lane : Nat) : Nat :=
  match nthOr none (s.core core).steered unit with
  | some p => if p ≤ lane then lane + 1 else lane
  | none => lane

/-- Declares a physical lane lasting-faulty: the spare is steered in, or the core retires where it already is
(R122). -/
def State.retireLane (core unit phys : Nat) (s : State) : State :=
  match nthOr none (s.core core).steered unit with
  | some _ => s.retireCore core
  | none =>
    (s.modCore core (fun c => { c with steered := mapNth unit (fun _ => some phys) c.steered })).retireNotices
      (s.partsOnCore core) 1 (33 * unit + phys) (dieOf core)

/-- Counts an event of a physical lane (class 1) and retires the lane where it makes it lasting (R121, R136). -/
def State.laneEvent (core unit phys : Nat) (s : State) : Bool × State :=
  let (last, s1) := s.sourceEvents 1 (132 * core + 33 * unit + phys) (dieOf core) 1 (s.partsOnCore core) false
  (last, if last then s1.retireLane core unit phys else s1)

end Sys2Proof.Machine
end

