-- ==== Sys2Proof/Machine/Operands.lean ====
section
/-! DEFINITION. Operands of the arithmetic words: the mode register (Table 3-3), elements and pairs (R124, R125), the
checks of R126 and R98, per-lane computation with its poison (R134), and the checks on results by idle lanes and
shadow units (R120, R121, R136, R137). -/

namespace Sys2Proof.Machine

/-! ### The mode register -/

/-- The fields of the mode register that an operation uses (Table 3-3). -/
structure Mode where
  type : Nat
  rnd : Nat
  sat : Bool
  ftz : Bool
  deriving DecidableEq, Repr

/-- The fields of a mode register. -/
def modeOf (m : BitVec 16) : Mode :=
  { type := (m.extractLsb' 0 5).toNat, rnd := (m.extractLsb' 5 3).toNat, sat := m.getLsbD 8, ftz := m.getLsbD 9 }

/-- The mode of a lane's slice (R76). -/
def Gang.modeAt (g : Gang) (l : Nat) : Mode := modeOf (g.slice (sliceOfLane l)).mode

/-- s64 and n64, under which operands are pairs (R125). -/
def wide (t : Nat) : Bool := t == 6 || t == 7
/-- The eight integer types. -/
def isInt (t : Nat) : Bool := t ≤ 7
/-- The three floating-point types. -/
def isFloat (t : Nat) : Bool := t == 8 || t == 9 || t == 10
/-- Every type that is not reserved. -/
def anyType (t : Nat) : Bool := t ≤ 10
/-- Float types as unsigned integers of their element width (Table 5-5). -/
def asInt (t : Nat) : Nat := if t = 8 then 1 else if t = 9 ∨ t = 10 then 3 else t

/-- Element width in bits (Table 5-1). -/
def elemWidth (t : Nat) : Nat :=
  match t with
  | 0 | 1 | 8 => 32
  | 2 | 3 | 9 | 10 => 16
  | 4 | 5 => 8
  | _ => 64
/-- Signed integer types (Table 5-1). -/
def isSigned (t : Nat) : Bool := t == 0 || t == 2 || t == 4 || t == 6
/-- Bits of a whole operand: 32, or 64 for a pair. -/
def operandWidth (t : Nat) : Nat := if wide t then 64 else 32
/-- Elements per operand (Table 5-1). -/
def elemCount (t : Nat) : Nat := operandWidth t / elemWidth t

/-- Element e of an operand (R124). -/
def elem (t v e : Nat) : Nat := (v / 2 ^ (elemWidth t * e)) % 2 ^ elemWidth t

/-- An operand from its elements, the lowest first (R124). -/
def joinElems (w : Nat) : List Nat → Nat
  | [] => 0
  | a :: t => a % 2 ^ w + 2 ^ w * joinElems w t

/-- Computes each element of an operand by itself (R124). -/
def mapElems (t : Nat) (f : Nat → Nat) : Nat := joinElems (elemWidth t) ((List.range (elemCount t)).map f)

/-- The exact value of an integer element. -/
def intValue (t v : Nat) : Int := if isSigned t then signed (elemWidth t) v else (v % 2 ^ elemWidth t : Nat)

/-- Least value of an element (Table 5-1). -/
def intMin (t : Nat) : Int := if isSigned t then -((2 ^ (elemWidth t - 1) : Nat) : Int) else 0
/-- Greatest value of an element (Table 5-1). -/
def intMax (t : Nat) : Int :=
  if isSigned t then ((2 ^ (elemWidth t - 1) : Nat) : Int) - 1 else ((2 ^ elemWidth t : Nat) : Int) - 1

/-- Fits an exact result into an element (R132). -/
def fit (t : Nat) (sat : Bool) (r : Int) : Nat :=
  wrap (elemWidth t) (if sat then clamp (intMin t) (intMax t) r else r)

/-! ### Reading and writing operands -/

/-- An operand of a lane: a register, or a pair under a 64-bit type. -/
def Gang.operand (g : Gang) (w : Bool) (r l : Nat) : Nat := if w then g.pair r l else (g.reg r l).val.toNat

/-- Poison of an operand of a lane (R125). -/
def Gang.operandP (g : Gang) (w : Bool) (r l : Nat) : Bool := if w then g.pairP r l else (g.reg r l).p

/-- A lane's result: its bits, its poison, and whether it is a pair. -/
structure LaneOut where
  lane : Nat
  val : Nat
  p : Bool
  pair : Bool := false
  deriving DecidableEq, Repr

/-- Writes lane results to a register or a pair (R125: both P bits alike). -/
def Gang.putOuts (d : Nat) : List LaneOut → Gang → Gang
  | [], g => g
  | o :: t, g =>
    let g1 := g.setReg d o.lane { val := BitVec.ofNat 32 o.val, p := o.p }
    Gang.putOuts d t (if o.pair then g1.setReg (d + 1) o.lane { val := BitVec.ofNat 32 (o.val / 2 ^ 32), p := o.p } else g1)

/-- Writes lane results of the issuing gang, saving its register granules first (R328). -/
def State.putOuts (d : Nat) (outs : List LaneOut) (s : State) : State :=
  (s.beforeRegs s.issue.ctx s.issue.gang (if outs.any (·.pair) then [d, d + 1] else [d])).modGg (Gang.putOuts d outs)

/-! ### Checks -/

/-- A register field that a word uses: its field code (R420), its register, whether it is an element operand (a pair
under s64 and n64), and how many registers it names otherwise. -/
structure Field where
  code : Nat
  reg : Nat
  isElem : Bool := true
  count : Nat := 1
  deriving DecidableEq, Repr

/-- REG_RANGE of a group of registers (R98): the first register at or above REGS. -/
def rangeFault (regs code reg count : Nat) : Option FaultInfo :=
  if regs < reg + count then
    some { code := fRegRange, detail0 := Nat.max reg regs, detail1 := code }
  else none

/-- REG_RANGE of the fields of a word, in the order of their codes (R98). DEDUCED, unsafe: log entry 53. -/
def State.regRange (fs : List Field) (anyWide : Bool) (s : State) : Option FaultInfo :=
  firstFault (fs.map (fun f => rangeFault s.cx.regsN f.code f.reg (if f.isElem && anyWide then 2 else f.count)))

/-- TYPE_MISMATCH over the issuing slices (R126). -/
def State.typeFault (accept : Nat → Bool) (s : State) : Option FaultInfo :=
  let bad := s.issuing.filter (fun i => !accept (modeOf (s.gg.slice i).mode).type)
  match bad with
  | i :: _ => some { code := fTypeMismatch, detail0 := (modeOf (s.gg.slice i).mode).type, detail1 := maskOf bad }
  | [] => none

/-- Whether some issuing slice has a 64-bit type. -/
def State.anyWide (s : State) : Bool := s.issuing.any (fun i => wide (modeOf (s.gg.slice i).mode).type)

/-- REG_PAIR under s64 and n64 (R125); of several odd fields the record names that of the lowest code. DESIGN CHOICE,
unsafe: log entry 86. -/
def State.pairFault (fs : List Field) (s : State) : Option FaultInfo :=
  if s.anyWide then
    match fs.filter (fun f => f.isElem && f.reg % 2 == 1) with
    | f :: _ => some { code := fRegPair, detail0 := f.reg, detail1 := f.code }
    | [] => none
  else none

/-- The checks of R126 in their order. -/
def State.arithFault (accept : Nat → Bool) (fs : List Field) (s : State) : Option FaultInfo :=
  firstFault [s.typeFault accept, s.pairFault fs, s.regRange fs s.anyWide]

/-! ### Duplex and shadow checks (log entry 13) -/

/-- The partner that checks a lane: in ascending order of enabled lanes, lane xor 1 and else lane xor 2, where it is
idle and not yet taken (R120). -/
def duplexPairs (on : List Nat) : List Nat → List Nat → List (Nat × Nat)
  | [], _ => []
  | l :: t, taken =>
    let free := fun p => !(on.contains p) && !(taken.contains p)
    if free (l ^^^ 1) then (l, l ^^^ 1) :: duplexPairs on t ((l ^^^ 1) :: taken)
    else if free (l ^^^ 2) then (l, l ^^^ 2) :: duplexPairs on t ((l ^^^ 2) :: taken)
    else duplexPairs on t taken

/-- The partner of an enabled issuing lane in duplex mode (R120). -/
def State.partnerOf (s : State) (l : Nat) : Option Nat :=
  if s.cx.lmode = 2 then
    ((duplexPairs s.enabledLanes s.enabledLanes []).find? (fun e => e.1 == l)).map (·.2)
  else none

/-- The format of a floating-point TYPE (Table 5-1). -/
def fmtOf (t : Nat) : Fmt := if t = 9 then bf16 else if t = 10 then fp16 else fp32

/-- The elements of a lane's result that shadow units check: of the gang, the result and an element's number, its format
and its bits (R136). -/
abbrev Shadow := Gang → LaneOut → Nat → Option (Fmt × Nat)

/-- A word that no shadow unit checks. -/
def noShadow : Shadow := fun _ _ _ => none

/-- A word whose results are elements of the lane's TYPE: they are checked where that is a floating-point type. -/
def typeShadow : Shadow := fun g o e =>
  let t := (g.modeAt o.lane).type
  if isFloat t && e < elemCount t then some (fmtOf t, elem t o.val e) else none

/-- Class of an element for the shadow check: NaN, infinite, zero or finite. -/
def Fmt.shadowClass (f : Fmt) (x : Nat) : Nat :=
  if f.isNan x then 0 else if f.isInf x then 1 else if f.isZero x then 2 else 3

/-- A finite element in units of its format's smallest subnormal. -/
def Fmt.units (f : Fmt) (x : Nat) : Int :=
  let m : Nat := (if f.expo x = 0 then f.frac x else 2 ^ f.fbits + f.frac x) * 2 ^ (Nat.max 1 (f.expo x) - 1)
  if f.sign x then -(m : Int) else m

/-- Whether a main result and a shadow result of top 6 fraction bits diverge (R136): poisoned elements are not compared;
another class, or, of two finite results, a distance above 2*2^(E-6). -/
def Fmt.diverges (f : Fmt) (main shadow : Nat) : Bool :=
  let cut := 2 ^ (f.fbits - 6)
  let y := shadow * cut
  if f.isPoison main then false
  else if f.shadowClass main != f.shadowClass y then true
  else if f.shadowClass main != 3 then false
  else
    let e := Nat.max 1 (Nat.max (f.expo main) (f.expo y))
    2 * 2 ^ (e - 1 + (f.fbits - 6)) < (f.units (main / cut * cut) - f.units y).natAbs

/-- Whether the shadow unit's result for an element of a lane diverges from the lane's (R136). -/
def State.diverged (sh : Shadow) (outs : List LaneOut) (l e v : Nat) (s : State) : Bool :=
  match outs.find? (fun o => o.lane == l) with
  | some o => match sh s.gg o e with | some (f, x) => f.diverges x v | none => false
  | none => false

/-- What strikes the word: the events it counts (R121, R136), and the fault it raises where all three duplex results
differ or a shadow divergence makes a unit lasting (R137); outs: the results of its lanes. DESIGN CHOICE, safe: log
entry 13. -/
def State.strike (sh : Shadow) (outs : List LaneOut) : List Upset → State → Option FaultInfo × State
  | [], s => (none, s)
  | u :: t, s =>
    let core := s.cx.core
    let unit := s.gg.unit
    if !(s.enabledLanes.contains u.lane) then State.strike sh outs t s
    else
      match u.kind, s.partnerOf u.lane with
      | .duplexLane, some _ => State.strike sh outs t (s.laneEvent core unit (s.physLane core unit u.lane)).2
      | .duplexPartner, some p => State.strike sh outs t (s.laneEvent core unit (s.physLane core unit p)).2
      | .duplexAll, some p =>
        (some { code := fDuplexMismatch, lanes := 2 ^ u.lane, detail0 := u.lane, detail1 := p }, s)
      | .shadow e v, _ =>
        if s.diverged sh outs u.lane e v then
          let phys := s.physLane core unit u.lane
          match s.laneEvent core unit phys with
          | (true, s1) => (some { code := fShadowMismatch, lanes := 2 ^ u.lane, detail0 := phys }, s1)
          | (false, s1) => State.strike sh outs t s1
        else State.strike sh outs t s
      | _, none => State.strike sh outs t s

/-- Completes a checked word: what strikes it is counted; a mismatch that stays raises, and the word has no effect;
otherwise it has its effect, unchanged (R34, R121, R137). -/
def State.struck (sh : Shadow) (outs : List LaneOut) (act : State → State) (s : State) : State :=
  match s.issue.upsets with
  | [] => act s
  | us =>
    match State.strike sh outs us s with
    | (some f, s1) => s1.raise f
    | (none, s1) => act s1

/-! ### The frame of a computing word -/

/-- A computing word: nothing but its end where no lane is enabled (R103); the checks of R126; the results of the
enabled lanes, all read before any is written (R139); L and the next word. -/
def State.compute (accept : Nat → Bool) (fs : List Field) (sh : Shadow) (l : Bool) (d a : Nat)
    (out : Gang → Nat → LaneOut) (s : State) : State :=
  let n := if s.anyWide then 2 else 1
  if s.enabledLanes = [] then s.endWordL l a n
  else
    s.checked (s.arithFault accept fs)
      (State.struck sh (s.enabledLanes.map (out s.gg)) (fun t => (t.putOuts d (t.enabledLanes.map (out t.gg))).endWordL l a n))

/-- A word that names its registers whatever TYPE: REG_RANGE is its only check of R126. -/
def State.computeAs (sh : Shadow) (fs : List Field) (l : Bool) (d a n : Nat) (out : Gang → Nat → LaneOut) (s : State) :
    State :=
  if s.enabledLanes = [] then s.endWordL l a n
  else
    s.checked (s.regRange fs false)
      (State.struck sh (s.enabledLanes.map (out s.gg)) (fun t => (t.putOuts d (t.enabledLanes.map (out t.gg))).endWordL l a n))

/-- The fields d, a, b of a three-register word. -/
def fields3 (d a b : BitVec 8) : List Field :=
  [{ code := 0, reg := d.toNat }, { code := 1, reg := a.toNat }, { code := 2, reg := b.toNat }]

/-- The fields d, a of a two-register word. -/
def fields2 (d a : BitVec 8) : List Field := [{ code := 0, reg := d.toNat }, { code := 1, reg := a.toNat }]

end Sys2Proof.Machine
end

