-- ==== Sys2Proof/Machine/Flags.lean ====
section
/-! DEFINITION. The completion flags f0 to f11 (R67, R68, R70, R197) and the relation word that comparisons write
(R145). -/

namespace Sys2Proof.Machine

/-! ### Completion flags -/

/-- A flag number of a header field; none for 0xF (Table 3-1). -/
def flagField (f : Nat) : Option Nat := if f < 12 then some f else none

/-- FA and FB of the clause the issuing slices are in. -/
def State.clauseFlags (s : State) : Option Nat × Option Nat :=
  let h := nthOr 0 (s.gg.slice (leastOr 0 s.issuing)).clause 0
  (flagField (h.extractLsb' 9 4).toNat, flagField (h.extractLsb' 5 4).toNat)

/-- Changes a flag of a gang. -/
def Gang.modFlag (i : Nat) (f : Flag → Flag) (g : Gang) : Gang := { g with flags := mapNth i f g.flags }

/-- Arms a flag when a clause passes its wait: pending, its outstanding operations still counted (R67). -/
def Gang.armFlag (clauseNo i : Nat) (g : Gang) : Gang :=
  g.modFlag i (fun f =>
    { f with set := false, opened := true, armer := clauseNo, scope := if f.count = 0 then 0 else f.scope })

/-- Counts an operation against a flag when it issues (R67). -/
def Gang.countFlag (o : Option Nat) (g : Gang) : Gang :=
  match o with
  | some i => g.modFlag i (fun f => { f with set := false, count := f.count + 1 })
  | none => g

/-- Removes a completed operation from a flag, at a completion scope (R44, R67). -/
def Gang.uncountFlag (o : Option Nat) (scope : Nat) (g : Gang) : Gang :=
  match o with
  | some i => g.modFlag i (fun f => ({ f with count := f.count - 1, scope := Nat.max f.scope scope }).settle)
  | none => g

/-- Wakes the slices that wait at a header whose flags are all set; they then evaluate it (R62), and take the turn where
no sub-gang has it (R95). -/
def Gang.wakeFlags (g : Gang) : Gang := g.wakeSlices.choose

/-! ### The relation word -/

/-- How two elements compare; none where they do not order (a NaN). -/
def compareInt (x y : Int) : Option Ordering := if x < y then some .lt else if x = y then some .eq else some .gt

/-- The relation word (Table 5-7). -/
def relationWord (o : Option Ordering) : Nat :=
  match o with
  | some .lt => 0b1010001
  | some .eq => 0b0110010
  | some .gt => 0b1100100
  | none => 0b1001000

end Sys2Proof.Machine
end

