-- ==== Sys2Proof/Machine/FloatFns.lean ====
section
/-! DEFINITION. The approximate functions of R153 as the GS-9700 gives them: the exact value rounded once into FP32.
Transcendental values are held as fixed-point intervals of p fraction bits that are narrowed until both ends round
alike (log entry 12). -/

namespace Sys2Proof.Machine

/-- Product of fixed-point numbers of p fraction bits. -/
def fxMul (p x y : Nat) : Nat := (x * y) / 2 ^ p

/-- The sum over n terms of an alternating or plain series t, t*r/(d0), ...: each term is the last times r, over the
divisor of its place. -/
def powerSum (p r : Nat) (alt : Bool) (divisor : Nat → Nat) : Nat → Nat → Int → Bool → Int
  | 0, _, _, _ => 0
  | n + 1, i, t, neg =>
    let term : Int := if neg then -t else t
    let next := (fxMul p t.toNat r) / divisor i
    term + powerSum p r alt divisor n (i + 1) next (if alt then !neg else neg)

/-- The sum of z^(2i+1)/(2i+1), plain (artanh) or alternating (arctan), of n terms. -/
def oddSum (p z2 : Nat) (alt : Bool) : Nat → Nat → Nat → Bool → Int
  | 0, _, _, _ => 0
  | n + 1, i, t, neg =>
    let term : Int := ((t / (2 * i + 1) : Nat) : Int)
    (if neg then -term else term) + oddSum p z2 alt n (i + 1) (fxMul p t z2) (if alt then !neg else neg)

/-- arctan(1/k) or artanh(1/k) in p fraction bits. -/
def invSum (p k : Nat) (alt : Bool) : Int := oddSum p (2 ^ p / (k * k)) alt (p / 2) 0 (2 ^ p / k) false

/-- ln 2 = 2 artanh(1/3). -/
def ln2 (p : Nat) : Nat := (2 * invSum p 3 false).toNat

/-- pi = 16 arctan(1/5) - 4 arctan(1/239). -/
def piFx (p : Nat) : Nat := (16 * invSum p 5 true - 4 * invSum p 239 true).toNat

/-- e^x for a fixed-point x in [0, 1). -/
def expFx (p x : Nat) : Nat := (powerSum p x false (fun i => i + 1) (p / 2) 0 ((2 ^ p : Nat) : Int) false).toNat

/-- 2^f for a fraction f = n / 2^k in [0, 1), in p fraction bits. -/
def exp2Frac (p n k : Nat) : Nat := expFx p (fxMul p (n * 2 ^ p / 2 ^ k) (ln2 p))

/-- log2(m / 2^k) for 1 <= m / 2^k < 2, in p fraction bits. -/
def log2Frac (p m k : Nat) : Nat :=
  let one := 2 ^ k
  let z := ((m - one) * 2 ^ p) / (m + one)
  ((2 * oddSum p (fxMul p z z) false (p / 2) 0 z false).toNat * 2 ^ p) / ln2 p

/-- sin of a fixed-point r in [0, pi/2]. -/
def sinFx (p r : Nat) : Int :=
  powerSum p (fxMul p r r) true (fun i => (2 * i + 2) * (2 * i + 3)) (p / 2) 0 (r : Int) false

/-- cos of a fixed-point r in [0, pi/2]. -/
def cosFx (p r : Nat) : Int :=
  powerSum p (fxMul p r r) true (fun i => (2 * i + 1) * (2 * i + 2)) (p / 2) 0 ((2 ^ p : Nat) : Int) false

/-- Rounds a fixed-point value known to within err of its last place, where both ends round alike. -/
def roundWithin (m : FMode) (p : Nat) (v : Int) (err shift : Int) : Option Nat :=
  let at_ := fun (i : Int) => fp32.ftzOut m.ftz (fp32.round 0 m.sat (i < 0) i.natAbs (shift - p) true)
  if at_ (v - err) = at_ (v + err) then some (at_ v) else none

/-- The rounded value at growing precision; the precisions cover every FP32 operand. DEDUCED, unsafe: log entry 12. -/
def refine (m : FMode) (approx : Nat → Int) (shift : Int) : List Nat → Nat
  | [] => fp32.nan
  | [p] => (roundWithin m p (approx p) 0 shift).getD fp32.nan
  | p :: t => match roundWithin m p (approx p) (2 ^ 20) shift with
    | some v => v
    | none => refine m approx shift t

/-- Working precisions in fraction bits. DEDUCED, unsafe: log entry 12. -/
def precisions : List Nat := [256, 512, 1024]

/-- FRCP under f32 (Table 5-10). -/
def fRcp (m : FMode) (x : Nat) : Nat := fp32.div { m with rnd := 0 } 0x3F800000 x

/-- FRSQ under f32 (Table 5-10). -/
def fRsq (m : FMode) (x : Nat) : Nat :=
  let a := fp32.ftzIn m.ftz x
  if fp32.isNan a then fp32.nan
  else if fp32.isZero a then fp32.inf (fp32.sign a)
  else if fp32.sign a then fp32.nan
  else if fp32.isInf a then fp32.zero false
  else
    let v := fp32.value a
    let odd := v.exp % 2 != 0
    let mant := if odd then 2 * v.mant else v.mant
    let e := if odd then v.exp - 1 else v.exp
    let r := isqrt (2 ^ 128 / mant) 65 0
    fp32.ftzOut m.ftz (fp32.round 0 m.sat false r (-(e / 2) - 64) (r * r * mant != 2 ^ 128))

/-- The floor of a finite value, and the fraction above it as a number of 2^-k. -/
def floorFrac (v : Fin2) : Int × Nat × Nat :=
  if 0 ≤ v.exp then
    let i : Int := (v.mant * 2 ^ v.exp.toNat : Nat)
    (if v.neg then -i else i, 0, 0)
  else
    let k := (-v.exp).toNat
    let i : Int := if v.neg then -(v.mant : Int) else v.mant
    (i / ((2 ^ k : Nat) : Int), (i % ((2 ^ k : Nat) : Int)).toNat, k)

/-- FEXP2 under f32 (Table 5-10). -/
def fExp2 (m : FMode) (x : Nat) : Nat :=
  let a := fp32.ftzIn m.ftz x
  if fp32.isNan a then fp32.nan
  else if fp32.isInf a then (if fp32.sign a then 0 else a)
  else
    let (i, n, k) := floorFrac (fp32.value a)
    if 128 ≤ i then (if m.sat then fp32.largest false else fp32.inf false)
    else if i < -150 || (i = -150 && n = 0) then 0
    else if n = 0 then fp32.ftzOut m.ftz (fp32.round 0 m.sat false 1 i false)
    else refine m (fun p => (exp2Frac p n k : Int)) i precisions

/-- FLOG2 under f32 (Table 5-10). -/
def fLog2 (m : FMode) (x : Nat) : Nat :=
  let a := fp32.ftzIn m.ftz x
  if fp32.isNan a then fp32.nan
  else if fp32.isZero a then fp32.inf true
  else if fp32.sign a then fp32.nan
  else if fp32.isInf a then a
  else
    let v := fp32.value a
    let k := Nat.log2 v.mant
    let e : Int := v.exp + k
    if v.mant = 2 ^ k then fp32.ofInt { m with rnd := 0 } e
    else refine m (fun p => e * (2 ^ p : Nat) + log2Frac p v.mant k) 0 precisions

/-- The quadrant and the remainder in p fraction bits of a finite magnitude reduced by pi/2. -/
def reduceAngle (p : Nat) (v : Fin2) : Nat × Nat :=
  let q := p + 160
  let half := piFx q / 2
  let a := if 0 ≤ v.exp then v.mant * 2 ^ v.exp.toNat * 2 ^ q else v.mant * 2 ^ q / 2 ^ (-v.exp).toNat
  ((a / half) % 4, (a % half) / 2 ^ 160)

/-- sin of a finite value in p fraction bits. -/
def sinApprox (v : Fin2) (p : Nat) : Int :=
  let (k, r) := reduceAngle p v
  let s := match k with | 0 => sinFx p r | 1 => cosFx p r | 2 => -sinFx p r | _ => -cosFx p r
  if v.neg then -s else s

/-- cos of a finite value in p fraction bits. -/
def cosApprox (v : Fin2) (p : Nat) : Int :=
  let (k, r) := reduceAngle p v
  match k with | 0 => cosFx p r | 1 => -sinFx p r | 2 => -cosFx p r | _ => sinFx p r

/-- FSIN under f32 (Table 5-10). A magnitude below 2^-60 is its own sine, rounded. -/
def fSin (m : FMode) (x : Nat) : Nat :=
  let a := fp32.ftzIn m.ftz x
  if fp32.isNan a || fp32.isInf a then fp32.nan
  else if fp32.isZero a || fp32.expo a < 67 then a
  else refine m (sinApprox (fp32.value a)) 0 precisions

/-- FCOS under f32 (Table 5-10). -/
def fCos (m : FMode) (x : Nat) : Nat :=
  let a := fp32.ftzIn m.ftz x
  if fp32.isNan a || fp32.isInf a then fp32.nan
  else if fp32.isZero a || fp32.expo a < 67 then 0x3F800000
  else refine m (cosApprox (fp32.value a)) 0 precisions

/-- A function of R153 on an element of a format: under the 16-bit formats the element is widened, and the FP32 result
rounded once more, RNE. -/
def approxFn (fn : FMode → Nat → Nat) (f : Fmt) (m : FMode) (x : Nat) : Nat :=
  if f = fp32 then fn m x
  else
    let r := fn m (f.widen (f.ftzIn m.ftz x))
    fp32.convert f { m with rnd := 0 } r

end Sys2Proof.Machine
end

