-- ==== Sys2Proof/Machine/FloatArith.lean ====
section
/-! DEFINITION. The floating-point words, conversions and PACK2 (R134, R145, R148-R155). -/

namespace Sys2Proof.Machine

/-- How a mode register rounds (Table 3-3). -/
def Mode.fmode (m : Mode) : FMode := { rnd := m.rnd, sat := m.sat, ftz := m.ftz }

/-! ### Words on floating-point elements (R134, R148) -/

/-- The elements at position e of source registers of a lane. -/
def Gang.elems (g : Gang) (t l e : Nat) (srcs : List Nat) : List Nat :=
  srcs.map (fun r => elem t (g.reg r l).val.toNat e)

/-- Whether element e is poisoned: the P bit of a source register, or the poison encoding in a source element (R134). -/
def Gang.elemPoisoned (g : Gang) (t l e : Nat) (srcs : List Nat) : Bool :=
  srcs.any (fun r => (g.reg r l).p) || (g.elems t l e srcs).any (fmtOf t).isPoison

/-- The lane result of a word on floating-point elements: a poisoned element is the poison encoding (R134). -/
def floatOut (srcs : List Nat) (f : Fmt → FMode → List Nat → Nat) (g : Gang) (l : Nat) : LaneOut :=
  let m := g.modeAt l
  let t := m.type
  { lane := l,
    val := joinElems (elemWidth t) ((List.range (elemCount t)).map (fun e =>
      if g.elemPoisoned t l e srcs then (fmtOf t).poison else f (fmtOf t) m.fmode (g.elems t l e srcs))),
    p := (List.range (elemCount t)).any (fun e => g.elemPoisoned t l e srcs) }

/-- Applies a function of one element. -/
def on1 (f : Fmt → FMode → Nat → Nat) (t : Fmt) (m : FMode) (xs : List Nat) : Nat := f t m (nthOr 0 xs 0)
/-- Applies a function of two elements. -/
def on2 (f : Fmt → FMode → Nat → Nat → Nat) (t : Fmt) (m : FMode) (xs : List Nat) : Nat :=
  f t m (nthOr 0 xs 0) (nthOr 0 xs 1)
/-- Applies a function of three elements. -/
def on3 (f : Fmt → FMode → Nat → Nat → Nat → Nat) (t : Fmt) (m : FMode) (xs : List Nat) : Nat :=
  f t m (nthOr 0 xs 0) (nthOr 0 xs 1) (nthOr 0 xs 2)

/-- A two-source floating-point word; shadow: whether R136 checks it. -/
def State.float2 (shadow : Shadow) (f : Fmt → FMode → Nat → Nat → Nat) (l : Bool) (d a b : BitVec 8) (s : State) : State :=
  s.compute isFloat (fields3 d a b) shadow l d.toNat a.toNat (floatOut [a.toNat, b.toNat] (on2 f))

/-- A one-source floating-point word. -/
def State.float1 (f : Fmt → FMode → Nat → Nat) (l : Bool) (d a : BitVec 8) (s : State) : State :=
  s.compute isFloat (fields2 d a) typeShadow l d.toNat a.toNat (floatOut [a.toNat] (on1 f))

/-- FADD (R148). -/
def execFadd (l : Bool) (d a b : BitVec 8) (s : State) : Result := .next (s.float2 typeShadow Fmt.add l d a b)
/-- FSUB (R148). -/
def execFsub (l : Bool) (d a b : BitVec 8) (s : State) : Result := .next (s.float2 typeShadow Fmt.sub l d a b)
/-- FMUL (R148). -/
def execFmul (l : Bool) (d a b : BitVec 8) (s : State) : Result := .next (s.float2 typeShadow Fmt.mul l d a b)
/-- FDIVS (R148, R152). -/
def execFdivs (l : Bool) (d a b : BitVec 8) (s : State) : Result := .next (s.float2 typeShadow Fmt.div l d a b)
/-- FFMA: a * b + vd, rounded once (R148). -/
def execFfma (l : Bool) (d a b : BitVec 8) (s : State) : Result :=
  .next (s.compute isFloat (fields3 d a b) typeShadow l d.toNat a.toNat (floatOut [a.toNat, b.toNat, d.toNat] (on3 Fmt.fma)))
/-- FMIN (R149). -/
def execFmin (l : Bool) (d a b : BitVec 8) (s : State) : Result :=
  .next (s.float2 noShadow (fun f m x y => f.min m.ftz x y) l d a b)
/-- FMAX (R149). -/
def execFmax (l : Bool) (d a b : BitVec 8) (s : State) : Result :=
  .next (s.float2 noShadow (fun f m x y => f.max m.ftz x y) l d a b)
/-- FSQRT (R148, R152). -/
def execFsqrt (l : Bool) (d a : BitVec 8) (s : State) : Result := .next (s.float1 Fmt.sqrt l d a)
/-- FRCP (R153). -/
def execFrcp (l : Bool) (d a : BitVec 8) (s : State) : Result := .next (s.float1 (approxFn fRcp) l d a)
/-- FRSQ (R153). -/
def execFrsq (l : Bool) (d a : BitVec 8) (s : State) : Result := .next (s.float1 (approxFn fRsq) l d a)
/-- FEXP2 (R153). -/
def execFexp2 (l : Bool) (d a : BitVec 8) (s : State) : Result := .next (s.float1 (approxFn fExp2) l d a)
/-- FLOG2 (R153). -/
def execFlog2 (l : Bool) (d a : BitVec 8) (s : State) : Result := .next (s.float1 (approxFn fLog2) l d a)
/-- FSIN (R153). -/
def execFsin (l : Bool) (d a : BitVec 8) (s : State) : Result := .next (s.float1 (approxFn fSin) l d a)
/-- FCOS (R153). -/
def execFcos (l : Bool) (d a : BitVec 8) (s : State) : Result := .next (s.float1 (approxFn fCos) l d a)

/-! ### FABS, FNEG, FCLASS, FCMP (R145, R150, R151) -/

/-- The lane result of FABS and FNEG: the sign the operation gives, the other bits copied; a poisoned element is the
poison encoding under that sign (R150). -/
def signOut (neg : Bool → Bool) (a : BitVec 8) (g : Gang) (l : Nat) : LaneOut :=
  let t := (g.modeAt l).type
  let f := fmtOf t
  let r := g.reg a.toNat l
  { lane := l, p := r.p,
    val := mapElems t (fun e =>
      let x := elem t r.val.toNat e
      (if r.p then f.poison else x % 2 ^ (f.ebits + f.fbits)) + f.signOf (neg (f.sign x))) }

/-- FABS (R150). -/
def execFabs (l : Bool) (d a : BitVec 8) (s : State) : Result :=
  .next (s.compute isFloat (fields2 d a) noShadow l d.toNat a.toNat (signOut (fun _ => false) a))
/-- FNEG (R150). -/
def execFneg (l : Bool) (d a : BitVec 8) (s : State) : Result :=
  .next (s.compute isFloat (fields2 d a) noShadow l d.toNat a.toNat (signOut (fun n => !n) a))

/-- The lane result of FCLASS: P clear in every case (R151). -/
def classOut (a : BitVec 8) (g : Gang) (l : Nat) : LaneOut :=
  let t := (g.modeAt l).type
  let r := g.reg a.toNat l
  { lane := l, p := false,
    val := mapElems t (fun e => if r.p then 2 ^ 10 else (fmtOf t).cls (elem t r.val.toNat e)) }

/-- FCLASS (R151). -/
def execFclass (l : Bool) (d a : BitVec 8) (s : State) : Result :=
  .next (s.compute isFloat (fields2 d a) noShadow l d.toNat a.toNat (classOut a))

/-- The lane result of FCMP: a poisoned element is unordered and sets P (R145). -/
def fcmpOut (a b : BitVec 8) (g : Gang) (l : Nat) : LaneOut :=
  let m := g.modeAt l
  let t := m.type
  let srcs := [a.toNat, b.toNat]
  { lane := l,
    val := mapElems t (fun e =>
      if g.elemPoisoned t l e srcs then 0x48
      else relationWord ((fmtOf t).compare m.ftz (elem t (g.reg a.toNat l).val.toNat e) (elem t (g.reg b.toNat l).val.toNat e))),
    p := (List.range (elemCount t)).any (fun e => g.elemPoisoned t l e srcs) }

/-- FCMP (R145). -/
def execFcmp (l : Bool) (d a b : BitVec 8) (s : State) : Result :=
  .next (s.compute isFloat (fields3 d a b) noShadow l d.toNat a.toNat (fcmpOut a b))

/-! ### CVT (R154) -/

/-- The integer TYPE of a conversion kind (Table 5-11). -/
def kindInt (k : Nat) : Nat := match k with | 0 => 0 | 1 => 1 | 2 => 6 | 3 => 7 | 9 => 2 | 10 => 3 | 11 => 4 | _ => 5
/-- The format of a floating-point conversion kind; none for an integer kind. -/
def kindFmt (k : Nat) : Option Fmt :=
  match k with | 4 => some fp32 | 5 | 6 => some bf16 | 7 | 8 => some fp16 | _ => none
/-- Whether a kind lies in the high half. -/
def kindHigh (k : Nat) : Bool := k == 6 || k == 8
/-- Whether a kind is a pair. -/
def kindPair (k : Nat) : Bool := k == 2 || k == 3

/-- The source bits of a conversion kind in a lane. -/
def Gang.kindBits (g : Gang) (k r l : Nat) : Nat :=
  let v := g.operand (kindPair k) r l
  match kindFmt k with
  | some f => (if kindHigh k then v / 2 ^ 16 else v) % 2 ^ f.width
  | none => v % 2 ^ elemWidth (kindInt k)

/-- A conversion of source bits (R154), poison apart. -/
def convert (m : FMode) (src dst x : Nat) : Nat :=
  match kindFmt src, kindFmt dst with
  | some g, some f => g.convert f m x
  | none, some f => f.ofInt m (intValue (kindInt src) x)
  | some g, none =>
    let t := kindInt dst
    if g.isNan x then 0
    else if g.isInf x then wrap (elemWidth t) (if g.sign x then intMin t else intMax t)
    else wrap (elemWidth t) (clamp (intMin t) (intMax t) (g.toInt m x))
  | none, none => fit (kindInt dst) m.sat (intValue (kindInt src) x)

/-- The lane result of CVT (R154). -/
def cvtOut (d a : BitVec 8) (src dst : Nat) (g : Gang) (l : Nat) : LaneOut :=
  let m := (g.modeAt l).fmode
  let x := g.kindBits src a.toNat l
  let srcP := g.operandP (kindPair src) a.toNat l
  let pz := srcP || (match kindFmt src with | some f => f.isPoison x | none => false)
  let y := if pz then (match kindFmt dst with | some f => f.poison | none => 0) else convert m src dst x
  let old := g.reg d.toNat l
  { lane := l, pair := kindPair dst,
    val := if kindHigh dst then 2 ^ 16 * y + old.val.toNat % 2 ^ 16 else y,
    p := (kindHigh dst && old.p) || srcP || pz }

/-- What shadow units check of CVT: a floating-point destination (R136). -/
def cvtShadow (dst : Nat) : Shadow := fun _ o e =>
  if e = 0 then (kindFmt dst).map (fun f => (f, (if kindHigh dst then o.val / 2 ^ 16 else o.val) % 2 ^ f.width)) else none

/-- CVT (R154). -/
def execCvt (l : Bool) (d a : BitVec 8) (src dst : BitVec 4) (s : State) : Result :=
  .next (s.computeAs (cvtShadow dst.toNat)
    [{ code := 0, reg := d.toNat, count := if kindPair dst.toNat then 2 else 1 },
     { code := 1, reg := a.toNat, count := if kindPair src.toNat then 2 else 1 }]
    l d.toNat a.toNat (if kindPair src.toNat then 2 else 1) (cvtOut d a src.toNat dst.toNat))

/-! ### PACK2 (R155) -/

/-- The types of PACK2. -/
def packType (t : Nat) : Bool := t == 2 || t == 3 || t == 9 || t == 10

/-- An element of PACK2 with its poison under a floating-point type. -/
def packElem (m : Mode) (r : LaneVal) : Nat × Bool :=
  let x := r.val.toNat
  if isFloat m.type then
    if r.p || fp32.isPoison x then ((fmtOf m.type).poison, true) else (fp32.convert (fmtOf m.type) m.fmode x, false)
  else (fit m.type m.sat (intValue (if isSigned m.type then 0 else 1) x), false)

/-- The lane result of PACK2; P is that of the source registers alone (R155). -/
def packOut (a b : BitVec 8) (g : Gang) (l : Nat) : LaneOut :=
  let m := g.modeAt l
  let x := packElem m (g.reg a.toNat l)
  let y := packElem m (g.reg b.toNat l)
  { lane := l, val := x.1 + 2 ^ 16 * y.1, p := (g.reg a.toNat l).p || (g.reg b.toNat l).p }

/-- PACK2 (R155). -/
def execPack2 (l : Bool) (d a b : BitVec 8) (s : State) : Result :=
  .next (s.compute packType (fields3 d a b) typeShadow l d.toNat a.toNat (packOut a b))

end Sys2Proof.Machine
end

