-- ==== Sys2Proof/Machine/Atomics.lean ====
section
/-! DEFINITION. The arithmetic of atomics (R187, R188), which lanes and homes share. -/

namespace Sys2Proof.Machine

/-- KIND of an op word (Table 6-14). -/
def opKind (w : Nat) : Nat := bits w 5 4
/-- OP of an op word. -/
def opCode (w : Nat) : Nat := bits w 3 0

/-- Whether an op word is permitted for a size in bytes (Table 6-14). -/
def opWordOk (w n : Nat) : Bool :=
  bits w 31 6 == 0 && opCode w ≤ 8
  && !(2 ≤ opKind w && (n == 8 || !(opCode w ≤ 2 || opCode w == 6)))
  && !((opCode w == 7 || opCode w == 8) && opKind w != 1)

/-- A floating-point element of an atomic: add rounds RNE, min and max as R149, all without FTZ. -/
def atomFloat (f : Fmt) (op x y : Nat) : Nat :=
  match op with
  | 0 => f.add {} x y
  | 1 => f.min false x y
  | 2 => f.max false x y
  | _ => y

/-- The new value of an atomic on n bytes (R187). -/
def atomNew (w n old v : Nat) : Nat :=
  let width := 8 * n
  if opKind w = 2 then atomFloat fp32 (opCode w) old v
  else if opKind w = 3 then
    atomFloat bf16 (opCode w) (old % 2 ^ 16) (v % 2 ^ 16) + 2 ^ 16 * atomFloat bf16 (opCode w) (old / 2 ^ 16) (v / 2 ^ 16)
  else
    let num := fun (k : Nat) => if opKind w = 0 then signed width k else (k : Int)
    match opCode w with
    | 0 => (old + v) % 2 ^ width
    | 1 => if num v < num old then v else old
    | 2 => if num old < num v then v else old
    | 3 => old &&& v
    | 4 => old ||| v
    | 5 => old ^^^ v
    | 6 => v
    | 7 => if v ≤ old then 0 else old + 1
    | _ => if old = 0 ∨ v < old then v else old - 1

/-- What an atomic writes where its new value is poisoned: a floating-point kind writes the poison encoding. -/
def atomPoison (w new : Nat) : Nat :=
  if opKind w = 2 then fp32.poison else if opKind w = 3 then bf16.poison + 2 ^ 16 * bf16.poison else new

/-- The outcome of an atomic at its home: the value written where one is, its poison, and the old value with its mark
(R187, R188). -/
structure AtomOut where
  write : Option (Nat × Bool)
  old : Nat
  oldP : Bool
  deriving DecidableEq, Repr

/-- ATOM and ATOMNR on a location that holds old, marked or not (R187). -/
def atomAt (w n old : Nat) (marked : Bool) (v : Nat) (vP : Bool) : AtomOut :=
  let p := vP || (opCode w != 6 && marked)
  let new := atomNew w n old v
  { write := some (if p then atomPoison w new else new, p), old := old, oldP := marked }

/-- CAS on a location (R188); p: compare or new value poisoned. -/
def casAt (old : Nat) (marked : Bool) (cmp new : Nat) (p : Bool) : AtomOut :=
  { write := if !marked && !p && old == cmp then some (new, false) else none, old := old, oldP := marked || p }

end Sys2Proof.Machine
end

