-- ==== Sys2Proof/Machine/Barrier.lean ====
section
/-! DEFINITION. Barriers (R199-R206): the words of named and scope barriers, arrivals, phase completions, waits; what
a release waits for (Table 2-6); and the losses that a gang takes (R197). -/

namespace Sys2Proof.Machine

/-! ### Barrier words (Table 7-1) -/

/-- A barrier word. -/
structure BarWord where
  expect : Nat
  arrived : Nat
  err : Bool
  live : Bool
  scope : Nat
  phase : Nat
  deriving DecidableEq, Repr

/-- The bits of a barrier word. -/
def BarWord.toNat (w : BarWord) : Nat :=
  w.phase % 2 ^ 24 + 2 ^ 24 * (w.scope % 8) + 2 ^ 30 * ofBool w.live + 2 ^ 31 * ofBool w.err + 2 ^ 32 * (w.arrived % 2 ^ 16)
    + 2 ^ 48 * (w.expect % 2 ^ 16)

/-- The barrier word of 64 bits. -/
def barWordOf (n : Nat) : BarWord :=
  { expect := bits n 63 48, arrived := bits n 47 32, err := bit n 31, live := bit n 30, scope := bits n 26 24,
    phase := bits n 23 0 }

/-- A result word (Table 7-2): ERR and the number of the last completed phase. -/
def resultWord (err done : Bool) (phase : Nat) : Nat :=
  (phase + 2 ^ 24 - 1) % 2 ^ 24 + 2 ^ 30 * ofBool done + 2 ^ 31 * ofBool err

/-- The state word of a scope barrier at its home. -/
def State.scopeWord (s : State) (loc : Nat) : BarWord := barWordOf (s.dramNat loc 8)

/-- Writes a scope barrier's state at its home; no cache keeps an older copy, since a read returns the word's current
content (R203). -/
def State.putScope (loc : Nat) (w : BarWord) (s : State) : State :=
  (s.writeDram [{ at_ := loc, bytes := leBytes 8 w.toNat }] []).dropCopies (sectorOf loc)

/-- A named barrier of a context. -/
def State.namedBar (s : State) (c n : Nat) : NamedBar :=
  match s.ctxOf c with | some x => nthOr {} x.bars n | none => {}

/-- Changes a named barrier. -/
def State.modBar (c n : Nat) (f : NamedBar → NamedBar) (s : State) : State :=
  s.modCtx c (fun x => { x with bars := mapNth n f x.bars })

/-- The word of a named barrier; ARRIVED is always 0 in it. -/
def NamedBar.word (b : NamedBar) : BarWord :=
  { expect := b.expect, arrived := 0, err := b.err, live := true, scope := 0, phase := b.phase }

/-- Writes the bound word of a named barrier, where it has one (R203). -/
def State.writeBound (c n : Nat) (s : State) : State :=
  match (s.namedBar c n).bound with
  | some o => s.writeWindow c [{ at_ := o, bytes := leBytes 8 (s.namedBar c n).word.toNat }] []
  | none => s

/-- The number of a barrier's current phase. -/
def State.barPhase (s : State) (c : Nat) : BarName → Nat
  | .named n => (s.namedBar c n).phase
  | .scope loc => (s.scopeWord loc).phase

/-! ### Phase completion (R200) -/

/-- Whether a slice waits on a barrier. -/
def Slice.waitsOn (bar : BarName) (sl : Slice) : Bool :=
  match sl.st with | .waiting (.barrier b _ _ _) => b == bar | _ => false

/-- The sub-gangs of a context that wait on a barrier, as their return happenings. -/
def Ctx.barReturns (c : Nat) (bar : BarName) (x : Ctx) : List Instr :=
  (List.range x.gangs.length).flatMap (fun g =>
    (((x.gang g).which (Slice.waitsOn bar)).map (fun i => ((x.gang g).slice i).sub)).eraseDups.map
      (fun sub => .barrierWaitReturn c g sub))

/-- What a completed phase does in a context: marks are cleared, its watchdog count stops. -/
def Ctx.phaseDone (bar : BarName) (kind : WatchKind) (x : Ctx) : Ctx :=
  { x with
    gangs := x.gangs.map (fun g => { g with marks := g.marks.filter (fun m => m.1 != bar) }),
    watches := x.watches.filter (fun w => w.kind != kind) }

/-- Completes the current phase of a named barrier (R200). -/
def State.completeNamed (c n : Nat) (err : Bool) (s : State) : State :=
  let s1 := (s.modBar c n (fun b =>
    { b with phase := (b.phase + 1) % 2 ^ 24, arrived := 0, err := err || b.errNow, errNow := false, amask := 0,
             earr := 0 })).modCtx c (Ctx.phaseDone (.named n) (.named n))
  let s2 := { s1 with agenda := s1.agenda ++ (match s1.ctxOf c with | some x => x.barReturns c (.named n) | none => []) }
  s2.writeBound c n

/-- Completes the current phase of a scope barrier (R200). -/
def State.completeScope (loc : Nat) (err : Bool) (s : State) : State :=
  let w := s.scopeWord loc
  let s1 := { s with ctxs := s.ctxs.map (fun (e : Nat × Ctx) => (e.1, e.2.phaseDone (.scope loc) (.scope loc))) }
  let s2 := { s1 with agenda := s1.agenda ++ s1.ctxs.flatMap (fun (e : Nat × Ctx) => e.2.barReturns e.1 (.scope loc)) }
  s2.putScope loc { w with phase := (w.phase + 1) % 2 ^ 24, arrived := 0, err := err }

/-- An arrival at a named barrier (R200): of a gang, or of an engine command with the ERR of its status word. -/
def State.arriveNamed (c n : Nat) (gang : Option Nat) (err : Bool) (s : State) : State :=
  let b := s.namedBar c n
  let s1 := s.modBar c n (fun b =>
    { b with arrived := b.arrived + 1, errNow := b.errNow || err,
             amask := match gang with | some g => b.amask ||| 2 ^ g | none => b.amask,
             earr := match gang with | some _ => b.earr | none => b.earr + 1 })
  if b.expect ≤ b.arrived + 1 then s1.completeNamed c n false else s1

/-- An arrival of a gang at a scope barrier (R200). -/
def State.arriveScope (loc : Nat) (s : State) : State :=
  let w := s.scopeWord loc
  if w.expect ≤ w.arrived + 1 then s.completeScope loc false else s.putScope loc { w with arrived := w.arrived + 1 }

/-- Completes a phase at once with ERR (R205). DEDUCED, unsafe: log entry 53. -/
def State.forcePhase (c : Nat) (bar : BarName) (s : State) : State :=
  match bar with
  | .named n => s.completeNamed c n true
  | .scope loc => s.completeScope loc true

/-! ### A gang's arrival (R201, R202) -/

/-- The marks of a gang for a barrier. -/
def Gang.marksOf (g : Gang) (bar : BarName) : Nat := ((g.marks.find? (fun m => m.1 == bar)).map (·.2)).getD 0

/-- Sets the marks of a gang for a barrier. -/
def Gang.setMarks (bar : BarName) (v : Nat) (g : Gang) : Gang :=
  { g with marks := g.marks.filter (fun m => m.1 != bar) ++ [(bar, v)] }

/-- Whether a barrier name is a scope barrier's. -/
def BarName.isScope : BarName → Bool
  | .scope _ => true
  | .named _ => false

/-- Sets the arrival phase of a gang; it keeps one for scope barriers (R202). -/
def Gang.setPhase (bar : BarName) (p : Nat) (g : Gang) : Gang :=
  { g with phases := g.phases.filter (fun m => !(m.1 == bar || (m.1.isScope && bar.isScope))) ++ [(bar, p)] }

/-- Clears the arrival phase of a gang for a barrier. -/
def Gang.clearPhase (bar : BarName) (g : Gang) : Gang := { g with phases := g.phases.filter (fun m => m.1 != bar) }

/-- The phase that a wait of a gang names (R202). -/
def Gang.waitPhase (bar : BarName) (cur : Nat) (g : Gang) : Nat :=
  ((g.phases.find? (fun m => m.1 == bar)).map (·.2)).getD cur

/-- Counts a gang's arrival where every slice that has not exited is marked and it is not yet counted (R201). -/
def State.countArrival (c g : Nat) (bar : BarName) (s : State) : State :=
  let gg := ((s.ctxOf c).getD {}).gang g
  let m := gg.marksOf bar
  if m = 0 || bit m 8 || (gg.liveMask &&& m) != gg.liveMask then s
  else
    let s1 := s.modGang c g (fun y => (y.setMarks bar (m ||| 256)).setPhase bar (s.barPhase c bar))
    match bar with
    | .named n => s1.arriveNamed c n (some g) false
    | .scope loc => s1.arriveScope loc

/-- Arrivals that an exit completes (R201). -/
def State.exitArrivals (c g : Nat) (s : State) : State :=
  ((((s.ctxOf c).getD {}).gang g).marks.map (·.1)).foldl (fun t bar => t.countArrival c g bar) s

/-- The error flag of the last completed phase of a barrier. -/
def State.barErr (s : State) (c : Nat) : BarName → Bool
  | .named n => (s.namedBar c n).err
  | .scope loc => (s.scopeWord loc).err

/-- The watchdog count that a wait on a barrier starts. -/
def BarName.watch : BarName → WatchKind
  | .named n => .named n
  | .scope loc => .scope loc

/-- Starts a watchdog count where none of its kind runs (R209). DEDUCED, unsafe: log entry 22. -/
def State.startWatch (c g va : Nat) (kind : WatchKind) (s : State) : State :=
  s.modCtx c (fun x =>
    if x.watches.any (fun w => w.kind == kind) then x
    else { x with watches := x.watches ++ [{ kind := kind, since := s.cycle (dieOf x.core), gang := g, va := va }] })

/-- A wait of the issuing slices returns: it acquires, writes the result word as a scalar and clears the arrival phase
(R202, R207). DEDUCED, unsafe: log entry 53. -/
def State.returnWait (bar : BarName) (dest scope : Nat) (s : State) : State :=
  let c := s.issue.ctx
  let w := resultWord (s.barErr c bar) true (s.barPhase c bar)
  (((s.acquire s.cx.core scope).beforeRegs c s.issue.gang [dest]).modGg (fun g =>
    (g.clearPhase bar).setScalar dest s.issue.slices (BitVec.ofNat 32 w)))

/-- A wait of the issuing slices (R202): it returns at once where the phase it names has completed, and waits
otherwise; va: the address of a scope barrier. -/
def State.waitBar (bar : BarName) (va dest scope : Nat) (s : State) : State :=
  let c := s.issue.ctx
  let cur := s.barPhase c bar
  let p := s.gg.waitPhase bar cur
  if p != cur then (s.returnWait bar dest scope).endWord
  else (s.countWord.beginWait (.barrier bar p dest scope)).startWatch c s.issue.gang va bar.watch

/-- A test of the issuing slices (R202, R207): DONE for the phase that a wait would name. -/
def State.testBar (bar : BarName) (dest scope : Nat) (s : State) : State :=
  let c := s.issue.ctx
  let cur := s.barPhase c bar
  let done := s.gg.waitPhase bar cur != cur
  let s1 := if done then (s.acquire s.cx.core scope).modGg (fun g => g.clearPhase bar) else s
  ((s1.beforeRegs c s.issue.gang [dest]).modGg (fun g =>
    g.setScalar dest s.issue.slices (BitVec.ofNat 32 (resultWord (s.barErr c bar) done cur)))).endWord

/-- The issuing slices arrive at a barrier (R201); a slice already marked makes it a second arrival. -/
def State.arrive (bar : BarName) (s : State) : State :=
  let c := s.issue.ctx
  let m := s.gg.marksOf bar
  (s.modGg (fun g => g.setMarks bar (m ||| s.issue.slices))).countArrival c s.issue.gang bar

/-! ### What a release waits for, and losses -/

/-- Whether a write of slices of a gang is still out that a release at a scope waits for (Table 2-6). -/
def Gang.unacked (g : Gang) (slices scope : Nat) : Bool :=
  g.accesses.any (fun e =>
    (match e.2.kind with | .store | .atomic | .atomicNoResult => true | .load | .prefetch | .cctl => false)
    && (e.2.slices &&& slices) != 0
    && (e.2.home || (4 ≤ scope && e.2.remote.any (fun r => !r.done))))

/-- Takes the first loss that the gang knows of (R197). -/
def State.takeLost (slices : Nat) (s : State) : Option (State × FaultInfo) :=
  match s.gg.lost.find? (fun w => (w.slices &&& slices) != 0) with
  | some w =>
    some (s.modGg (fun g => { g with lost := g.lost.erase w }),
      { code := fRemoteWriteLost, lanes := w.lanes, addr := w.addr, detail0 := ofBool w.clobber })
  | none => none

/-- What the writes of slices of the issuing gang must be acknowledged for at a scope: the word waits, changing nothing,
until they are; then it goes on (Table 2-6). DESIGN CHOICE, safe: log entry 27. -/
def State.drainWrites (scope slices : Nat) (act : State → State) (s : State) : State :=
  if s.gg.unacked slices scope then s else act s

/-- A release at a scope on behalf of slices of the issuing gang: from pod on it takes a loss that is known (R197); then
it waits for its writes. DESIGN CHOICE, safe: log entry 27. -/
def State.released (scope slices : Nat) (act : State → State) (s : State) : State :=
  match (if 4 ≤ scope then s.takeLost slices else none) with
  | some (t, f) => t.raise f
  | none => s.drainWrites scope slices act

end Sys2Proof.Machine
end

