-- ==== Sys2Proof/Machine/Access.lean ====
section
/-! DEFINITION. The frame of the memory words: lane targets and the checks of R185, outstanding accesses with their
flags and pending registers (R68, R69), and the requests that lanes send to peers (R184, R197). -/

namespace Sys2Proof.Machine

/-! ### Lane targets (R163, R165, R178, R180, R185) -/

/-- What a lane's address names. -/
inductive Target where
  | window (o : Nat)
  | mem (p : Place)
  deriving DecidableEq, Repr

/-- Why a lane has no target: the item of Table 6-13, the code and both details. -/
structure LaneFail where
  item : Nat
  code : Nat
  detail0 : Nat := 0
  detail1 : Nat := 0
  deriving DecidableEq, Repr

/-- Size of a workgroup's scratchpad window (R178). -/
def Ctx.windowSize (x : Ctx) : Nat := x.scratch + 2304

/-- The permissions of an access as DETAIL1 has them (Table 7-14). -/
def Need.bits (n : Need) : Nat := ofBool n.r + 2 * ofBool n.w + 4 * ofBool n.x

/-- Translates an address for a lane. -/
def State.lanePlace (s : State) (va : Nat) (need : Need) : LaneFail ⊕ Target :=
  match s.translate s.cx.part va need with
  | .inl f => .inl { item := 7, code := f.code, detail0 := f.level, detail1 := need.bits }
  | .inr p => .inr (.mem p)

/-- The target of a global access of n bytes (R163, R165): a multiple of the alignment al. -/
def State.vaTarget (s : State) (va n al : Nat) (need : Need) : LaneFail ⊕ Target :=
  if windowBase ≤ va then
    let o := va - windowBase
    if s.cx.windowSize < o + n then .inl { item := 5, code := fScratchRange }
    else if aligned al o then .inr (.window o) else .inl { item := 6, code := fMisaligned }
  else if !translatedVa va then .inl { item := 5, code := fAddressRange }
  else if !aligned al va then .inl { item := 6, code := fMisaligned }
  else s.lanePlace va need

/-- The target of an access on the CONST path, which does not reach the window. -/
def State.constTarget (s : State) (va n : Nat) : LaneFail ⊕ Target :=
  if !translatedVa va then .inl { item := 5, code := fAddressRange }
  else if !aligned n va then .inl { item := 6, code := fMisaligned }
  else s.lanePlace va { r := true }

/-- The target of a scratchpad operand (Table 6-9): row mode, or an element of a tile in column mode (R180). -/
def State.scratchTarget (s : State) (v n : Nat) : LaneFail ⊕ Target :=
  let size := s.cx.windowSize
  let off := bits v 18 0
  let bad : LaneFail := { item := 5, code := fScratchRange }
  if bits v 30 19 != 0 then .inl bad
  else if bit v 31 then
    let base := 8192 * bits off 18 13
    if n != 2 || bit off 0 || size < base + 8192 then .inl bad
    else .inr (.window (base + 128 * bits off 6 1 + 2 * bits off 12 7))
  else if size < off + n then .inl bad
  else if aligned n off then .inr (.window off) else .inl { item := 6, code := fMisaligned }

/-- The fault of the lanes that have no target: the first item of Table 6-13 that some lane meets, with the lanes that
meet that fault and the address of the lowest. Where lanes meet the two codes of one item, the lowest lane's is raised.
DESIGN CHOICE, unsafe: log entry 68. -/
def targetFault (raw : Nat → Nat) (ts : List (Nat × (LaneFail ⊕ Target))) : Option FaultInfo :=
  let fails := ts.filterMap (fun e => match e.2 with | .inl f => some (e.1, f) | .inr _ => none)
  let least := leastOr 0 (fails.map (·.2.item))
  match fails.filter (fun e => e.2.item == least) with
  | (l, f) :: _ =>
    some { code := f.code, lanes := maskOf ((fails.filter (fun e => e.2.code == f.code && e.2.item == least)).map (·.1)),
           addr := raw l, detail0 := f.detail0, detail1 := f.detail1 }
  | [] => none

/-- The lanes that have a target. -/
def reached (ts : List (Nat × (LaneFail ⊕ Target))) : List (Nat × Target) :=
  ts.filterMap (fun e => match e.2 with | .inr t => some (e.1, t) | .inl _ => none)

/-- A fault of the lanes that a test names. DEDUCED, unsafe: log entry 53. -/
def lanesFault (code : Nat) (raw : Nat → Nat) (ls : List Nat) : Option FaultInfo :=
  match ls with
  | l :: _ => some { code := code, lanes := maskOf ls, addr := raw l }
  | [] => none

/-- The enabled lanes whose address registers are poisoned (R185 item 2). -/
def State.poisonedLanes (s : State) (rs : List Nat) : List Nat :=
  s.enabledLanes.filter (fun l => rs.any (fun r => (s.gg.reg r l).p))

/-- Whether a target of n bytes lies on a live barrier word (R204). -/
def State.onBarrier (s : State) (n : Nat) : Target → Bool
  | .window o => s.cx.boundWords o n != []
  | .mem p => homeOf p.loc == .package && s.scopeWords p.loc n != []

/-- Whether a target is homed at a peer. -/
def Target.atPeer : Target → Bool
  | .mem p => homeOf p.loc == .fabric
  | .window _ => false

/-- Whether flag B counts a target (R68). -/
def Target.countsB : Target → Bool
  | .mem p => homeOf p.loc != .package
  | .window _ => false

/-- Whether a target is homed on a sys port. -/
def Target.atSys : Target → Bool
  | .mem p => homeOf p.loc == .sys
  | .window _ => false

/-- Whether semantics include an acquire (Table 2-1). -/
def semAcquires (sem : BitVec 3) : Bool := sem == 1 || sem == 3 || sem == 4
/-- Whether semantics include a release. -/
def semReleases (sem : BitVec 3) : Bool := sem == 2 || sem == 3 || sem == 4

/-! ### Outstanding accesses (R67-R69) -/

/-- Whether what flag B counts of an access is done. -/
def Access.doneB (a : Access) : Bool := a.remote.all (·.done) && (!a.nearB || !a.home)

/-- Whether an access is done in every lane. -/
def Access.done (a : Access) : Bool := !a.home && a.remote.all (·.done)

/-- Removes a completed access from the flags that count it (R67). -/
def Gang.settleFlags (k : Nat) (a : Access) (g : Gang) : Gang :=
  let b := if a.doneB then a.flagB else none
  let f := if a.home then none else a.flagA
  { (g.uncountFlag f 0).uncountFlag b 0 with
    accesses := Tab.update k (fun x => { x with
      flagA := if a.home then x.flagA else none, flagB := if a.doneB then none else x.flagB }) g.accesses }

/-- Writes results of an access to the lanes of its slices that have not exited (R115), one or two registers each. -/
def Gang.writeLanes (a : Access) (rs : List LaneResult) (g : Gang) : Gang :=
  Gang.putOuts a.dest ((rs.filter (fun r => (g.slice (sliceOfLane r.lane)).live)).map (fun r =>
    { lane := r.lane, val := r.value, p := r.p, pair := a.width == 2 })) g

/-- Results of an access have come: they stand in their lanes before any flag is told (R68). -/
def State.giveLanes (c g : Nat) (a : Access) (rs : List LaneResult) (s : State) : State :=
  if rs.isEmpty then s
  else (s.beforeRegs c g ((List.range a.width).map (fun i => a.dest + i))).modGang c g (Gang.writeLanes a rs)

/-- An access that is done in every lane is gone, and its registers are available (R69). -/
def Gang.dropAccess (k : Nat) (a : Access) (g : Gang) : Gang :=
  { g with accesses := Tab.drop k g.accesses, pend := g.pend.filter (fun r => r < a.dest || a.dest + a.width ≤ r) }

/-- Completes what is complete of an access: its results are written, then its flags are told, and at the end it is
gone (R67-R69). -/
def State.settleAccess (c g k : Nat) (s : State) : State :=
  match s.ctxOf c with
  | none => s
  | some x =>
    match Tab.find k (x.gang g).accesses with
    | none => s
    | some a =>
      let s0 := if a.home then s
        else (s.giveLanes c g a a.results).modGang c g (fun y =>
          { y with accesses := Tab.update k (fun z => { z with results := [] }) y.accesses })
      let s1 := s0.modGang c g (Gang.settleFlags k a)
      let s2 :=
        if a.done then
          let s3 := if a.acquire && a.remote != [] then s1.acquire x.core a.scope else s1
          s3.modGang c g (Gang.dropAccess k a)
        else s1
      s2.modGang c g Gang.wakeFlags

/-- Notes the loss of a remote store's lanes, in one record per instruction and cause. -/
def Gang.noteLoss (k : Nat) (a : Access) (lanes : List Nat) (clobber : Bool) (g : Gang) : Gang :=
  let va := fun (m : Nat) => ((a.vas.find? (fun e => bit m e.1)).map (·.2)).getD 0
  if g.lost.any (fun w => w.access == k && w.clobber == clobber) then
    { g with lost := g.lost.map (fun w =>
        if w.access == k && w.clobber == clobber then
          { w with lanes := w.lanes ||| maskOf lanes, addr := va (w.lanes ||| maskOf lanes) } else w) }
  else
    { g with lost := g.lost ++ [{ access := k, slices := a.slices, addr := va (maskOf lanes), lanes := maskOf lanes, clobber := clobber,
                                  flagB := a.lossB }] }

/-- Whether an access writes without a result, so that its loss is a fault. -/
def Access.silent (a : Access) : Bool := a.kind == .store || a.kind == .atomicNoResult

/-- The losses of an access whose requests found no route. -/
def State.lossesAtOnce (k : Nat) (s : State) : State :=
  match Tab.find k s.gg.accesses with
  | some a =>
    let ls := (a.remote.filter (·.failed)).flatMap (fun r => r.lanes.map (·.1))
    if a.silent && ls != [] then s.modGg (Gang.noteLoss k a ls false) else s
  | none => s

/-- Enters a new access of the issuing gang: its registers are pending and its flags count it (R68, R69). -/
def State.openAccess (a : Access) (countA countB : Bool) (s : State) : State :=
  let (fa, fb) := s.clauseFlags
  let a1 := { a with flagA := if countA then fa else none, flagB := if countB then fb else none,
                     lossB := if countB then fb else none }
  let s1 := s.modGg (fun g =>
    let g1 := (g.countFlag a1.flagA).countFlag a1.flagB
    { g1 with
      accesses := Tab.set g.nextAccess a1 g1.accesses, nextAccess := g.nextAccess + 1,
      pend := (List.range a.width).foldl (fun p i => NatSet.add (a.dest + i) p) g1.pend })
  (s1.lossesAtOnce s.gg.nextAccess).settleAccess s.issue.ctx s.issue.gang s.gg.nextAccess

/-! ### Requests to peers (R184) -/

/-- A request of lanes: its location, its bytes, its lanes with their offsets, kind and payload. -/
structure Ask where
  loc : Nat
  len : Nat
  lanes : List (Nat × Nat)
  kind : Nat
  payload : List Byte
  cache : Nat := 2
  deriving DecidableEq, Repr

/-- Sends the requests of an access that is about to be entered; one to which no route leads is lost at once (R352). -/
def State.askAll (k : Nat) : List Ask → State → List RemotePart × State
  | [], s => ([], s)
  | q :: t, s =>
    let use := TagUse.lanes s.issue.ctx s.issue.gang k
    match s.routeOf s.cx.part q.loc with
    | none =>
      let (ps, s1) := State.askAll k t { s with lostCount := s.lostCount + 1 }
      ({ port := 64, tag := 0, addr := q.loc, len := q.len, lanes := q.lanes, cache := q.cache, done := true, failed := true } :: ps, s1)
    | some r =>
      let (tag, s1) := s.request r use q.kind 0 q.payload
      let (ps, s2) := State.askAll k t s1
      ({ port := r.port, tag := tag, addr := q.loc, len := q.len, lanes := q.lanes, cache := q.cache } :: ps, s2)

/-- Whether the functions of a partition have tags for n more requests (R354). -/
def State.tagRoom (s : State) (n : Nat) : Bool :=
  match s.vfOf s.cx.part with | some v => s.outOf v + n ≤ 4096 | none => true

/-- A lane's location at a peer and the CACHE field of its page. -/
structure AwayLane where
  lane : Nat
  loc : Nat
  cache : Nat
  deriving DecidableEq, Repr

/-- The read requests of lanes of n bytes at fabric locations (R184): per 256-byte block from the first touched byte
rounded down to a multiple of 32 to the last touched byte, in two requests where that exceeds 208 bytes. -/
def readAsks (n : Nat) (ls : List AwayLane) : List Ask :=
  ((ls.map (fun e => e.loc / 256)).eraseDups).flatMap (fun blk =>
    let mine := ls.filter (fun e => e.loc / 256 == blk)
    let lo := 32 * ((leastOr 0 (mine.map (·.loc))) / 32)
    let hi := (mine.map (·.loc)).foldl Nat.max 0 + n
    let part (a len : Nat) : Ask :=
      { loc := a, len := len, kind := 2, payload := memPayload (peerOf a).2 len 0 0 [],
        cache := leastOr 2 (mine.map (·.cache)),
        lanes := (mine.filter (fun e => a ≤ e.loc && e.loc < a + len)).map (fun e => (e.lane, e.loc - a)) }
    if hi - lo ≤ 208 then [part lo (hi - lo)] else [part lo 192, part (lo + 192) (hi - lo - 192)])

/-- A byte that a lane writes at a location. -/
structure LaneByte where
  loc : Nat
  lane : Nat
  val : Byte
  p : Bool
  deriving DecidableEq, Repr

/-- The last byte that a list writes at each location, by rising location; it is poisoned where any lane that writes
there is (R177). -/
def lastBytes (bs : List LaneByte) : Tab LaneByte :=
  bs.foldl (fun t b => Tab.set b.loc { b with p := b.p || (Tab.find b.loc t).any (·.p) } t) []

/-- Cuts bytes by rising location into runs of consecutive bytes inside one 256-byte block, at most 208 each; `cur` is
the run being built, last byte first. -/
def cutRuns : List LaneByte → List LaneByte → List (List LaneByte)
  | [], [] => []
  | cur, [] => [cur.reverse]
  | [], b :: t => cutRuns [b] t
  | c :: cur, b :: t =>
    if b.loc = c.loc + 1 && b.loc % 256 != 0 && cur.length + 1 < 208 then cutRuns (b :: c :: cur) t
    else (c :: cur).reverse :: cutRuns [b] t

/-- The poison byte of a flit's data: bit i for bytes 32i to 32i+31. -/
def pmOf (ps : List Bool) : Nat :=
  maskOf ((List.range 8).filter (fun i => ((ps.drop (32 * i)).take 32).any id))

/-- The write requests of lanes' bytes at fabric locations (R184). -/
def writeAsks (bs : List LaneByte) : List Ask :=
  (cutRuns [] ((lastBytes bs).map (·.2))).map (fun run =>
    let a := match run with | b :: _ => b.loc | [] => 0
    { loc := a, len := run.length, kind := 1,
      lanes := ((bs.filter (fun b => a ≤ b.loc && b.loc < a + run.length)).map (·.lane)).eraseDups.map (fun l => (l, 0)),
      payload := memPayload (peerOf a).2 run.length (pmOf (run.map (·.p))) 0 (run.map (·.val)) })

/-! ### Answers from peers (R197, R204, R354) -/

/-- Marks the part of an access that a port and tag name as done. -/
def Access.answer (port tag : Nat) (failed : Bool) (a : Access) : Access :=
  { a with
    remote := a.remote.map (fun r => if r.port == port && r.tag == tag && !r.done then { r with done := true, failed := failed } else r) }

/-- A remote part of an access is done: what rs gives its lanes stands in their registers, or its loss is noted. -/
def State.answerPart (c g k port tag : Nat) (rs : List LaneResult) (failed clobber : Bool) (s : State) : State :=
  match Tab.find k (((s.ctxOf c).getD {}).gang g).accesses with
  | none => s
  | some a =>
    let ls := (a.remote.filter (fun r => r.port == port && r.tag == tag && !r.done)).flatMap (fun r => r.lanes.map (·.1))
    let s1 := (s.giveLanes c g a rs).modGang c g (fun y =>
      { y with accesses := Tab.update k (Access.answer port tag failed) y.accesses })
    let s2 := if failed && (a.silent || clobber) then s1.modGang c g (Gang.noteLoss k a ls clobber) else s1
    let s3 := if failed then { s2 with lostCount := s2.lostCount + 1 } else s2
    s3.settleAccess c g k

/-- The part of an access that a port and tag name. -/
def State.partOf (s : State) (c g k port tag : Nat) : Option (Access × RemotePart) :=
  match Tab.find k (((s.ctxOf c).getD {}).gang g).accesses with
  | none => none
  | some a => (a.remote.find? (fun r => r.port == port && r.tag == tag && !r.done)).map (fun r => (a, r))

/-- Completes a lanes' part as lost (R197): data 0 with P set, or the loss of a store. -/
def State.losePart (c g k port tag : Nat) (s : State) : State :=
  match s.partOf c g k port tag with
  | none => s
  | some (a, r) =>
    let rs := if a.silent then [] else r.lanes.map (fun e => ({ lane := e.1, value := 0, p := true } : LaneResult))
    s.answerPart c g k port tag rs true false

/-! ### LOAD_COMPLETION and STORE_ACKNOWLEDGEMENT -/

/-- Completes the part of an access that is homed in the package, the window or on a sys port, where its kind is one
that a test names. -/
def State.homeDone (c g k : Nat) (test : AccKind → Bool) (s : State) : State :=
  match Tab.find k (((s.ctxOf c).getD {}).gang g).accesses with
  | none => s
  | some a =>
    if a.home && test a.kind then
      (s.modGang c g (fun y => { y with accesses := Tab.update k (fun z => { z with home := false }) y.accesses })).settleAccess
        c g k
    else s

/-- Whether the happening that completes an access's home part is a load's. -/
def AccKind.loads : AccKind → Bool
  | .load | .atomic | .prefetch => true
  | .store | .atomicNoResult | .cctl => false

/-- STORE_ACKNOWLEDGEMENT (R68): a store is acknowledged at its scope. -/
def execStoreAcknowledgement (ctx gang access : Nat) (s : State) : Result :=
  .next (s.homeDone ctx gang access (fun k => !k.loads))

end Sys2Proof.Machine
end

