-- ==== Sys2Proof/Machine/Stream.lean ====
section
/-! DEFINITION. The words of the stream, the mode, the guard, staging and the mask group (R75-R78, R101, R104). -/

namespace Sys2Proof.Machine

/-- NOP (R75): no effect. -/
def execNop (s : State) : Result := .next s.endWord

/-- MODE (R77): the mode register of every issuing slice. -/
def execMode (imm : BitVec 16) (s : State) : Result :=
  .next (s.modGg (fun g => g.modSlices s.issue.slices (fun _ sl => { sl with mode := imm }))).endWord

/-- Four lane bits of a slice from a test of its lanes. -/
def laneBits (i : Nat) (f : Nat → Bool) : BitVec 4 :=
  BitVec.ofNat 4 (maskOf ((List.range 4).filter (fun b => f (4 * i + b))))

/-- The lanes of the issuing slices that a test names and whose register is poisoned (R224). -/
def State.poisonFault (r : Nat) (test : Nat → Bool) (s : State) : Option FaultInfo :=
  let bad := (lanesOf s.issue.slices).filter (fun l => test l && (s.gg.reg r l).p)
  if bad = [] then none else some { code := fPoisonControl, lanes := maskOf bad, detail0 := r }

/-- GUARD with a register (R78). -/
def State.guard (l : Bool) (a : BitVec 8) (sense : Bool) (s : State) : State :=
  let g := s.gg
  s.checked (firstFault [s.regRange [{ code := 1, reg := a.toNat, isElem := false }] false,
      s.poisonFault a.toNat g.am])
    (fun t => (t.modGg (fun y => y.modSlices s.issue.slices (fun i sl =>
      { sl with guard := laneBits i (fun k => g.am k && (g.reg a.toNat k).val.getLsbD 0), sense := sense }))).endWordL
      l a.toNat 1)

/-- GUARD va, 0 (R78). -/
def execGuard (l : Bool) (a : BitVec 8) (s : State) : Result := .next (s.guard l a false)
/-- GUARD va, 1 (R78). -/
def execGuardInverted (l : Bool) (a : BitVec 8) (s : State) : Result := .next (s.guard l a true)
/-- GUARD off (R78). -/
def execGuardOff (s : State) : Result :=
  .next (s.modGg (fun g => g.modSlices s.issue.slices (fun _ sl => { sl with guard := 0xF, sense := false }))).endWord

/-- STAGE (R101): the staging buffer names va to va+n-1 and nothing else. -/
def execStage (a n : BitVec 8) (s : State) : Result :=
  let last := a.toNat + n.toNat - 1
  .next (s.checked (faultIf (255 < last || s.cx.regsN ≤ last) { code := fRegRange, detail0 := last, detail1 := 1 })
    (fun t => (t.modGg (fun g => { g with staging := (List.range n.toNat).map (fun i => a.toNat + i) })).endWord))

/-! ### The mask group (R104) -/

/-- The active lanes of the issuing slices. -/
def State.activeLanes (s : State) : List Nat := (lanesOf s.issue.slices).filter s.gg.am

/-- A mask word that writes am from bit 0 of va: f of the old bit and the operand bit; tested: the lanes whose poison
raises. -/
def State.maskFrom (l : Bool) (a : BitVec 8) (tested : Bool → Bool) (f : Bool → Bool → Bool) (s : State) : State :=
  let g := s.gg
  s.checked (firstFault [s.regRange [{ code := 1, reg := a.toNat, isElem := false }] false,
      s.poisonFault a.toNat (fun k => tested (g.am k))])
    (fun t => (t.modGg (fun y => y.modSlices s.issue.slices (fun i sl =>
      { sl with am := laneBits i (fun k => f (g.am k) ((g.reg a.toNat k).val.getLsbD 0)) }))).endWordL l a.toNat 1)

/-- A mask word that writes vd in every lane of the issuing slices, P clear. -/
def State.maskTo (d : BitVec 8) (f : Nat → Word) (s : State) : State :=
  s.checked (s.regRange [{ code := 0, reg := d.toNat, isElem := false }] false)
    (fun t => ((t.beforeRegs t.issue.ctx t.issue.gang [d.toNat]).modGg (fun g =>
      g.setLanes d.toNat ((lanesOf s.issue.slices).map (fun k => (k, { val := f k }))))).endWord)

/-- MSAVE (Table 4-4). -/
def execMsave (d : BitVec 8) (s : State) : Result :=
  .next (s.maskTo d (fun k => if s.gg.am k then 1 else 0))
/-- MLOAD (Table 4-4). -/
def execMload (l : Bool) (a : BitVec 8) (s : State) : Result := .next (s.maskFrom l a (fun _ => true) (fun _ b => b))
/-- MAND (Table 4-4). -/
def execMand (l : Bool) (a : BitVec 8) (s : State) : Result := .next (s.maskFrom l a (fun m => m) (fun m b => m && b))
/-- MANDN (Table 4-4). -/
def execMandn (l : Bool) (a : BitVec 8) (s : State) : Result := .next (s.maskFrom l a (fun m => m) (fun m b => m && !b))
/-- MOR (Table 4-4). -/
def execMor (l : Bool) (a : BitVec 8) (s : State) : Result := .next (s.maskFrom l a (fun m => !m) (fun m b => m || b))
/-- MSET (Table 4-4). -/
def execMset (s : State) : Result :=
  .next (s.modGg (fun g => g.modSlices s.issue.slices (fun _ sl => { sl with am := 0xF }))).endWord
/-- MPOP (Table 4-4). -/
def execMpop (d : BitVec 8) (s : State) : Result :=
  .next (s.maskTo d (fun _ => BitVec.ofNat 32 s.activeLanes.length))
/-- MFIRST (Table 4-4). -/
def execMfirst (d : BitVec 8) (s : State) : Result :=
  .next (s.maskTo d (fun _ => match s.activeLanes with | k :: _ => BitVec.ofNat 32 k | [] => 0xFFFFFFFF))

end Sys2Proof.Machine
end

