-- ==== Sys2Proof/Machine/Control.lean ====
section
/-! DEFINITION. Clause headers (R62-R67), branches and calls (R105-R108), reconvergence (R109-R113), exit and yield
(R115, R116), the quantum (R95) and the gathering limit (R117). -/

namespace Sys2Proof.Machine

/-! ### Faults that a gang takes at a wait or an exit (R197, R266) -/

/-- The fault of a conversion (Table 10-5). -/
def ConvFault.info (f : ConvFault) : FaultInfo := { code := f.code, detail0 := f.detail0, detail1 := f.detail1 }

/-- The conversion fault of lowest sequence number among those that a test names. -/
def firstConv (test : ConvFault → Bool) (fs : List ConvFault) : Option ConvFault :=
  (fs.filter test).foldl (fun o f => match o with
    | some g => if f.seq < g.seq then some f else some g
    | none => some f) none

/-- Takes a conversion fault that a test names. -/
def State.takeConv (test : ConvFault → Bool) (s : State) : Option (State × FaultInfo) :=
  (firstConv test s.gg.faulted).map (fun f =>
    (s.modGg (fun g => { g with faulted := g.faulted.filter (fun k => k != f) }), f.info))

/-- Takes the loss of a store that was counted against a flag of a wait mask (R197). -/
def State.takeLostOn (wait : List Nat) (s : State) : Option (State × FaultInfo) :=
  match s.gg.lost.filter (fun w => match w.flagB with | some b => wait.contains b | none => false) with
  | w :: _ =>
    some (s.modGg (fun g => { g with lost := g.lost.filter (fun k => k != w) }),
      { code := fRemoteWriteLost, lanes := w.lanes, addr := w.addr, detail0 := ofBool w.clobber })
  | [] => none

/-! ### The clause header (R62, R67, R197, R266) -/

/-- A header whose wait is met: the acquires of the flags it names (R44), its flags armed, its first word next. -/
def State.enterClause (wait : BitVec 12) (fa fb : BitVec 4) (s : State) : State :=
  let scope := ((waitFlags wait).map (fun i => (nthOr {} s.gg.flags i).scope)).foldl Nat.max 0
  let arm := fun (f : BitVec 4) (no : Nat) (g : Gang) => match flagField f.toNat with | some i => g.armFlag no i | none => g
  (s.acquire s.cx.core scope).modGg (fun g =>
    let no := g.clauses + 1
    (arm fb no (arm fa no { g with clauses := no })).modSlices s.issue.slices (fun _ sl =>
      { sl with pc := s.issue.pc + 4, widx := 1, clauseNo := no, fell := none, yieldAsk := .no }))

/-- CLAUSE_HEADER (R62): a header whose clause has been fetched and holds no undefined encoding waits for its flags,
arms its own and starts its words; before that it takes a loss or a conversion fault of a flag it waits on. A conversion
fault is taken once every flag of WAIT is set. DESIGN CHOICE, unsafe: log entry 89. -/
def execClauseHeader (wait : BitVec 12) (fa fb : BitVec 4) (_len : BitVec 5) (s : State) : Result :=
  .next (
    match s.takeLostOn (waitFlags wait) with
    | some (t, f) => t.raise f
    | none =>
      if s.gg.waitDone wait then
        match s.takeConv (fun f => (waitFlags wait).contains f.flag) with
        | some (t, f) => t.raise f
        | none => s.enterClause wait fa fb
      else s.beginWait .flags)

/-! ### Branches and calls -/

/-- A branch target (R63). -/
def State.target (s : State) (w o : Nat) : Nat := wrap 64 ((s.issue.pc : Int) + 4 * signed w o)

/-- One taken destination for every issuing slice. -/
def State.allTo (s : State) (pc : Nat) : List Dest := s.issuing.map (fun i => { slice := i, pc := pc, taken := true })

/-- BRA (R105). -/
def execBra (o : BitVec 24) (s : State) : Result := .next (s.transfer (s.allTo (s.target 24 o.toNat)))

/-- The issuing slices whose return stack a test names. -/
def State.stacked (s : State) (test : Nat → Bool) : List Nat :=
  s.issuing.filter (fun i => test (s.gg.slice i).returns.length)

/-- CALL_DEPTH (R106, Table 8-2). -/
def State.callFault (s : State) (bad : List Nat) (under : Nat) : Option FaultInfo :=
  if bad = [] then none
  else some { code := fCallDepth, lanes := maskOf (lanesOf s.issue.slices), detail0 := under, detail1 := maskOf bad }

/-- CALL (R106). -/
def execCall (o : BitVec 24) (s : State) : Result :=
  .next (s.checked (s.callFault (s.stacked (fun n => Config.returnDepth ≤ n)) 0)
    (fun t => t.transferWith (fun g => g.modSlices s.issue.slices (fun _ sl =>
      { sl with returns := (s.issue.pc + 4) :: sl.returns })) (s.allTo (s.target 24 o.toNat))))

/-- RET (R106). -/
def execRet (s : State) : Result :=
  .next (s.checked (s.callFault (s.stacked (fun n => n == 0)) 1)
    (fun t => t.transferWith (fun g => g.modSlices s.issue.slices (fun _ sl => { sl with returns := sl.returns.tail }))
      (s.issuing.map (fun i => { slice := i, pc := nthOr 0 (s.gg.slice i).returns 0, taken := true }))))

/-- The destinations of a per-slice branch (R107). -/
def State.branchDests (s : State) (o : BitVec 16) (take : Nat → Bool) : List Dest :=
  s.issuing.map (fun i =>
    { slice := i, pc := if take i then s.target 16 o.toNat else s.issue.pc + 4, taken := take i })

/-- Whether a branch on a mask is taken by a slice. -/
def takesMask (op : Bool) (g : Gang) (i : Nat) : Bool := ((g.slice i).am == 0) == op

/-- The enabled lanes of a slice (R107). -/
def Gang.enabledOf (g : Gang) (i : Nat) : List Nat :=
  ((List.range 4).map (fun b => 4 * i + b)).filter g.enabled

/-- Whether BANY is taken by a slice. -/
def takesAny (c : Nat) (g : Gang) (i : Nat) : Bool := (g.enabledOf i).any (fun l => (g.reg c l).val.getLsbD 0)
/-- Whether BALL is taken by a slice. -/
def takesAll (c : Nat) (g : Gang) (i : Nat) : Bool := (g.enabledOf i).all (fun l => (g.reg c l).val.getLsbD 0)

/-- BZM (R107). -/
def execBzm (o : BitVec 16) (s : State) : Result := .next (s.transfer (s.branchDests o (takesMask true s.gg)))
/-- BNZM (R107). -/
def execBnzm (o : BitVec 16) (s : State) : Result := .next (s.transfer (s.branchDests o (takesMask false s.gg)))

/-- A branch on a register (R107). -/
def State.branchOn (take : Nat → Gang → Nat → Bool) (l : Bool) (c : BitVec 8) (o : BitVec 16) (s : State) : State :=
  s.checked (firstFault [s.regRange [{ code := 0, reg := c.toNat, isElem := false }] false,
      s.poisonFault c.toNat s.gg.enabled])
    (fun t =>
      t.transferWith (Gang.unstage l c.toNat 1) (s.branchDests o (take c.toNat s.gg)))

/-- BANY (R107). -/
def execBany (l : Bool) (c : BitVec 8) (o : BitVec 16) (s : State) : Result := .next (s.branchOn takesAny l c o)
/-- BALL (R107). -/
def execBall (l : Bool) (c : BitVec 8) (o : BitVec 16) (s : State) : Result := .next (s.branchOn takesAll l c o)

/-! ### Indirect jumps (R112, R113) -/

/-- The checks of JTX in the order of R112. -/
def State.jtxFault (s : State) (x t token count : Nat) : Option FaultInfo :=
  let on := s.enabledLanes
  let bad := on.filter (fun l => count ≤ (s.gg.reg x l).val.toNat)
  firstFault [
    s.regRange [{ code := 0, reg := x, isElem := false }] false,
    s.poisonFault x s.gg.enabled,
    match bad with
    | l :: _ => some { code := fJtabRange, lanes := maskOf bad, detail0 := (s.gg.reg x l).val.toNat,
                       detail1 := t * 2 ^ 16 + count }
    | [] => none,
    match s.gg.frames with
    | f :: _ => faultIf (token ≤ f.token) { code := fTokenOrder, lanes := maskOf on, detail0 := token, detail1 := f.token }
    | [] => none,
    faultIf (Config.frameDepth ≤ s.gg.frames.length)
      { code := fJtabDepth, lanes := maskOf on, detail0 := t, detail1 := s.gg.frames.length }]

/-- The frame that JTX opens. -/
def State.newFrame (s : State) (x t token join : Nat) (targets : List Nat) (left : List Nat) : Frame :=
  { token := token, join := join, table := t, targets := targets,
    saved := s.issuing.map (fun i => (i, (s.gg.slice i).am)),
    sel := s.enabledLanes.map (fun l => (l, (s.gg.reg x l).val.toNat)),
    left := left, group := none, hdr := s.issue.hdr, pc := s.issue.pc, widx := s.issue.widx }

/-- JTX with an enabled lane opens a frame and starts its first group (R112, R113); a first target that is no header
raises at the JTX, and no lane moves (R63). -/
def State.openFrame (l : Bool) (x t token join : Nat) (targets : List Nat) (k : Nat) (left : List Nat) (s : State) : State :=
  let f := s.newFrame x t token join targets left
  let target := nthOr 0 targets k
  s.onCode s.cx target (fun u =>
    match u.notHeader u.cx target with
    | some _ =>
      u.raise { code := fIllegalEncoding, lanes := maskOf ((f.sel.filter (fun e => e.2 == k)).map (·.1)), addr := target,
                detail0 := k, detail1 := t * 2 ^ 16 + targets.length }
    | none =>
      let no := u.clauseNo
      let on := (f.saved.map (·.1)).filter (fun i => f.sel.any (fun e => e.2 == k && sliceOfLane e.1 == i))
      ((u.unstage l x 1).countWord.modGg (fun g =>
        let g1 := Gang.startGroup f k target left { g.closeFlags no with frames := f :: g.frames }
        (g1.modSlices u.issue.slices (fun _ sl => { sl with yieldAsk := .no })).keepTurn on)).yieldNow u.yieldAsk u.hasTurn
          (leastOr 0 on))

/-- JTX (R112). -/
def execJtx (l : Bool) (x t : BitVec 8) (s : State) : Result :=
  let (token, join, targets) := nthOr (0, 0, []) s.cx.jtabs t.toNat
  let groups := (List.range targets.length).filter (fun i =>
    s.enabledLanes.any (fun k => (s.gg.reg x.toNat k).val.toNat == i))
  .next (s.checked (s.jtxFault x.toNat t.toNat token targets.length)
    (fun u => match groups with
      | k :: left => u.openFrame l x.toNat t.toNat token join targets k left
      | [] => u.transferWith (Gang.unstage l x.toNat 1) (u.allTo join)))

/-! ### REGANG, EXIT, YIELD -/

/-- REGANG (R109): the issuing slices park under the token at the following header, which is first asked for where it is
still at a peer. Its token is compared with that of the innermost frame whose group holds the slices; the fault's
record names the token of the innermost open frame (Table 8-2). -/
def execRegang (t : BitVec 3) (s : State) : Result :=
  let here := s.issue.pc + 4
  let inner := s.gg.frames.find? (fun f => s.issuing.any f.holds)
  let order := match inner with
    | some f => faultIf (t.toNat ≤ f.token)
        { code := fTokenOrder, lanes := maskOf s.enabledLanes, detail0 := t.toNat,
          detail1 := ((s.gg.frames.head?).map (·.token)).getD 0 }
    | none => none
  .next (s.checked order (fun v => v.onCode v.cx here (fun u =>
    match u.badTargets (u.allTo here) with
    | (d, w) :: _ => u.raise { code := fIllegalEncoding, addr := d.pc, detail0 := w.toNat, detail1 := u.issue.slices }
    | [] =>
      let no := u.clauseNo
      (u.countWord.modGg (fun g => (g.closeFlags no).modSlices u.issue.slices (fun _ sl =>
        { sl with st := .parked t.toNat, pc := here, widx := 0, clause := [], yieldAsk := .no }))).yieldNow u.yieldAsk
          u.hasTurn (leastOr 0 u.issuing))))

/-- Whether the issuing slices are the last of their gang. -/
def State.lastExit (s : State) : Bool := (s.gg.liveMask &&& s.issue.slices) == s.gg.liveMask

/-- Whether a remote store or ATOMNR lane of the gang is still without its remote completion (R115). -/
def Gang.remoteOut (g : Gang) : Bool :=
  g.accesses.any (fun e => (e.2.kind == .store || e.2.kind == .atomicNoResult) && e.2.remote.any (fun r => !r.done))

/-- Whether every gang of a context has ended. -/
def Ctx.allEnded (x : Ctx) : Bool := x.gangs.all (·.ended)

/-- The exit takes effect (R115): the slices are exited, arrivals and releases that this completes take place, and the
last slice ends its gang. -/
def State.exitSlices (s : State) : State :=
  let c := s.issue.ctx
  let g := s.issue.gang
  let no := s.clauseNo
  let s1 := s.countWord.modGg (fun y => (y.closeFlags no).modSlices s.issue.slices (fun _ sl =>
    { sl with st := .exited, clause := [], yieldAsk := .no }))
  let s2 := (s1.exitArrivals c g).yieldNow s.yieldAsk s.hasTurn (leastOr 0 s.issuing)
  if s2.gg.liveMask = 0 then
    let s3 := s2.modGg (fun y => { y with ended := true })
    if s3.cx.allEnded then s3.post (.workgroupRetire c) else s3
  else s2

/-- EXIT (R115): it takes a loss that is known (R197); the last slice's exit takes the conversion faults that are left
(R266) and waits for the gang's remote stores. -/
def execExit (s : State) : Result :=
  .next (match s.takeLost 0xFF with
  | some (t, f) => t.raise f
  | none =>
    if s.lastExit then
      match s.takeConv (fun _ => true) with
      | some (t, f) => t.raise f
      | none => if s.gg.remoteOut then s else s.exitSlices
    else s.exitSlices)

/-- YIELD (R116): it acts after the last word of its clause. -/
def execYield (s : State) : Result :=
  .next (s.modGg (fun g => g.modSlices s.issue.slices (fun _ sl => { sl with yieldAsk := .plain }))).endWord
/-- YIELD regroup (R116). -/
def execYieldRegroup (s : State) : Result :=
  .next (s.modGg (fun g => g.modSlices s.issue.slices (fun _ sl => { sl with yieldAsk := .regroup }))).endWord

/-! ### The quantum and the gathering limit -/

/-- QUANTUM_EXPIRY (R95): the next runnable sub-gang takes the turn. -/
def execQuantumExpiry (ctx gang : Nat) (s : State) : Result :=
  .next (if Config.quantum ≤ (((s.ctxOf ctx).getD {}).gang gang).quantum then s.modGang ctx gang Gang.chooseNext else s)

/-- COMPACTION_GATHERING_LIMIT (R117): gatherings of a unit that have lasted the limit end. -/
def execCompactionGatheringLimit (ctx unit : Nat) (s : State) : Result :=
  .next (match s.ctxOf ctx with
  | none => s
  | some x =>
    let now := s.cycle (dieOf x.core)
    let due := x.gatherings.filter (fun k => k.unit == unit && k.since + Config.gatheringLimit ≤ now)
    s.modCtx ctx (fun y => due.foldl (fun z k => z.endGathering k.unit k.point) y))

end Sys2Proof.Machine
end

