-- ==== Sys2Proof/Machine/LoadStore.lean ====
section
/-! DEFINITION. The memory words (R184-R197) and MWAIT_WAKE. -/

namespace Sys2Proof.Machine

/-! ### Common parts -/

/-- Bytes of a size field (R71). -/
def sizeOf (size : BitVec 2) : Nat := 2 ^ size.toNat

/-- The field of an address pair. -/
def pairField (a : BitVec 8) : Field := { code := 1, reg := a.toNat, isElem := false, count := 2 }

/-- The field of a data register, or of a pair for 8 bytes. -/
def dataField (d : BitVec 8) (n : Nat) : Field :=
  { code := 0, reg := d.toNat, isElem := false, count := if n = 8 then 2 else 1 }

/-- Registers of a result of n bytes. -/
def regsFor (n : Nat) : Nat := if n = 8 then 2 else 1

/-- The global address of a lane. -/
def State.va (s : State) (a : BitVec 8) (l : Nat) : Nat := s.gg.pair a.toNat l

/-- A memory word that acts where a lane is enabled (R103): the checks of R185 over all lanes, then the duplex check of
addresses (R120), then the word. -/
def State.memWord (fs : List Field) (addrRegs : List Nat) (opCheck : Option FaultInfo) (raw : Nat → Nat)
    (tgt : Nat → LaneFail ⊕ Target) (late : List (Nat × Target) → Option FaultInfo) (l : Bool) (a n : Nat)
    (act : List (Nat × Target) → State → State) (s : State) : State :=
  if s.enabledLanes = [] then s.endWordL l a n
  else
    let ts := s.enabledLanes.map (fun i => (i, tgt i))
    s.checked (firstFault [s.regRange fs false, lanesFault fPoisonAddress raw (s.poisonedLanes addrRegs), opCheck,
        targetFault raw ts, late (reached ts)])
      (State.struck noShadow [] (act (reached ts)))

/-! ### Loads (R186) -/

/-- A lane's read: the value and its mark, or the peer's location to ask. -/
inductive LaneRead where
  | here (value : Nat) (p : Bool)
  | away (loc cache : Nat)
  deriving DecidableEq, Repr

/-- Reads a sector on the CONST path: what the constant cache holds, else the home, which it then holds where the page
lets it (R172, R175). -/
def State.readConst (core : Nat) (p : Place) (s : State) : Sector × State :=
  match s.heldConst core p with
  | some x => (x, s)
  | none => (s.homeSector p.loc false, s.fillConst core [p])

/-- What a lane reads of a sector. -/
def Sector.laneRead (x : Sector) (loc n : Nat) : LaneRead := .here (ofLeBytes (x.from loc n)) x.mark

/-- Reads n bytes of a target for a lane of a core: the window, what caches hold, or the home (R172, R177). -/
def State.readTarget (const : Bool) (core n : Nat) (t : Target) (s : State) : LaneRead × State :=
  match t with
  | .window o =>
    (.here (ofLeBytes (s.cx.window.bytes o n)) ((List.range n).any (fun i => NatSet.has ((o + i) / 4) s.cx.windowMarks)), s)
  | .mem p =>
    if const then
      if homeOf p.loc != .fabric || (s.heldConst core p).isSome then
        ((s.readConst core p).1.laneRead p.loc n, (s.readConst core p).2)
      else (.away p.loc p.leaf.cache, s)
    else if homeOf p.loc = .fabric then
      match s.heldSector core p.loc p.leaf.cache with
      | some x => (x.laneRead p.loc n, s)
      | none => (.away p.loc p.leaf.cache, s)
    else ((s.readSector core p.loc p.leaf).1.laneRead p.loc n, (s.readSector core p.loc p.leaf).2)

/-- Reads the targets of lanes in ascending order. -/
def State.readAll (const : Bool) (core n : Nat) : List (Nat × Target) → State → List (Nat × LaneRead) × State
  | [], s => ([], s)
  | (l, t) :: rest, s =>
    let (r, s1) := s.readTarget const core n t
    let (rs, s2) := State.readAll const core n rest s1
    ((l, r) :: rs, s2)

/-- How a load acts, beside its targets: the CONST path, whether flags count it, its scope and whether it acquires, the
destination register and the size in bytes. -/
structure LoadHow where
  const : Bool := false
  flags : Bool := true
  scope : Nat := 0
  acquire : Bool := false
  dest : Nat
  size : Nat
  deriving DecidableEq, Repr

/-- A load of lanes (R186): it acquires where its semantics do, reads, asks peers for the rest, and leaves its
registers pending until everything has arrived. It waits while tags for its requests are lacking. DESIGN CHOICE,
unsafe: log entry 9. -/
def State.load (h : LoadHow) (ts : List (Nat × Target)) (s : State) : State × Bool :=
  let s1 := if h.acquire then s.acquire s.cx.core h.scope else s
  let (rs, s2) := s1.readAll h.const s.cx.core h.size ts
  let away := rs.filterMap (fun e => match e.2 with
    | .away loc cache => some ({ lane := e.1, loc := loc, cache := cache } : AwayLane)
    | .here _ _ => none)
  let asks := readAsks h.size away
  if !s.tagRoom asks.length then (s, false)
  else
    let (parts, s3) := s2.askAll s.gg.nextAccess asks
    let here := rs.filterMap (fun e => match e.2 with
      | .here v p => some ({ lane := e.1, value := v, p := p } : LaneResult)
      | .away _ _ => none)
    let lost := (parts.filter (·.failed)).flatMap (fun r => r.lanes.map (fun e =>
      ({ lane := e.1, value := 0, p := true } : LaneResult)))
    let acc : Access :=
      { kind := .load, slices := s.issue.slices, dest := h.dest, width := regsFor h.size, size := h.size,
        scope := h.scope, acquire := h.acquire, results := here, home := here != [],
        sys := ts.any (fun e => e.2.atSys), nearB := here.any (fun r => ts.any (fun e => e.1 == r.lane && e.2.countsB)),
        const := h.const, remote := parts }
    let s4 := s3.openAccess acc (h.flags && ts.any (fun e => !e.2.countsB)) (h.flags && ts.any (fun e => e.2.countsB))
    let s5 := s4.giveLanes s.issue.ctx s.issue.gang acc lost
    (if here = [] then s5 else s5.post (.loadCompletion s.issue.ctx s.issue.gang s.gg.nextAccess), true)

/-- Ends a word that has issued; a word that waits has no effect. -/
def endIssued (l : Bool) (a n : Nat) (r : State × Bool) : State := if r.2 then r.1.endWordL l a n else r.1

/-- LD (R186). -/
def execLd (l : Bool) (d a : BitVec 8) (sem scope : BitVec 3) (size : BitVec 2) (s : State) : Result :=
  let n := sizeOf size
  .next (s.memWord [dataField d n, pairField a] [a.toNat, a.toNat + 1] none (s.va a)
    (fun i => s.vaTarget (s.va a i) n n { r := true }) (fun _ => none) l a.toNat 2
    (fun ts t =>
      let go := fun (u : State) => endIssued l a.toNat 2 (u.load
        { scope := scope.toNat, acquire := semAcquires sem, dest := d.toNat, size := n } ts)
      if semReleases sem then t.released scope.toNat t.issue.slices go else go t))

/-- The scratchpad operand of a lane. -/
def State.offset (s : State) (a : BitVec 8) (l : Nat) : Nat := (s.gg.reg a.toNat l).val.toNat

/-- The field of an address in one register. -/
def oneField (a : BitVec 8) : Field := { code := 1, reg := a.toNat, isElem := false }

/-- LDS (R178, R180, R186): it counts against no flag (R68). -/
def execLds (l : Bool) (d a : BitVec 8) (sem : BitVec 3) (size : BitVec 2) (s : State) : Result :=
  let n := sizeOf size
  .next (s.memWord [dataField d n, oneField a] [a.toNat] none (s.offset a)
    (fun i => s.scratchTarget (s.offset a i) n) (fun _ => none) l a.toNat 1
    (fun ts t =>
      let go := fun (u : State) => endIssued l a.toNat 1 (u.load
        { flags := false, acquire := semAcquires sem, dest := d.toNat, size := n } ts)
      if semReleases sem then t.released 0 t.issue.slices go else go t))

/-- The address of an LDC lane (R186). -/
def State.constVa (s : State) (a : BitVec 8) (l : Nat) : Nat := (s.cx.cbase + s.offset a l) % 2 ^ 64

/-- LDC (R186). -/
def execLdc (l : Bool) (d a : BitVec 8) (size : BitVec 2) (s : State) : Result :=
  let n := sizeOf size
  .next (s.memWord [dataField d n, oneField a] [a.toNat] none (s.constVa a)
    (fun i => s.constTarget (s.constVa a i) n) (fun _ => none) l a.toNat 1
    (fun ts t => endIssued l a.toNat 1 (t.load { const := true, dest := d.toNat, size := n } ts)))

/-! ### Stores (R186) -/

/-- A lane's data for a store. -/
structure LaneData where
  lane : Nat
  target : Target
  bytes : List Byte
  p : Bool
  deriving DecidableEq, Repr

/-- The data of the lanes of a store (R186). -/
def State.storeData (s : State) (d n : Nat) (ts : List (Nat × Target)) : List LaneData :=
  ts.map (fun e =>
    { lane := e.1, target := e.2, bytes := leBytes n (if n = 8 then s.gg.pair d e.1 else (s.gg.reg d e.1).val.toNat),
      p := if n = 8 then s.gg.pairP d e.1 else (s.gg.reg d e.1).p })

/-- Segments in the window. -/
def winSegs (ds : List LaneData) : List (Seg × Bool) :=
  ds.filterMap (fun d => match d.target with | .window o => some ({ at_ := o, bytes := d.bytes }, d.p) | .mem _ => none)

/-- Segments at locations of a home. -/
def homeSegs (h : Home) (ds : List LaneData) : List (Seg × Bool) :=
  ds.filterMap (fun d => match d.target with
    | .mem p => if homeOf p.loc = h then some ({ at_ := p.loc, bytes := d.bytes }, d.p) else none
    | .window _ => none)

/-- The units of u bytes that poisoned segments touch. -/
def poisonUnits (u : Nat) (gs : List (Seg × Bool)) : List Nat := segUnits u ((gs.filter (·.2)).map (·.1))

/-- Moves a segment's location to its place on the sys ports. -/
def Seg.toSys (g : Seg) : Seg := { g with at_ := g.at_ - sysBase }

/-- The lanes of a store write what is homed here, all together (R173, R177): the window, package memory, sys ports;
caches of the core hold what they write. -/
def State.writeHere (ds : List LaneData) (s : State) : State :=
  let core := s.cx.core
  let w := winSegs ds
  let m := homeSegs .package ds
  let y := homeSegs .sys ds
  let f := homeSegs .fabric ds
  let s1 := if w = [] then s else s.writeWindow s.issue.ctx (w.map (·.1)) (poisonUnits 4 w)
  let s2 := if m = [] then s1 else s1.writeDram (m.map (·.1)) (poisonUnits 32 m)
  let s3 := if y = [] then s2 else s2.writeSys (y.map (·.1.toSys)) ((poisonUnits 32 y).map (fun k => k - sysBase / 32))
  let all := (m ++ y ++ f).map (·.1)
  let bad := poisonUnits 32 (m ++ y ++ f)
  (s3.patchCaches core all).patchMarks core (segUnits 32 all) (fun k old =>
    if bad.contains k then true else if covered 32 all k then false else old)

/-- The bytes of a store at peers. -/
def peerBytes (ds : List LaneData) : List LaneByte :=
  ds.flatMap (fun d => match d.target with
    | .mem p =>
      if homeOf p.loc = .fabric then
        (List.range d.bytes.length).map (fun i => { loc := p.loc + i, lane := d.lane, val := nthOr 0 d.bytes i, p := d.p })
      else []
    | .window _ => [])

/-- A store of lanes (R186), in ascending lane order where they meet (R36). flags: whether flags count it; acq: its
semantics acquire too (Table 2-1). It waits while tags for its requests are lacking. DESIGN CHOICE, unsafe: log entry
9. -/
def State.store (flags acq : Bool) (scope n d : Nat) (raw : Nat → Nat) (ts : List (Nat × Target)) (s : State) : State × Bool :=
  let ds := s.storeData d n ts
  let asks := writeAsks (peerBytes ds)
  if !s.tagRoom asks.length then (s, false)
  else
    let s1 := if acq then s.acquire s.cx.core scope else s
    let (parts, s2) := (s1.writeHere ds).askAll s.gg.nextAccess asks
    let here := ts.any (fun e => !e.2.atPeer)
    let acc : Access :=
      { kind := .store, slices := s.issue.slices, dest := 0, width := 0, size := n, scope := scope, acquire := false,
        home := here, sys := ts.any (fun e => e.2.atSys), nearB := ts.any (fun e => e.2.atSys), remote := parts,
        vas := (ts.filter (fun e => e.2.atPeer)).map (fun e => (e.1, raw e.1)) }
    let s3 := s2.openAccess acc (flags && ts.any (fun e => !e.2.countsB)) (flags && ts.any (fun e => e.2.countsB))
    (if here then s3.post (.storeAcknowledgement s.issue.ctx s.issue.gang s.gg.nextAccess) else s3, true)

/-- BARRIER_CLOBBER of the lanes whose n bytes meet a live barrier word (R204). -/
def State.clobberFault (s : State) (raw : Nat → Nat) (n : Nat) (ts : List (Nat × Target)) : Option FaultInfo :=
  lanesFault fBarrierClobber raw ((ts.filter (fun e => s.onBarrier n e.2)).map (·.1))

/-- ST (R186). -/
def execSt (l : Bool) (d a : BitVec 8) (sem scope : BitVec 3) (size : BitVec 2) (s : State) : Result :=
  let n := sizeOf size
  .next (s.memWord [dataField d n, pairField a] [a.toNat, a.toNat + 1] none (s.va a)
    (fun i => s.vaTarget (s.va a i) n n { w := true }) (s.clobberFault (s.va a) n) l a.toNat 2
    (fun ts t =>
      let go := fun (u : State) => endIssued l a.toNat 2 (u.store true (semAcquires sem) scope.toNat n d.toNat (u.va a) ts)
      if semReleases sem then t.released scope.toNat t.issue.slices go else go t))

/-- STS (R178, R180, R186): it counts against no flag (R68). -/
def execSts (l : Bool) (d a : BitVec 8) (sem : BitVec 3) (size : BitVec 2) (s : State) : Result :=
  let n := sizeOf size
  .next (s.memWord [dataField d n, oneField a] [a.toNat] none (s.offset a)
    (fun i => s.scratchTarget (s.offset a i) n) (s.clobberFault (s.offset a) n) l a.toNat 1
    (fun ts t =>
      let go := fun (u : State) => endIssued l a.toNat 1 (u.store false (semAcquires sem) 0 n d.toNat (u.offset a) ts)
      if semReleases sem then t.released 0 t.issue.slices go else go t))

/-! ### Atomics (R187-R190) -/

/-- What a lane of an atomic brings: for CAS the new value as operand and the compare value. -/
structure AtomLane where
  lane : Nat
  target : Target
  opnd : Nat
  cmp : Nat
  p : Bool
  deriving DecidableEq, Repr

/-- How an atomic acts, beside its lanes. -/
structure AtomHow where
  cas : Bool
  result : Bool
  opw : Nat
  size : Nat
  scope : Nat
  acquire : Bool
  dest : Nat
  deriving DecidableEq, Repr

/-- The outcome of a lane on a location that holds old. -/
def AtomHow.outcome (h : AtomHow) (x : AtomLane) (old : Nat) (marked : Bool) : AtomOut :=
  if h.cas then casAt old marked x.cmp x.opnd x.p else atomAt h.opw h.size old marked x.opnd x.p

/-- An atomic of one lane on the window or package memory (R190): one that writes nothing has read the home all the same,
so no cache of its core keeps an older copy (R48). A scratchpad word takes its mark from the last lane that writes it; a
memory sector keeps the mark of any. DESIGN CHOICE, unsafe: log entry 87. -/
def State.atomHere (h : AtomHow) (x : AtomLane) (s : State) : AtomOut × State :=
  let n := h.size
  match x.target with
  | .window o =>
    let out := h.outcome x (ofLeBytes (s.cx.window.bytes o n)) ((List.range n).any (fun i => NatSet.has ((o + i) / 4) s.cx.windowMarks))
    (out, match out.write with
      | some (v, p) => s.writeWindow s.issue.ctx [{ at_ := o, bytes := leBytes n v }]
          (if p then segUnits 4 [{ at_ := o, bytes := leBytes n v }] else [])
      | none => s)
  | .mem q =>
    let out := h.outcome x (s.dramNat q.loc n) (s.homeMark q.loc)
    (out, match out.write with
      | some (v, p) =>
        let g : Seg := { at_ := q.loc, bytes := leBytes n v }
        let s1 := (s.writeDram [g] (if p then [sectorOf q.loc] else [])).patchCaches s.cx.core [g]
        s1.patchMarks s.cx.core [sectorOf q.loc] (fun _ old => if p then true else old)
      | none => s.dropSectors s.cx.core [sectorOf q.loc])

/-- The atomics of lanes here in ascending order (R189); writes come back for the marks they clear together. -/
def State.atomsHere (h : AtomHow) : List AtomLane → State → List (AtomLane × AtomOut) × State
  | [], s => ([], s)
  | x :: t, s =>
    let (o, s1) := s.atomHere h x
    let (os, s2) := State.atomsHere h t s1
    ((x, o) :: os, s2)

/-- The marks that an instruction's atomics clear together in package memory (R177). -/
def State.clearMarks (n : Nat) (os : List (AtomLane × AtomOut)) (s : State) : State :=
  let gs := os.filterMap (fun e => match e.1.target, e.2.write with
    | .mem q, some (_, p) => some (({ at_ := q.loc, bytes := List.replicate n 0 } : Seg), p)
    | _, _ => none)
  let bad := poisonUnits 32 gs
  let all := gs.map (·.1)
  ({ s with dramMarks := newMarks 32 all bad s.dramMarks }).patchMarks s.cx.core (segUnits 32 all) (fun k old =>
    if bad.contains k then true else if covered 32 all k then false else old)

/-- The request of a lane's atomic at a peer (Table 14-3). -/
def AtomHow.ask (h : AtomHow) (x : AtomLane) : Option Ask :=
  match x.target with
  | .mem q =>
    if homeOf q.loc = .fabric then
      some { loc := q.loc, len := h.size, lanes := [(x.lane, 0)], kind := 4,
             payload := atomicPayload (peerOf q.loc).2 h.opw h.size (ofBool h.cas + 2 * ofBool (!h.result))
               (ofBool x.p) x.opnd x.cmp }
    else none
  | .window _ => none

/-- An atomic of lanes (R187-R190). DESIGN CHOICE, unsafe: log entry 9. -/
def State.atomic (h : AtomHow) (raw : Nat → Nat) (xs : List AtomLane) (s : State) : State × Bool :=
  let asks := xs.filterMap h.ask
  if !s.tagRoom asks.length then (s, false)
  else
    let s1 := if h.acquire then s.acquire s.cx.core h.scope else s
    let (os, s2) := s1.atomsHere h (xs.filter (fun x => !x.target.atPeer))
    let s3 := (s2.clearMarks h.size os).dropSectors s.cx.core (asks.map (fun q => sectorOf q.loc))
    let (parts, s4) := s3.askAll s.gg.nextAccess asks
    let lost := (parts.filter (·.failed)).flatMap (fun r => r.lanes.map (fun e =>
      ({ lane := e.1, value := 0, p := true } : LaneResult)))
    let acc : Access :=
      { kind := if h.result then .atomic else .atomicNoResult, slices := s.issue.slices, dest := h.dest,
        width := if h.result then regsFor h.size else 0, size := h.size, scope := h.scope, acquire := h.acquire,
        cas := h.cas,
        results := if h.result then os.map (fun e => { lane := e.1.lane, value := e.2.old, p := e.2.oldP }) else [],
        home := os != [], remote := parts,
        vas := (xs.filter (fun x => x.target.atPeer)).map (fun x => (x.lane, raw x.lane)) }
    let s5 := s4.openAccess acc (xs.any (fun x => !x.target.countsB)) (xs.any (fun x => x.target.countsB))
    let ev := if h.result then Instr.loadCompletion s.issue.ctx s.issue.gang s.gg.nextAccess
              else Instr.storeAcknowledgement s.issue.ctx s.issue.gang s.gg.nextAccess
    let s6 := if h.result then s5.giveLanes s.issue.ctx s.issue.gang acc lost else s5
    (if os = [] then s6 else s6.post ev, true)

/-- POISON_CONTROL and ATOM_INVALID of an op word (R185 items 3 and 4). -/
def State.opWordFault (s : State) (r n : Nat) : Option FaultInfo :=
  let w := s.lead r
  firstFault [
    faultIf w.p { code := fPoisonControl, lanes := 2 ^ s.leader, detail0 := r },
    faultIf (!opWordOk w.val.toNat n) { code := fAtomInvalid, lanes := 2 ^ s.leader, detail0 := w.val.toNat }]

/-- A data operand of an atomic's lane. -/
def State.atomReg (s : State) (r n l : Nat) : Nat × Bool :=
  if n = 8 then (s.gg.pair r l, s.gg.pairP r l) else ((s.gg.reg r l).val.toNat, (s.gg.reg r l).p)

/-- The frame of the atomics: their targets need PR and PW on no sys port (Table 6-5). -/
def State.atomWord (fs : List Field) (opCheck : Option FaultInfo) (l : Bool) (a : BitVec 8) (sem scope : BitVec 3)
    (h : AtomHow) (lane : Nat → Target → AtomLane) (s : State) : State :=
  s.memWord fs [a.toNat, a.toNat + 1] opCheck (s.va a)
    (fun i => s.vaTarget (s.va a i) h.size h.size { r := true, w := true, noSys := true })
    (s.clobberFault (s.va a) h.size) l a.toNat 2
    (fun ts t =>
      let go := fun (u : State) => endIssued l a.toNat 2 (u.atomic h (u.va a) (ts.map (fun e => lane e.1 e.2)))
      if semReleases sem then t.released scope.toNat t.issue.slices go else go t)

/-- ATOM and ATOMNR: the operand is vd or its pair, the op word the leader's v(d+2) (R187). -/
def State.atomOp (result l : Bool) (d a : BitVec 8) (sem scope : BitVec 3) (z : BitVec 1) (s : State) : State :=
  let n := if z = 1 then 8 else 4
  let opw := d.toNat + 2
  s.atomWord [dataField d n, pairField a, { code := 3, reg := opw, isElem := false }] (s.opWordFault opw n) l a sem scope
    { cas := false, result := result, opw := (s.lead opw).val.toNat, size := n, scope := scope.toNat,
      acquire := semAcquires sem, dest := d.toNat }
    (fun i t => { lane := i, target := t, opnd := (s.atomReg d.toNat n i).1, cmp := 0, p := (s.atomReg d.toNat n i).2 })

/-- ATOM (R187). -/
def execAtom (l : Bool) (d a : BitVec 8) (sem scope : BitVec 3) (z : BitVec 1) (s : State) : Result :=
  .next (s.atomOp true l d a sem scope z)
/-- ATOMNR (R187). -/
def execAtomnr (l : Bool) (d a : BitVec 8) (sem scope : BitVec 3) (z : BitVec 1) (s : State) : Result :=
  .next (s.atomOp false l d a sem scope z)

/-- CAS: compare in vd or its pair, the new value behind it (R188). -/
def execCas (l : Bool) (d a : BitVec 8) (sem scope : BitVec 3) (z : BitVec 1) (s : State) : Result :=
  let n := if z = 1 then 8 else 4
  let new := if n = 8 then d.toNat + 2 else d.toNat + 1
  .next (s.atomWord [dataField d n, pairField a, { code := 3, reg := new, isElem := false, count := regsFor n }] none l a sem
    scope { cas := true, result := true, opw := 0, size := n, scope := scope.toNat, acquire := semAcquires sem,
            dest := d.toNat }
    (fun i t => { lane := i, target := t, opnd := (s.atomReg new n i).1, cmp := (s.atomReg d.toNat n i).1,
                  p := (s.atomReg new n i).2 || (s.atomReg d.toNat n i).2 }))

/-! ### Fences (R191, R192) -/

/-- Whether a load of slices of the gang is still out at a peer. -/
def Gang.loadsOut (g : Gang) (slices : Nat) : Bool :=
  g.accesses.any (fun e => (e.2.kind == .load || e.2.kind == .atomic) && (e.2.slices &&& slices) != 0 && e.2.remote.any (fun r => !r.done))

/-- FENCE (R50, R191). -/
def execFence (sem scope : BitVec 3) (s : State) : Result :=
  let acq := fun (t : State) =>
    if semAcquires sem then
      if t.gg.loadsOut t.issue.slices then t else (t.acquire t.cx.core scope.toNat).endWord
    else t.endWord
  .next (if semReleases sem then s.released scope.toNat s.issue.slices acq else acq s)

/-! ### MONITOR and MWAIT (R193, R194) -/

/-- MONITOR (R193): the line is the lowest enabled lane's, so that lane alone meets MONITOR_RANGE. DEDUCED, unsafe: log
entry 53. -/
def execMonitor (l : Bool) (a : BitVec 8) (s : State) : Result :=
  .next (s.memWord [pairField a] [a.toNat, a.toNat + 1] none (s.va a) (fun i => s.vaTarget (s.va a i) 1 1 { r := true })
    (fun ts => lanesFault fMonitorRange (s.va a) (((ts.take 1).filter (fun e => e.2.countsB)).map (·.1))) l a.toNat 2
    (fun ts t =>
      let w : Option Watch := match ts with
        | (_, .window o) :: _ => some { window := true, line := o / 128 }
        | (_, .mem p) :: _ => some { window := false, line := p.loc / 128 }
        | [] => none
      (t.modGg (fun g => g.modSlices t.issue.slices (fun _ sl => { sl with watch := w }))).endWordL l a.toNat 2))

/-- Disarms the watches of the issuing slices. -/
def State.disarm (s : State) : State := s.modGg (fun g => g.modSlices s.issue.slices (fun _ sl => { sl with watch := none }))

/-- Whether some issuing slice has a watch that a test names. -/
def State.watched (s : State) (test : Watch → Bool) : Bool :=
  s.issuing.any (fun i => ((s.gg.slice i).watch.map test).getD false)

/-- MWAIT (R194). -/
def execMwait (s : State) : Result :=
  .next (if !s.watched (fun _ => true) then s.endWord
  else if s.watched (·.fired) then s.disarm.endWord
  else s.countWord.beginWait .mwait)

/-- Makes slices of a sub-gang that wait in a way a test names the issuing ones; their word is the one they stopped
at. -/
def State.asIssuing (c g sub : Nat) (test : Slice → Bool) (s : State) : State :=
  let gg := ((s.ctxOf c).getD {}).gang g
  let is := gg.which (fun sl => test sl && sl.sub == sub)
  let sl := gg.slice (leastOr 0 is)
  { s with issue := { ctx := c, gang := g, slices := maskOf is, hdr := sl.hdr, pc := sl.pc, widx := sl.widx } }

/-- Whether a slice waits in MWAIT. -/
def Slice.inMwait (sl : Slice) : Bool := sl.st == .waiting .mwait

/-- The issuing slices stop waiting and go on after their word. -/
def State.resumeWord (s : State) : State :=
  (s.modGg (fun g => Gang.choose (g.modSlices s.issue.slices (fun _ sl => { sl with st := .runnable })))).advance

/-- MWAIT_WAKE (R194): a fired watch ends the wait and disarms the watches of its slices. -/
def execMwaitWake (ctx gang sub : Nat) (s : State) : Result :=
  let t := s.asIssuing ctx gang sub Slice.inMwait
  .next (if t.issuing != [] && t.cx.run == .running && t.watched (·.fired) then t.disarm.resumeWord else s)

/-! ### PREF and CCTL (R195, R196) -/

/-- The lanes that PREF or CCTL does not skip: their address is unpoisoned and translates with PR (R195). -/
def State.lineLanes (s : State) (a : BitVec 8) : List (Nat × Place) :=
  s.enabledLanes.filterMap (fun i =>
    if s.gg.pairP a.toNat i || windowBase ≤ s.va a i then none
    else match s.vaTarget (s.va a i) 1 1 { r := true } with
      | .inr (.mem p) => some (i, p)
      | _ => none)

/-- The frame of PREF and CCTL: REG_RANGE is their only fault. -/
def State.lineWord (l : Bool) (a : BitVec 8) (act : List (Nat × Place) → State → State × Bool) (s : State) : State :=
  if s.enabledLanes = [] then s.endWordL l a.toNat 2
  else s.checked (s.regRange [pairField a] false)
    (State.struck noShadow [] (fun t => endIssued l a.toNat 2 (act (t.lineLanes a) t)))

/-- Reads the four sectors of a line for a core, which its caches then hold. -/
def State.fetchLine (core : Nat) (p : Place) (cache : Nat) (s : State) : State :=
  (List.range 4).foldl (fun t k =>
    (t.readSector core (128 * (p.loc / 128) + 32 * k) { p.leaf with cache := cache }).2) s

/-- PREF (R195): level 0 the L1 and the remote-data cache, level 1 the latter alone. -/
def execPref (l : Bool) (lev : BitVec 1) (a : BitVec 8) (s : State) : Result :=
  .next (s.lineWord l a (fun ps t =>
    let level := fun (p : Place) => if lev = 1 then Nat.max 1 p.leaf.cache else p.leaf.cache
    let near := ps.filter (fun e => homeOf e.2.loc != .fabric)
    let far := ps.filter (fun e => homeOf e.2.loc == .fabric)
    let asks := (far.map (fun e => (128 * (e.2.loc / 128), level e.2))).eraseDups.map (fun e =>
      ({ loc := e.1, len := 128, lanes := [], kind := 2, payload := memPayload (peerOf e.1).2 128 0 0 [], cache := e.2 } : Ask))
    if !t.tagRoom asks.length then (t, false)
    else
      let t1 := near.foldl (fun u e => u.fetchLine u.cx.core e.2 (level e.2)) t
      let (parts, t2) := t1.askAll t.gg.nextAccess asks
      let acc : Access :=
        { kind := .prefetch, slices := t.issue.slices, dest := 0, width := 0, size := 128, scope := 0, acquire := false,
          home := true, sys := near.any (fun e => homeOf e.2.loc == .sys),
          nearB := near.any (fun e => homeOf e.2.loc == .sys), remote := parts }
      ((t2.openAccess acc (near.any (fun e => homeOf e.2.loc == .package)) (ps.any (fun e => homeOf e.2.loc != .package))).post
        (.loadCompletion t.issue.ctx t.issue.gang t.gg.nextAccess), true)))

/-- CCTL inv and wb: act on each line, and count until acknowledged. -/
def State.cctl (l : Bool) (a : BitVec 8) (act : Place → State → State) (s : State) : State :=
  s.lineWord l a (fun ps t =>
    let t1 := ps.foldl (fun u e => act e.2 u) t
    let acc : Access :=
      { kind := .cctl, slices := t.issue.slices, dest := 0, width := 0, size := 128, scope := 0, acquire := false,
        home := true, sys := true, nearB := true }
    ((t1.openAccess acc (ps.any (fun e => homeOf e.2.loc == .package)) (ps.any (fun e => homeOf e.2.loc != .package))).post
      (.storeAcknowledgement t.issue.ctx t.issue.gang t.gg.nextAccess), true))

/-- CCTL inv (R196): the line leaves the issuing core's L1 and its die's remote-data cache. -/
def execCctlInv (l : Bool) (a : BitVec 8) (s : State) : Result :=
  .next (s.cctl l a (fun p t =>
    t.dropDieLines t.cx.core [p.loc / 128]))

/-- CCTL wb (R196): the home's dirty sectors go to its memory device, which this model holds as one store with it
(log entry 8). -/
def execCctlWb (l : Bool) (a : BitVec 8) (s : State) : Result := .next (s.cctl l a (fun _ t => t))

/-- CCTL invl1 (R196): every global-memory line leaves the issuing core's L1. -/
def execCctlInvl1 (s : State) : Result :=
  .next (if s.enabledLanes = [] then s.endWord else (s.dropL1 s.cx.core).endWord)

end Sys2Proof.Machine
end

