-- ==== Sys2Proof/Machine/Sync.lean ====
section
/-! DEFINITION. The barrier words (R207, R208) with BARRIER_WAIT_RETURN, the watchdog (R209, R210), the special
registers (R213, R214) and TRAP (R215). -/

namespace Sys2Proof.Machine

/-! ### Named barriers (R207) -/

/-- A field in bits [23:16] or [15:8]. -/
def plainField (code : Nat) (r : BitVec 8) : Field := { code := code, reg := r.toNat, isElem := false }

/-- POISON_CONTROL of operands that the leader reads: the lowest poisoned register (R420). -/
def State.leadPoison (s : State) (rs : List Nat) : Option FaultInfo :=
  match rs.filter (fun r => (s.lead r).p) with
  | r :: t => some { code := fPoisonControl, lanes := 2 ^ s.leader, detail0 := t.foldl Nat.min r }
  | [] => none

/-- BARRIER_RANGE of a named barrier (R199). -/
def State.barRange (s : State) (b : Nat) : Option FaultInfo :=
  faultIf (s.cx.nbar ≤ b) { code := fBarrierRange, detail0 := b }

/-- The checks of BARINIT (R207). -/
def State.barinitFault (s : State) (x y : BitVec 8) (b : Nat) : Option FaultInfo :=
  let c := (s.lead y.toNat).val.toNat
  let o := (s.lead x.toNat).val.toNat
  firstFault [
    s.regRange [plainField 0 x, plainField 1 y] false, s.barRange b, s.leadPoison [x.toNat, y.toNat],
    faultIf (c == 0 || 65535 < c || c ≤ (s.namedBar s.issue.ctx b).arrived)
      { code := fBarrierState, detail0 := b, detail1 := c },
    if o = 0xFFFFFFFF then none
    else firstFault [
      faultIf (o % 8 != 0 || s.cx.scratch < o + 8) { code := fScratchRange, lanes := 2 ^ s.leader, addr := o },
      faultIf ((s.cx.boundWords o 8).any (fun k => k != b)) { code := fBarrierState, detail0 := b, detail1 := o }]]

/-- BARINIT (R207). -/
def execBarinit (l : Bool) (x y : BitVec 8) (b : BitVec 5) (s : State) : Result :=
  let c := (s.lead y.toNat).val.toNat
  let o := (s.lead x.toNat).val.toNat
  .next (s.checked (s.barinitFault x y b.toNat) (fun t =>
    ((t.modBar t.issue.ctx b.toNat (fun k =>
      { k with expect := c, bound := if o = 0xFFFFFFFF then none else some o })).writeBound t.issue.ctx b.toNat).endWordL l
      x.toNat 1))

/-- Whether an arrival of the issuing slices lets the gang's arrival be counted now (R201). -/
def State.completesArrival (s : State) (bar : BarName) : Bool :=
  (s.gg.liveMask &&& (s.gg.marksOf bar ||| s.issue.slices)) == s.gg.liveMask

/-- An arrival word with operand a of n registers: a slice already marked raises; a counted arrival is a release on
behalf of the gang (R201, R207). DEDUCED, unsafe: log entry 53. -/
def State.arriveWord (bar : BarName) (scope : Nat) (l : Bool) (a n : Nat) (second : Nat → FaultInfo) (s : State) : State :=
  let m := s.gg.marksOf bar
  s.checked (faultIf ((m &&& s.issue.slices) != 0) (second (m % 256))) (fun t =>
    if t.completesArrival bar then t.released scope 255 (fun u => (u.arrive bar).endWordL l a n)
    else (t.arrive bar).endWordL l a n)

/-- BARARR (R207). -/
def execBararr (b : BitVec 5) (s : State) : Result :=
  .next (s.checked (s.barRange b.toNat) (State.arriveWord (.named b.toNat) 0 false 0 0 (fun m =>
    ({ code := fBarrierState, detail0 := b.toNat, detail1 := m } : FaultInfo))))

/-- BARWAIT (R207). -/
def execBarwait (x : BitVec 8) (b : BitVec 5) (s : State) : Result :=
  .next (s.checked (firstFault [s.regRange [plainField 0 x] false, s.barRange b.toNat])
    (State.waitBar (.named b.toNat) 0 x.toNat 0))

/-- BARTEST (R207). -/
def execBartest (x : BitVec 8) (b : BitVec 5) (s : State) : Result :=
  .next (s.checked (firstFault [s.regRange [plainField 0 x] false, s.barRange b.toNat])
    (State.testBar (.named b.toNat) x.toNat 0))

/-! ### Scope barriers (R208) -/

/-- Whether two cores lie in one instance of a scope (Table 1-2). -/
def sameInstance (scope a b : Nat) : Bool :=
  match scope with
  | 0 => a == b
  | 1 => a / 4 == b / 4
  | 2 => a / Config.coresPerDie == b / Config.coresPerDie
  | _ => true

/-- The live scope barrier at a location (R203). -/
def State.scopeAt (s : State) (loc : Nat) : Option ScopeBar := s.scopeBars.find? (fun b => b.loc == loc)

/-- The address that SBAR reads from the leader. -/
def State.sbarVa (s : State) (x : BitVec 8) : Nat := s.gg.pair x.toNat s.leader

/-- Whether some gang of the package waits on a scope barrier. -/
def State.scopeWaited (s : State) (loc : Nat) : Bool :=
  s.ctxs.any (fun (e : Nat × Ctx) => e.2.gangs.any (fun g => g.slices.any (Slice.waitsOn (.scope loc))))

/-- The checks of SBAR in the order of R208; y: the register of the count or the result, with whether it is read. -/
def State.sbarFault (s : State) (x y : BitVec 8) (usesY init fin : Bool) (scope : Nat) : Option FaultInfo ⊕ Nat :=
  let va := s.sbarVa x
  let ld := 2 ^ s.leader
  let range : FaultInfo := { code := fBarrierRange, addr := va, detail0 := 0xFF }
  let early := firstFault [
    s.regRange ({ code := 0, reg := x.toNat, isElem := false, count := 2 } ::
      (if usesY then [plainField 1 y] else [])) false,
    faultIf (s.gg.pairP x.toNat s.leader) { code := fPoisonAddress, lanes := ld, addr := va }]
  match early with
  | some f => .inl (some f)
  | none =>
    match s.vaTarget va 8 8 { r := true, w := true } with
    | .inl f => .inl (some { code := f.code, lanes := ld, addr := va, detail0 := f.detail0, detail1 := f.detail1 })
    | .inr t =>
      match (if init then s.leadPoison [y.toNat] else none), t with
      | some f, _ => .inl (some f)
      | none, .window _ => .inl (some range)
      | none, .mem p =>
        if homeOf p.loc != .package || p.leaf.rowl then .inl (some range)
        else
          let c := (s.lead y.toNat).val.toNat
          let state := fun (d : Nat) => some ({ code := fBarrierState, addr := va, detail0 := 0xFF, detail1 := d } : FaultInfo)
          match s.scopeAt p.loc with
          | none =>
            if !init then .inl (some range)
            else if Config.scopeBarriers ≤ s.scopeBars.length || c == 0 || 65535 < c || s.scopeWords p.loc 8 != [] then
              .inl (state c)
            else .inr p.loc
          | some k =>
            let w := s.scopeWord p.loc
            if !sameInstance w.scope s.cx.core k.core then .inl (some range)
            else if init then .inl (state c)
            else if w.scope != scope then .inl (state (if fin then w.arrived else 0))
            else if fin && (w.arrived != 0 || s.scopeWaited p.loc) then .inl (state w.arrived)
            else .inr p.loc

/-- An SBAR word: its checks, then what it does at the barrier's location. -/
def State.sbar (x y : BitVec 8) (usesY init fin : Bool) (scope : BitVec 3) (act : Nat → State → State) (s : State) : State :=
  match s.sbarFault x y usesY init fin scope.toNat with
  | .inl (some f) => s.raise f
  | .inl none => s
  | .inr loc => act loc s

/-- SBAR init (R208). -/
def execSbarInit (l : Bool) (x y : BitVec 8) (scope : BitVec 3) (s : State) : Result :=
  .next (s.sbar x y true true false scope (fun loc t => t.released scope.toNat t.issue.slices (fun u =>
    let w : BarWord :=
      { expect := (u.lead y.toNat).val.toNat, arrived := 0, err := false, live := true, scope := scope.toNat, phase := 0 }
    let v := u.putScope loc w
    ({ v with scopeBars := v.scopeBars ++ [({ loc := loc, ctx := v.issue.ctx, core := v.cx.core } : ScopeBar)] }).endWordL l x.toNat 2)))

/-- SBAR arr (R208). -/
def execSbarArr (l : Bool) (x : BitVec 8) (scope : BitVec 3) (s : State) : Result :=
  let va := s.sbarVa x
  .next (s.sbar x 0 false false false scope (fun loc t =>
    t.arriveWord (.scope loc) scope.toNat l x.toNat 2
      (fun m => ({ code := fBarrierState, addr := va, detail0 := 0xFF, detail1 := m } : FaultInfo))))

/-- SBAR wait (R208). -/
def execSbarWait (l : Bool) (x y : BitVec 8) (scope : BitVec 3) (s : State) : Result :=
  .next (s.sbar x y true false false scope (fun loc t => (t.unstage l x.toNat 2).waitBar (.scope loc) (s.sbarVa x) y.toNat scope.toNat))

/-- SBAR test (R208). -/
def execSbarTest (l : Bool) (x y : BitVec 8) (scope : BitVec 3) (s : State) : Result :=
  .next (s.sbar x y true false false scope (fun loc t => (t.unstage l x.toNat 2).testBar (.scope loc) y.toNat scope.toNat))

/-- SBAR fin (R208). -/
def execSbarFin (l : Bool) (x : BitVec 8) (scope : BitVec 3) (s : State) : Result :=
  .next (s.sbar x 0 false false true scope (fun loc t =>
    let u := t.putScope loc { t.scopeWord loc with live := false }
    ({ u with scopeBars := u.scopeBars.filter (fun b => b.loc != loc) }).endWordL l x.toNat 2))

/-- BARRIER_WAIT_RETURN (R202): the waits of a sub-gang whose phase has completed return. -/
def execBarrierWaitReturn (ctx gang sub : Nat) (s : State) : Result :=
  let t := s.asIssuing ctx gang sub (fun sl => match sl.st with | .waiting (.barrier _ _ _ _) => true | _ => false)
  .next (match t.issuing with
  | [] => s
  | i :: _ =>
    match (t.gg.slice i).st with
    | .waiting (.barrier bar p dest scope) =>
      if t.cx.run == .running && t.barPhase ctx bar != p then (t.returnWait bar dest scope).resumeWord else s
    | _ => s)

/-! ### The watchdog (R209, R210) -/

/-- Whether a slice is what a watchdog count counts. -/
def Slice.countedBy (k : WatchKind) (sl : Slice) : Bool :=
  match k with
  | .named n => sl.waitsOn (.named n)
  | .scope loc => sl.waitsOn (.scope loc)
  | .ring _ => sl.ringStall.isSome

/-- GANG g of the diagnostic (Table 7-9); at a ring stall a stalled gang shows no barrier (R420). DEDUCED, unsafe: log entry 53. -/
def Gang.diag (codeBase : Nat) (ring : Bool) (g : Gang) : List Byte :=
  let live := g.liveMask
  let exited := 255 - live
  let waiting := maskOf (g.which (fun sl => match sl.st with | .waiting _ => true | _ => false))
  let parked := maskOf (g.which (fun sl => match sl.st with | .parked _ => true | .held => true | _ => false))
  let am := maskOf ((List.range 32).filter g.am)
  let tokens := ((List.range 8).map (fun i => match g.tokenOf i with | some t => (8 + t % 8) * 16 ^ i | none => 0)).foldl (· + ·) 0
  let on := (g.slices.filterMap (fun sl => match sl.st with | .waiting (.barrier (.named n) _ _ _) => some n | _ => none))
  let pc := fun (i : Nat) => let sl := g.slice i; if sl.live then wrap 32 ((sl.pc : Int) - codeBase) else 0xFFFFFFFF
  leBytes 4 (live + 2 ^ 8 * exited + 2 ^ 16 * waiting + 2 ^ 24 * parked) ++ leBytes 4 am ++ leBytes 4 tokens ++
  leBytes 4 (if ring && g.slices.any (fun sl => sl.ringStall.isSome) then 0xFF else leastOr 0xFF on) ++ (List.range 8).flatMap (fun i => leBytes 4 (pc i))

/-- The diagnostic of a barrier timeout (Table 7-9, R420). DEDUCED, unsafe: log entry 22. -/
def State.diagnostic (s : State) (c : Nat) (x : Ctx) (k : WatchCount) : List Byte :=
  let head := fun (kind bid expect arrived amask earr phase baddr : Nat) =>
    leBytes 1 kind ++ leBytes 1 bid ++ leBytes 2 0 ++ leBytes 2 expect ++ leBytes 2 arrived ++ leBytes 2 amask ++
    leBytes 2 earr ++ leBytes 4 phase ++ leBytes 8 baddr ++ leBytes 8 0
  let rows := fun (ring : Bool) => x.gangs.flatMap (Gang.diag x.codeBase ring)
  match k.kind with
  | .named n =>
    let b := s.namedBar c n
    head 0 n b.expect b.arrived b.amask b.earr b.phase (b.bound.getD 0xFFFFFFFFFFFFFFFF) ++ rows false
  | .scope loc =>
    let w := s.scopeWord loc
    let here := maskOf ((List.range x.gangs.length).filter (fun g => bit ((x.gang g).marksOf (.scope loc)) 8))
    head 1 0xFF w.expect w.arrived here 0 w.phase k.va ++ rows false
  | .ring slot =>
    head 2 slot 0 0 0 0 (((Tab.find slot x.slots).map (·.seq)).getD 0) (x.scratch + 32 * slot) ++ rows true

/-- BARRIER_TIMEOUT (R210): the watch-th running count of a context has reached the limit. -/
def execBarrierTimeout (ctx watch : Nat) (s : State) : Result :=
  .next (match s.ctxOf ctx with
  | none => s
  | some x =>
    match x.watches[watch]? with
    | none => s
    | some w =>
      if x.run == .running && w.since + 1024 * x.wdog ≤ s.cycle (dieOf x.core) then
        let s1 := s.modCtx ctx Ctx.dissolveAll
        let y := (s1.ctxOf ctx).getD {}
        let g := match (List.range y.gangs.length).filter (fun k => (y.gang k).slices.any (Slice.countedBy w.kind)) with
          | k :: t => if (k :: t).contains w.gang then w.gang else k
          | [] => w.gang
        let is := (y.gang g).which (Slice.countedBy w.kind)
        let sl := (y.gang g).slice (leastOr 0 is)
        let r : FaultRec :=
          { code := fBarrierTimeout, flags := 8, ctx := ctx, part := y.part, gang := g, slices := maskOf is,
            widx := sl.widx, hdr := sl.hdr, pc := sl.pc,
            detail0 := match w.kind with | .named n => n | .scope _ => 0xFF | .ring k => k,
            cycle := s.cycle (dieOf y.core), die := dieOf y.core, core := y.core % Config.coresPerDie,
            diag := s1.diagnostic ctx y w }
        s1.stopCtx ctx r
      else s)

/-! ### Special registers (R213, R214) -/

/-- The value of a special register that reads as a scalar (Table 7-6). -/
def State.special (s : State) (r : Nat) : Nat :=
  let x := s.cx
  match r with
  | 0 => s.cycle (dieOf x.core) % 2 ^ 32
  | 2 => 2 ^ 24 * dieOf x.core + 2 ^ 16 * (x.core % Config.coresPerDie) + 2 ^ 14 * s.gg.unit
  | 3 => x.part
  | 4 => s.issue.ctx
  | 5 => x.scratch
  | 6 => x.seq % 2 ^ 32
  | 7 => x.cbase % 2 ^ 32
  | 8 => x.cbase / 2 ^ 32
  | 9 => x.karg % 2 ^ 32
  | 10 => x.karg / 2 ^ 32
  | 11 => x.wdog
  | 12 => maskOf ((List.range 12).filter s.gg.flagSet)
  | _ => x.npre % 2 ^ 32

/-- SYSR (R213): a scalar; cychi gives each issuing slice its own latch; cyclo latches the high half. -/
def execSysr (x r : BitVec 8) (s : State) : Result :=
  .next (s.checked (s.regRange [plainField 0 x] false) (fun t =>
    let t1 := t.beforeRegs t.issue.ctx t.issue.gang [x.toNat]
    let t2 := if r = 1 then
        t1.modGg (fun g => g.setLanes x.toNat ((lanesOf t.issue.slices).map (fun l =>
          (l, { val := (g.slice (sliceOfLane l)).latch }))))
      else t1.modGg (fun g => g.setScalar x.toNat t.issue.slices (BitVec.ofNat 32 (t.special r.toNat)))
    let high := BitVec.ofNat 32 (t.cycle (dieOf t.cx.core) / 2 ^ 32)
    (if r = 0 then t2.modGg (fun g => g.modSlices t.issue.slices (fun _ sl => { sl with latch := high })) else t2).endWord))

/-- The watchdog cap of a partition (Table 15-2). -/
def State.wdogCap (s : State) (p : Nat) : Nat := match s.part p with | some k => k.record.wdcap | none => Config.watchdogUnits

/-- SYSW (R213): wdog is the one register that it writes; 0 or a value above the cap stores the cap (Table 7-7). -/
def execSysw (l : Bool) (x r : BitVec 8) (s : State) : Result :=
  let _ := r
  let v := (s.lead x.toNat).val.toNat
  let cap := s.cx.wdcap
  .next (s.checked (firstFault [s.regRange [plainField 0 x] false, s.leadPoison [x.toNat]]) (fun t =>
    (t.modCx (fun c => { c with wdog := if v = 0 ∨ cap < v then cap else v })).endWordL l x.toNat 1))

/-- TRAP (R215): raised after the word itself; its clause counts as ended for the flags it armed (R67); a resume continues
at the word that follows. -/
def execTrap (code : BitVec 8) (s : State) : Result :=
  let r := s.faultRecord { code := fTrap, detail0 := code.toNat } s.issue.hdr s.issue.pc s.issue.widx
  .next ((((s.endWord.modGg (Gang.closeFlags s.clauseNo))).modCx (fun y =>
    { y with run := s.cx.run, cause := s.cx.cause, fault := s.cx.fault })).stopCtx s.issue.ctx r)

end Sys2Proof.Machine
end

