-- ==== Sys2Proof/Machine/Interlock.lean ====
section
/-! DEFINITION. The register interlock (R21, R69): the registers that an instruction word reads or writes, of which
none may be pending when it issues. -/

namespace Sys2Proof.Machine

/-- One register, or a pair where the word's operands are 64 bits wide. -/
def operandRegs (wide : Bool) (rs : List (BitVec 8)) : List Nat :=
  rs.flatMap (fun r => if wide then [r.toNat, r.toNat + 1] else [r.toNat])

/-- n registers from one on. -/
def groupRegs (r : BitVec 8) (n : Nat) : List Nat := (List.range n).map (fun i => r.toNat + i)

/-- Registers of data of a size field. -/
def dataRegs (d : BitVec 8) (size : BitVec 2) : List Nat := groupRegs d (regsFor (sizeOf size))

/-- The registers that a word reads or writes; wide: some issuing slice has a 64-bit TYPE. -/
def touchedRegs (wide : Bool) : Instr → List Nat
  | .guard _ a | .guardInverted _ a | .mload _ a | .mand _ a | .mandn _ a | .mor _ a => [a.toNat]
  | .msave d | .mpop d | .mfirst d | .ldi d _ | .ldih d _ | .rdsp d _ => [d.toNat]
  | .stage a n => groupRegs a n.toNat
  | .bany _ c _ | .ball _ c _ => [c.toNat]
  | .jtx _ x _ => [x.toNat]
  | .add _ d a b | .sub _ d a b | .mul _ d a b | .mulhi _ d a b | .mad _ d a b | .min _ d a b | .max _ d a b
  | .and _ d a b | .or _ d a b | .xor _ d a b | .shl _ d a b | .shr _ d a b | .sar _ d a b | .rot _ d a b
  | .sel _ d a b | .cmp _ d a b | .fadd _ d a b | .fsub _ d a b | .fmul _ d a b | .ffma _ d a b | .fmin _ d a b
  | .fmax _ d a b | .fcmp _ d a b | .fdivs _ d a b | .bfe _ d a b | .bfi _ d a b | .pack2 _ d a b => operandRegs wide [d, a, b]
  | .madw _ d a b | .addc _ d a b | .subb _ d a b => groupRegs d 2 ++ [a.toNat, b.toNat]
  | .abs _ d a | .neg _ d a | .not _ d a | .clz _ d a | .popc _ d a | .brev _ d a | .fabs _ d a | .fneg _ d a
  | .fclass _ d a | .fsqrt _ d a | .frcp _ d a | .frsq _ d a | .fexp2 _ d a | .flog2 _ d a | .fsin _ d a
  | .fcos _ d a => operandRegs wide [d, a]
  | .mov _ d a => [d.toNat, a.toNat]
  | .movW8 _ d a | .cvt _ d a _ _ => groupRegs d 2 ++ groupRegs a 2
  | .shfl _ d a b | .shflup _ d a b | .shfldn _ d a b | .shflx _ d a b | .bcast _ d a b => [d.toNat, a.toNat, b.toNat]
  | .voteAny _ d a | .voteAll _ d a | .voteBallot _ d a | .voteEq _ d a | .reduxAdd _ d a | .reduxMin _ d a
  | .reduxMax _ d a | .reduxAnd _ d a | .reduxOr _ d a | .reduxXor _ d a | .reduxFadd _ d a | .reduxFmin _ d a
  | .reduxFmax _ d a | .reduxScanadd _ d a | .reduxEscanadd _ d a => operandRegs wide [d, a]
  | .ld _ d a _ _ size | .st _ d a _ _ size => dataRegs d size ++ groupRegs a 2
  | .lds _ d a _ size | .sts _ d a _ size | .ldc _ d a size => dataRegs d size ++ [a.toNat]
  | .atom _ d a _ _ _ | .atomnr _ d a _ _ _ => groupRegs d 3 ++ groupRegs a 2
  | .cas _ d a _ _ _ => groupRegs d 4 ++ groupRegs a 2
  | .monitor _ a | .pref _ _ a | .cctlInv _ a | .cctlWb _ a => groupRegs a 2
  | .barinit _ x y _ => [x.toNat, y.toNat]
  | .barwait x _ | .bartest x _ | .sysr x _ | .sysw _ x _ => [x.toNat]
  | .sbarInit _ x y _ | .sbarWait _ x y _ | .sbarTest _ x y _ => groupRegs x 2 ++ [y.toNat]
  | .sbarArr _ x _ | .sbarFin _ x _ => groupRegs x 2
  | .launch _ d a _ => d.toNat :: groupRegs a 8
  | .mma _ d a _ | .mmag _ d a _ | .maccFill _ d a _ | .maccLoad _ d a _ | .maccCopy _ d a _ | .mst _ d a _
  | .mpair _ d a _ | .mrel _ d a _ | .rfwd _ d a _ | .rmma _ d a _ | .rrev _ d a _ | .rchk _ d a _ | .rscl _ d a _
  | .xcp _ d a _ | .xcpr _ d a _ | .xexp _ d a _ | .xpack _ d a _ | .xcan _ d a _ | .rowcpy _ d a _ | .rowfill _ d a _
  | .rowand _ d a _ | .rowor _ d a _ | .rowxor _ d a _ | .rownot _ d a _ | .rowq _ d a _ | .snap _ d a _
  | .snapq _ d a _ | .snaprel _ d a _ | .cgrun _ d a _ | .grun _ d a _ | .erd _ d a _ => d.toNat :: groupRegs a 8
  | _ => []

/-- Whether a word of the issuing slices must wait: a register it names is pending (R69), or an acquire of its slices
still has lanes out at peers. DESIGN CHOICE, safe: log entry 27. -/
def State.interlocked (s : State) (i : Instr) : Bool :=
  (touchedRegs s.anyWide i).any (fun r => NatSet.has r s.gg.pend)
  || s.gg.accesses.any (fun e => e.2.acquire && (e.2.slices &&& s.issue.slices) != 0 && e.2.remote.any (fun r => !r.done))

end Sys2Proof.Machine
end

