-- ==== Sys2Proof/Machine/Fetch.lean ====
section
/-! DEFINITION. Fetching a clause (R62, R64, R65) and making a gang or a portion of an issue group ready to issue its
next word (R94-R96, R118). -/

namespace Sys2Proof.Machine

/-! ### Fetching a clause -/

/-- Addresses of the n words of a clause from its header on. -/
def clauseVas (hdr n : Nat) : List Nat := (List.range n).map (fun k => (hdr + 4 * k) % 2 ^ 64)

/-- The first word of a list of addresses whose translation fails, as its walk failure (R65); an address that no page
table translates (non-canonical, the window, an aperture) fails as a page that is not present. DESIGN CHOICE, unsafe:
log entry 62. -/
def State.fetchFail (s : State) (x : Ctx) (vas : List Nat) : Option WalkFail :=
  vas.findSome? (fun va =>
    if !translatedVa va then some { code := fPageNotPresent, level := 0 }
    else match s.translate x.part va { x := true } with | .inl f => some f | .inr _ => none)

/-- The words at a list of addresses, as the constant cache or the home gives them. -/
def State.fetchWords (s : State) (x : Ctx) (vas : List Nat) : List Word :=
  vas.map (fun va => match s.codeWord x va with | .inr w => w | .inl _ => 0)

/-- The places of the words of a clause. -/
def State.codePlaces (s : State) (x : Ctx) (vas : List Nat) : List Place :=
  vas.filterMap (fun va => match s.translate x.part va { x := true } with | .inr p => some p | .inl _ => none)

/-- A clause has been fetched: the constant cache holds its sectors where their pages let it, and the sectors that were
read at peers for this fetch alone are gone (R172, R175). -/
def State.fillCode (x : Ctx) (vas : List Nat) (s : State) : State :=
  let ps := s.codePlaces x vas
  let t := State.fillConst x.core (ps.filter (fun p => homeOf p.loc != .fabric)) s
  if (t.core x.core).fetched.isEmpty then t
  else t.modCore x.core (fun c =>
    { c with fetched := c.fetched.filter (fun e => !(ps.any (fun p => sectorOf p.loc == e.1))) })

/-- What a fetch comes to. -/
inductive Fetched where
  /-- a sector must first come from a peer -/
  | away (p : Place)
  | fault (f : FaultInfo) (hdr pc widx : Nat)
  | clause (ws : List Word)
  deriving DecidableEq, Repr

/-- A fetch that fails translation (R65, R169). -/
def fetchFault (hdr : Nat) (f : WalkFail) : Fetched :=
  .fault { code := f.code, addr := hdr, detail0 := f.level, detail1 := 4, fetch := true } hdr hdr 0

/-- A clause that is rejected whole (R64). -/
def rejected (hdr k : Nat) (w : Word) : Fetched :=
  .fault { code := fIllegalEncoding, addr := (hdr + 4 * k) % 2 ^ 64, detail0 := w.toNat } hdr hdr k

/-- Fetches the clause at an address for a slice (R62, R64, R65). DEDUCED, safe: log entry 15. -/
def State.fetch (s : State) (x : Ctx) (sl : Slice) : Fetched :=
  let hdr := sl.pc
  match s.fetchFail x [hdr], s.codeAway x hdr with
  | some f, _ => fetchFault hdr f
  | none, some p => .away p
  | none, none =>
    let h := nthOr 0 (s.fetchWords x [hdr]) 0
    match sl.fell, isHeader h with
    | some n, false =>
      .fault { code := fIllegalEncoding, addr := hdr, detail0 := h.toNat } sl.hdr hdr (n + 1)
    | _, _ =>
      match decodeHeader h with
      | some (.clauseHeader _ _ _ len) =>
        let vas := clauseVas hdr (len.toNat + 1)
        match s.fetchFail x vas, vas.findSome? (s.codeAway x) with
        | some f, _ => fetchFault hdr f
        | none, some p => .away p
        | none, none =>
          let ws := s.fetchWords x vas
          match clauseUndefined x.jtabs.length ws with
          | some k => rejected hdr k (nthOr 0 ws k)
          | none => .clause ws
      | _ => rejected hdr 0 h

/-! ### Making a word ready -/

/-- What becomes of a turn: a state in which a word is ready for exec, or one in which nothing issues. -/
structure Ready where
  state : State
  word : Option Instr := none
  deriving DecidableEq, Repr

/-- The issue record of slices of a gang at their next word. -/
def issueOf (c g slices : Nat) (sl : Slice) (ups : List Upset) : Issue :=
  { ctx := c, gang := g, slices := slices, hdr := if sl.widx = 0 then sl.pc else sl.hdr, pc := sl.pc, widx := sl.widx,
    word := nthOr 0 sl.clause sl.widx, upsets := ups }

/-- Puts a fetched clause into the issuing slices. DEDUCED, safe: log entry 15. -/
def State.holdClause (ws : List Word) (s : State) : State :=
  s.modGg (fun g => g.modSlices s.issue.slices (fun _ sl => { sl with clause := ws, hdr := s.issue.pc }))

/-- Makes slices of a gang ready to issue: at a join they park instead (R113); at a header the clause is fetched first
(R62); a word that is interlocked waits (R69). DESIGN CHOICE, safe: log entry 2. -/
def State.prepare (c g slices : Nat) (ups : List Upset) (s : State) : Ready :=
  let x := (s.ctxOf c).getD {}
  let sl := (x.gang g).slice (leastOr 0 (slicesOf slices))
  let s1 := { s with issue := issueOf c g slices sl ups }
  if sl.widx = 0 then
    if sl.clause = [] then
      if (x.gang g).atJoin slices != [] then { state := (s1.modGg (Gang.parkAtJoin slices)).afterMove }
      else match s1.fetch x sl with
      | .away p => { state := s1.askCode x.part x.core p }
      | .fault f hdr pc widx => { state := s1.raiseAt f hdr pc widx }
      | .clause ws =>
        { state := (s1.fillCode x (clauseVas sl.pc ws.length)).holdClause ws, word := decodeHeader (nthOr 0 ws 0) }
    else { state := s1, word := decodeHeader (nthOr 0 sl.clause 0) }
  else
    match decodeWord (nthOr 0 sl.clause sl.widx) with
    | none => { state := s1.raise { code := fIllegalEncoding } }
    | some i => if s1.interlocked i then { state := s1 } else { state := s1, word := some i }

/-- The slices that a gang issues for at its turn: its current sub-gang, unless that is stalled at a full ring slot. -/
def Gang.issues (g : Gang) : Nat :=
  match g.cur with
  | some sub =>
      let m := g.subMask sub
      if (g.slice (leastOr 0 (slicesOf m))).ringStall.isSome then 0 else m
  | none => 0

/-! ### Issue groups (R117, R118) -/

/-- The portions of an issue group: per home gang the slices that are still in it. -/
def Ctx.portions (x : Ctx) (j : Nat) : List (Nat × Nat) :=
  (List.range x.gangs.length).filterMap (fun g =>
    match (x.gang g).which (fun sl => sl.st == .grouped j) with
    | [] => none
    | is => some (g, maskOf is))

/-- Instructions that an issue group executes without dissolving (Table 4-6), and its own YIELD (R118). -/
def groupMay : Instr → Bool
  | .add _ _ _ _ | .sub _ _ _ _ | .mul _ _ _ _ | .mulhi _ _ _ _ | .mad _ _ _ _ | .madw _ _ _ _ | .addc _ _ _ _
  | .subb _ _ _ _ | .min _ _ _ _ | .max _ _ _ _ | .abs _ _ _ | .neg _ _ _ | .and _ _ _ _ | .or _ _ _ _ | .xor _ _ _ _
  | .not _ _ _ | .shl _ _ _ _ | .shr _ _ _ _ | .sar _ _ _ _ | .rot _ _ _ _ | .clz _ _ _ | .popc _ _ _ | .brev _ _ _
  | .bfe _ _ _ _ | .bfi _ _ _ _ | .sel _ _ _ _ | .cmp _ _ _ _ | .mov _ _ _ | .movW8 _ _ _ | .ldi _ _ | .ldih _ _
  | .fadd _ _ _ _ | .fsub _ _ _ _ | .fmul _ _ _ _ | .ffma _ _ _ _ | .fmin _ _ _ _ | .fmax _ _ _ _ | .fabs _ _ _
  | .fneg _ _ _ | .fcmp _ _ _ _ | .fclass _ _ _ | .fsqrt _ _ _ | .frcp _ _ _ | .frsq _ _ _ | .fexp2 _ _ _ | .flog2 _ _ _
  | .fsin _ _ _ | .fcos _ _ _ | .fdivs _ _ _ _ | .cvt _ _ _ _ _ | .pack2 _ _ _ _
  | .ld _ _ _ _ _ _ | .st _ _ _ _ _ _ | .lds _ _ _ _ _ | .sts _ _ _ _ _ | .ldc _ _ _ _ | .atom _ _ _ _ _ _
  | .atomnr _ _ _ _ _ _ | .cas _ _ _ _ _ _ | .fence _ _ | .pfence _ _ | .pref _ _ _ | .cctlInv _ _ | .cctlWb _ _
  | .cctlInvl1 | .msave _ | .mload _ _ | .mand _ _ | .mandn _ _ | .mor _ _ | .mset | .mode _ | .guard _ _
  | .guardInverted _ _ | .guardOff | .nop | .bra _ | .call _ | .exit | .bzm _ | .bnzm _ | .bany _ _ _ | .ball _ _ _
  | .ret | .yield | .yieldRegroup => true
  /- a header that names no flag -/
  | .clauseHeader wait fa fb _ => wait == 0 && fa == 0xF && fb == 0xF
  | _ => false

/-- The word that a slice issues next, where its clause has been fetched. -/
def Slice.nextWord (sl : Slice) : Option Instr :=
  if sl.widx = 0 then decodeHeader (nthOr 0 sl.clause 0) else decodeWord (nthOr 0 sl.clause sl.widx)

/-- How far a slice is: unchanged by a word that waits. -/
def Slice.place (sl : Slice) : Nat × SliceState := (sl.widx, sl.st)

/-- Whether a word has taken every slice of a portion onwards. -/
def movedOn (before after : Ctx) (p : Nat × Nat) : Bool :=
  (slicesOf p.2).all (fun i => ((before.gang p.1).slice i).place != ((after.gang p.1).slice i).place)

/-- The requests for code that a trial has made are made (R65). -/
def State.keepAsks (trial s : State) (x : Ctx) : State :=
  ((trial.pendings.map (fun e => e.2.use) ++ trial.unsent.map (·.use)).filterMap (fun u => match u with
    | .code core loc hold fresh =>
      if core == x.core && fresh && !s.codeAsked core loc then some (loc, hold) else none
    | .lanes _ _ _ | .command _ | .chunk _ _ | .front | .frontRead _ => none)).foldl (fun t e => t.askSector x.part x.core e.1 e.2) s

/-- The end of an issue group's word (R118): a plain YIELD that has taken effect, or nobody left, dissolves it; its
words count against its own quantum (R95). -/
def State.endGroupWord (c j : Nat) (asked : Bool) (s : State) : State :=
  s.modCtx c (fun x =>
    if x.portions j = [] || asked then x.dissolve j
    else { x with groups := Tab.update j (fun k =>
      { k with quantum := if Config.quantum ≤ k.quantum + 1 then 0 else k.quantum + 1 }) x.groups })

/-- Whether the members of an issue group are all at one place. -/
def Ctx.agree (x : Ctx) (j : Nat) : Bool :=
  let pcs := (x.portions j).flatMap (fun p => (slicesOf p.2).map (fun i =>
    (((x.gang p.1).slice i).pc, ((x.gang p.1).slice i).widx)))
  match pcs with | [] => true | a :: t => t.all (· == a)

/-- Whether a slice is at the last word of its clause. -/
def Slice.atLast (sl : Slice) : Bool := sl.clause != [] && sl.widx == sl.clause.length - 1

/-- Runs the next word of portions one after the other (R118); run is exec. -/
def State.runPortions (run : Instr → State → Result) (c : Nat) (ups : List Upset) : List (Nat × Nat) → State → State
  | [], s => s
  | (g, m) :: t, s =>
    match s.prepare c g m ups with
    | { state := s1, word := none } => State.runPortions run c ups t s1
    | { state := s1, word := some i } =>
      match run i s1 with
      | .next s2 => State.runPortions run c ups t s2
      | .fault _ => State.runPortions run c ups t s1
      | .refused _ => State.runPortions run c ups t s1

/-- Runs a word of an issue group in all its portions (R118): where it would fault or its slices would part, the group
dissolves instead; where a portion waits, the group waits. -/
def State.runGroup (run : Instr → State → Result) (c j : Nat) (ups : List Upset) (asked : Bool) (s : State) : State :=
  let x := (s.ctxOf c).getD {}
  let ps := x.portions j
  let trial := s.runPortions run c ups ps
  let y := (trial.ctxOf c).getD {}
  if y.run != .running || !y.agree j then s.modCtx c (Ctx.dissolve j)
  else if ps.all (movedOn x y) then trial.endGroupWord c j asked
  else s.keepAsks trial x

/-- The turn of an issue group (R118). -/
def State.groupTurn (run : Instr → State → Result) (c j : Nat) (ups : List Upset) (s : State) : State :=
  let x := (s.ctxOf c).getD {}
  match x.portions j with
  | [] => s.modCtx c (Ctx.dissolve j)
  | (g, m) :: _ =>
    let sl := (x.gang g).slice (leastOr 0 (slicesOf m))
    let go := fun (w : Option Instr) =>
      match w with
      | some i =>
        if groupMay i then
          s.runGroup run c j ups (sl.atLast && (sl.yieldAsk == .plain || i == .yield))
        else s.modCtx c (Ctx.dissolve j)
      | none => s.modCtx c (Ctx.dissolve j)
    if sl.widx = 0 && sl.clause = [] then
      match s.fetch x sl with
      | .away p => s.askCode x.part x.core p
      | .fault _ _ _ _ => s.modCtx c (Ctx.dissolve j)
      | .clause ws => go (decodeHeader (nthOr 0 ws 0))
    else go sl.nextWord

end Sys2Proof.Machine
end

