-- ==== Sys2Proof/Machine/Engine.lean ====
section
/-! DEFINITION. What all engines share: issue and publication of a command (R12-R16, R20, R21), its status word and
its completion in the core (R17-R23, R44), ranges that engines read and write, and the check against live barrier
words (R205). -/

namespace Sys2Proof.Machine

/-! ### Commands -/

/-- A command of a number. -/
def State.cmd (s : State) (k : Nat) : Option Cmd := Tab.find k s.cmds

/-- Changes a command. -/
def State.modCmd (k : Nat) (f : Cmd → Cmd) (s : State) : State := { s with cmds := Tab.update k f s.cmds }

/-- Word n of a command as a number. -/
def Cmd.w (c : Cmd) (n : Nat) : Nat := (nthOr 0 c.words n).toNat

/-- A 64-bit value in words n and n+1, low word first. -/
def Cmd.dword (c : Cmd) (n : Nat) : Nat := c.w n + 2 ^ 32 * c.w (n + 1)

/-- ESP of a control word (Table 1-3). -/
def Cmd.esp (c : Cmd) : Nat := bits (c.w 0) 7 0

/-- ACQ of a control word. -/
def Cmd.acq (c : Cmd) : Bool := bit (c.w 0) 23
/-- REL of a control word. -/
def Cmd.rel (c : Cmd) : Bool := bit (c.w 0) 22
/-- SCOPE of a control word. -/
def Cmd.scope (c : Cmd) : Nat := bits (c.w 0) 21 19

/-- Scope of the completion release (R22, R44 item 3). -/
def Cmd.relScope (c : Cmd) : Nat := if c.rel then c.scope else 0

/-- The ring that a command came from: context, gang, slices, sequence number, slot, destination register. -/
structure RingRef where
  ctx : Nat
  gang : Nat
  slices : Nat
  seq : Nat
  slot : Nat
  dest : Nat
  deriving DecidableEq, Repr

/-- The ring of a command, where it came from one. -/
def Cmd.ring (c : Cmd) : Option RingRef :=
  match c.origin with
  | .ring ctx gang slices seq slot dest =>
    some { ctx := ctx, gang := gang, slices := slices, seq := seq, slot := slot, dest := dest }
  | .chain _ _ _ | .node _ _ => none

/-- Whether a command completes by a flag (CK, Table 1-3). -/
def Cmd.flagKind (c : Cmd) : Bool := bits (c.w 0) 15 14 == 2

/-- Whether a command is what the collective engine reads at peers for a step of an SWRED (R371). -/
def Cmd.gathers (c : Cmd) : Bool := c.eng == 5 && c.op == 2

/-- Barrier or flag number of a command (CN, Table 1-3). -/
def Cmd.cn (c : Cmd) : Nat := bits (c.w 0) 13 8

/-! ### Issue (R12-R16) -/

/-- What an engine instruction fixes, and its chapter's issue-time check on its command words, with their P bits. -/
structure EngSpec where
  eng : Nat
  op : Nat
  flagKind : Bool
  check : Nat → List Nat → List Bool → State → Option FaultInfo

/-- Command words of the issuing slices' leader lane (R12). -/
def State.cmdWords (s : State) (a : Nat) : List Nat := (List.range 8).map (fun i => (s.lead (a + i)).val.toNat)

/-- P bits of the command words. -/
def State.cmdPoison (s : State) (a : Nat) : List Bool := (List.range 8).map (fun i => (s.lead (a + i)).p)

/-- COMMAND_INVALID at command word k (R420). DEDUCED, unsafe: log entry 54. -/
def State.invalidWord (s : State) (k : Nat) (ws : List Nat) : FaultInfo :=
  { code := fCommandInvalid, lanes := 2 ^ s.leader, detail0 := k, detail1 := nthOr 0 ws k }

/-- POISON_CONTROL of command word k. -/
def State.poisonWord (s : State) (a k : Nat) : FaultInfo :=
  { code := fPoisonControl, lanes := 2 ^ s.leader, detail0 := a + k }

/-- COMMAND_INVALID at the first command word that breaks its table: a list of tests by word. -/
def State.wordsFault (s : State) (ws : List Nat) (bad : List (Nat × Bool)) : Option FaultInfo :=
  (bad.find? (·.2)).map (fun e => s.invalidWord e.1 ws)

/-- POISON_CONTROL at the first of some command words that carries P. -/
def State.poisonFaults (s : State) (a : Nat) (ps : List Bool) (ks : List Nat) : Option FaultInfo :=
  (ks.find? (fun k => nthOr false ps k)).map (fun k => s.poisonWord a k)

/-- Whether an XCP or XCPR names a barrier of another workgroup (R15 item 3). -/
def namesAfar (e : EngSpec) (ws : List Nat) : Bool := e.eng == 2 && e.op ≤ 1 && bit (nthOr 0 ws 7) 31

/-- The checks before publication (R12, R15), in their order. -/
def State.engineFault (e : EngSpec) (d a b : Nat) (s : State) : Option FaultInfo :=
  let ws := s.cmdWords a
  let ps := s.cmdPoison a
  firstFault [
    s.regRange [{ code := 0, reg := d, isElem := false }, { code := 1, reg := a, isElem := false, count := 8 }] false,
    faultIf (nthOr false ps 0) (s.poisonWord a 0),
    faultIf (5 < bits (nthOr 0 ws 0) 21 19) (s.invalidWord 0 ws),
    faultIf (!e.flagKind && !namesAfar e ws && s.cx.nbar ≤ b) { code := fBarrierRange, detail0 := b },
    e.check a ws ps s]

/-- The control word that is published (Table 1-3). -/
def controlWord (e : EngSpec) (b w : Nat) : Nat :=
  bits w 7 0 + 2 ^ 8 * (b % 64) + 2 ^ 14 * (if e.flagKind then 2 else 1) + 2 ^ 19 * bits w 23 19 + 2 ^ 24 * (e.op % 16)
    + 2 ^ 28 * (e.eng % 16)

/-- The issue word (Table 1-4). -/
def issueWord (seq slot : Nat) : Word := BitVec.ofNat 32 (2 ^ 16 * (seq % 2 ^ 16) + 2 ^ 8 * slot)

/-- Window offset of a ring entry (R13). -/
def Ctx.entryAt (x : Ctx) (slot : Nat) : Nat := x.scratch + 32 * slot
/-- Window offset of a status word (R13). -/
def Ctx.statusAt (x : Ctx) (slot : Nat) : Nat := x.scratch + 2048 + 4 * slot

/-- Whether a ring slot holds a command that has not completed (R16). -/
def Ctx.slotBusy (x : Ctx) (slot : Nat) : Bool :=
  match Tab.find slot x.slots with | some r => !r.done | none => false

/-- The issuing sub-gang stalls at a full ring slot, and a watchdog counts it (R16, R209). DESIGN CHOICE, safe: log
entry 27. -/
def State.stallRing (slot : Nat) (s : State) : State :=
  (s.modGg (fun g => g.modSlices s.issue.slices (fun _ sl =>
    { sl with ringStall := some (sl.ringStall.getD (s.cycle (dieOf s.cx.core))) }))).startWatch s.issue.ctx s.issue.gang 0
    (.ring slot)

/-- The command of the issuing slices as published. -/
def State.newCmd (e : EngSpec) (d a b : Nat) (s : State) : Cmd :=
  let x := s.cx
  let ws := s.cmdWords a
  { origin := .ring s.issue.ctx s.issue.gang s.issue.slices x.seq (x.seq % 64) d,
    part := x.part, ctx := s.issue.ctx, core := x.core, eng := e.eng, op := e.op,
    words := (controlWord e b (nthOr 0 ws 0) :: ws.tail).map (BitVec.ofNat 32),
    flagB := s.clauseFlags.2 }

/-- Publication (R16): entry, status word, the core's record, sequence; vd and the flag (R21, R68). -/
def State.publish (e : EngSpec) (l : Bool) (d a b : Nat) (s : State) : State :=
  let x := s.cx
  let slot := x.seq % 64
  let c := s.newCmd e d a b
  let k := s.nextCmd
  let s1 := s.writeWindow s.issue.ctx
    [{ at_ := x.entryAt slot, bytes := c.words.flatMap (fun w => leBytes 4 w.toNat) },
     { at_ := x.statusAt slot, bytes := leBytes 4 0 }] []
  let s2 := { s1 with cmds := Tab.set k c s1.cmds, nextCmd := k + 1 }.modCx (fun y =>
    { y with seq := (y.seq + 1) % 2 ^ 32, slots := Tab.set slot { seq := x.seq, cmd := k } y.slots })
  let s3 := if e.flagKind then s2.modGg (fun g => { g with pend := NatSet.add d g.pend })
    else (s2.beforeRegs s.issue.ctx s.issue.gang [d]).modGg (fun g => g.setScalar d s.issue.slices (issueWord x.seq slot))
  ((s3.modGg (fun g => (g.countFlag c.flagB).modSlices s.issue.slices (fun _ sl => { sl with ringStall := none }))).post
    (.engineCommandStart k)).endWordL l a 8

/-- An engine instruction (R12-R16): its checks, the stall at a slot whose command has not completed, the release at
.core on behalf of the issuing slices, and publication. -/
def State.issueEngine (e : EngSpec) (l : Bool) (d a : BitVec 8) (b : BitVec 5) (s : State) : State :=
  s.checked (s.engineFault e d.toNat a.toNat b.toNat) (fun t =>
    if t.cx.slotBusy (t.cx.seq % 64) then t.stallRing (t.cx.seq % 64)
    else t.released 0 t.issue.slices (State.publish e l d.toNat a.toNat b.toNat))

/-! ### Completion in the core (R19-R23, R44) -/

/-- The status word of a completed command (Table 1-5). -/
def Cmd.status (c : Cmd) : Nat := 2 ^ 31 + 2 ^ 30 * ofBool c.err + c.code % 2 ^ 16

/-- A context to which the completion of a command is still delivered (R27): it has not been terminated. DEDUCED,
unsafe: log entry 57. -/
def Ctx.takesCompletions (x : Ctx) : Bool := x.run == .placed || x.run == .running || x.run == .stopping || x.run == .sealed || x.run == .reported

/-- The sub-gangs that stall at a ring slot. -/
def Ctx.stalledAt (c slot : Nat) (x : Ctx) : List Instr :=
  if x.seq % 64 = slot then
    (List.range x.gangs.length).flatMap (fun g =>
      (((x.gang g).which (fun sl => sl.runs && sl.ringStall.isSome)).map (fun i => ((x.gang g).slice i).sub)).eraseDups.map
        (fun sub => .ringStallEnd c g sub))
  else []

/-- Writes the status word and frees the slot for the core's stall test (R16, R22). -/
def State.finishSlot (r : RingRef) (c : Cmd) (s : State) : State :=
  match s.ctxOf r.ctx with
  | none => s
  | some x =>
    let s1 := (s.writeWindow r.ctx [{ at_ := x.statusAt r.slot, bytes := leBytes 4 c.status }] []).modCtx r.ctx (fun y =>
      { y with slots := Tab.update r.slot (fun k => if k.seq == r.seq then { k with done := true } else k) y.slots,
               watches := y.watches.filter (fun w => w.kind != .ring r.slot) })
    { s1 with agenda := s1.agenda ++ x.stalledAt r.ctx r.slot }

/-- Flag b of the issuing gang and its result word (R20, R21, R67). DEDUCED, unsafe: log entry 53. -/
def State.finishFlag (r : RingRef) (c : Cmd) (s : State) : State :=
  let s1 := if c.flagKind then
      (s.beforeRegs r.ctx r.gang [r.dest]).modGang r.ctx r.gang (fun g =>
        { g.setScalar r.dest r.slices c.result with pend := NatSet.drop r.dest g.pend })
    else s
  s1.modGang r.ctx r.gang (fun g => (g.uncountFlag c.flagB c.relScope).wakeFlags)

/-- Whether a copy's words name a workgroup of this package: DWG, with DREM = 0 or a DPKG that is this package (Table
11-3, R287). -/
def State.namesHere (s : State) (c : Cmd) : Bool :=
  bit (c.w 7) 31 && (!bit (c.w 7) 30 || s.podOf c.part (bits (c.w 7) 29 21) == some s.podPos)

/-- Whether a command is a copy that is still to arrive at another workgroup of this package (R25, R287). -/
def State.arrivesAt (s : State) (c : Cmd) (ctx : Nat) : Bool :=
  c.eng == 2 && c.op ≤ 1 && c.destArr && s.namesHere c && c.w 6 == ctx

/-- Whether a context has commands that have not completed or arrivals still out (R25). -/
def State.busyWith (s : State) (c : Nat) : Bool :=
  s.cmds.any (fun e => s.arrivesAt e.2 c || match e.2.ring with
    | some r => r.ctx == c && !e.2.cancelled && (e.2.state != .completed || e.2.destArr || e.2.remoteArr)
    | none => false)

/-- Whether a gang still holds its slot and its register granules: its last slice has not exited, or one of its loads is
in flight (R115). -/
def Gang.holds (g : Gang) : Bool := !g.ended || g.accesses.any (fun a => a.2.kind.loads)

/-- Whether a workgroup may retire: its gangs have ended and hold nothing, and nothing of it is out (R25, R115). -/
def State.mayRetire (s : State) (c : Nat) (x : Ctx) : Bool :=
  x.allEnded && x.gangs.all (fun g => !g.holds) && !s.busyWith c

/-- A context whose gangs have ended may retire once nothing of it is out (R25). -/
def State.askRetire (c : Nat) (s : State) : State :=
  match s.ctxOf c with
  | some x => if x.run == .running && s.mayRetire c x then s.post (.workgroupRetire c) else s
  | none => s

/-- Discards the lines of global memory that a command wrote from the L1 of a core, and from what its die holds of them
(Table 2-6, R317). DEDUCED, unsafe: log entry 91. -/
def State.discardWrote (core : Nat) (c : Cmd) (s : State) : State := s.dropDieLines core c.wrote

/-- A ring command completes in its core (R19-R23): discards, status word, then the arrival or the flag. arrives: it
arrives on barrier b of its own workgroup now. -/
def State.finishRing (k : Nat) (r : RingRef) (c : Cmd) (arrives : Bool) (s : State) : State :=
  match s.ctxOf r.ctx with
  | none => s.modCmd k (fun y => { y with state := .completed })
  | some x =>
    let s0 := s.modCmd k (fun y => { y with state := .completed })
    if x.takesCompletions && !c.cancelled then
      let s1 := (s0.discardWrote x.core c).finishSlot r c
      let s2 := if arrives && !c.flagKind then s1.arriveNamed r.ctx c.cn none c.err else s1
      (s2.finishFlag r c).askRetire r.ctx
    else s0

/-! ### Ranges of engines -/

/-- Where an engine's byte range lies: a context's window, a package or sys location or a peer's, or a core's physical
scratchpad outside every window. -/
inductive Spot where
  | window (c o : Nat)
  | loc (a : Nat)
  | raw (core o : Nat)
  deriving DecidableEq, Repr

/-- Whether an extent of global memory lies in the translated spaces without wrapping (Table 6-1). -/
def extentOk (va n : Nat) : Bool :=
  va + n ≤ 2 ^ 64 && translatedVa va && translatedVa (va + n - 1) && bit va 63 == bit (va + n - 1) 63

/-- Cuts n bytes from an address into pieces that do not cross a multiple of 256; f bounds their number. -/
def pieces : Nat → Nat → Nat → List (Nat × Nat)
  | 0, _, _ => []
  | f + 1, va, n =>
    if n = 0 then []
    else
      let m := Nat.min n (256 - va % 256)
      (va, m) :: pieces f (va + m) (n - m)

/-- The pieces of an extent. -/
def piecesOf (va n : Nat) : List (Nat × Nat) := pieces (n / 256 + 2) va n

/-- A piece of an extent of global memory: its location, its length and its leaf. -/
structure Piece where
  place : Place
  len : Nat
  deriving DecidableEq, Repr

/-- Translates an extent; the first failure in address order. -/
def State.extent (s : State) (part va n : Nat) (need : Need) : WalkFail ⊕ List Piece :=
  (piecesOf va n).foldr (fun e acc =>
    match s.translate part e.1 need with
    | .inl f => .inl f
    | .inr p => match acc with | .inl f => .inl f | .inr l => .inr ({ place := p, len := e.2 } :: l)) (.inr [])

/-- Bytes of a spot with the marks of their units, one per byte; a peer's bytes are not here. -/
def State.spotBytes (s : State) (p : Spot) (n : Nat) : List (Byte × Bool) :=
  match p with
  | .window c o =>
    let x := (s.ctxOf c).getD {}
    (List.range n).map (fun i => (x.window.get (o + i), NatSet.has ((o + i) / 4) x.windowMarks))
  | .loc a => (List.range n).map (fun i => (s.homeByte (a + i), s.homeMark (a + i)))
  | .raw k o => (List.range n).map (fun i => ((s.core k).raw.get (o + i), NatSet.has ((o + i) / 4) (s.core k).rawMarks))

/-- The live barrier that a range of a spot meets: the context or none, and its name (R205). -/
def State.barrierAt (s : State) (p : Spot) (n : Nat) : Option (Nat × BarName) :=
  match p with
  | .window c o =>
    match ((s.ctxOf c).getD {}).boundWords o n with
    | b :: _ => some (c, .named b)
    | [] => none
  | .loc a => if homeOf a = .package then (s.scopeWords a n).head?.map (fun l => (0, .scope l)) else none
  | .raw _ _ => none

/-- The units that poisoned bytes from an offset on touch. -/
def poisonedUnits (u a : Nat) (bs : List (Byte × Bool)) : List Nat :=
  ((List.range bs.length).filterMap (fun i => if (nthOr (0, false) bs i).2 then some ((a + i) / u) else none)).eraseDups

/-- A range that an engine writes: where, and bytes with marks. -/
abbrev Range := Spot × List (Byte × Bool)

/-- The ranges of a list that lie at spots that a test turns into offsets, with the units of u bytes that poisoned
bytes touch. -/
def segsOf (u : Nat) (at_ : Spot → Option Nat) (rs : List Range) : List Seg × List Nat :=
  let mine := rs.filterMap (fun r => (at_ r.1).map (fun o => (o, r.2)))
  (mine.map (fun r => { at_ := r.1, bytes := r.2.map (·.1) }), mine.flatMap (fun r => poisonedUnits u r.1 r.2))

/-- The contexts whose windows ranges lie in. -/
def windowsOf (rs : List Range) : List Nat :=
  (rs.filterMap (fun r => match r.1 with | .window c _ => some c | _ => none)).eraseDups

/-- The cores whose physical scratchpads ranges lie in. -/
def rawsOf (rs : List Range) : List Nat :=
  (rs.filterMap (fun r => match r.1 with | .raw k _ => some k | _ => none)).eraseDups

/-- Writes ranges of a core's physical scratchpad. DESIGN CHOICE, unsafe: log entry 56. -/
def State.writeRaw (rs : List Range) (s : State) (core : Nat) : State :=
  let (gs, bad) := segsOf 4 (fun p => match p with | .raw k o => if k = core then some o else none | _ => none) rs
  (s.beforeWrites ((segUnits 4 gs).map (fun w => s.rawBank core (4 * w)))).modCore core (fun k =>
    { k with raw := putSegs gs k.raw, rawMarks := newMarks 4 gs bad k.rawMarks })

/-- Writes ranges of a context's window. -/
def State.writeWin (rs : List Range) (s : State) (c : Nat) : State :=
  let (gs, bad) := segsOf 4 (fun p => match p with | .window k o => if k = c then some o else none | _ => none) rs
  s.writeWindow c gs bad

/-- An engine of a core writes ranges, all together (R173, R177), none of them at a peer: a write of memory passes
through the remote-data cache of its die. -/
def State.engWrite (core : Nat) (rs : List Range) (s : State) : State :=
  let (dram, bad) := segsOf 32 (fun p => match p with | .loc a => if a < fabricBase then some a else none | _ => none) rs
  let (sys, badSys) := segsOf 32 (fun p => match p with | .loc a => if sysBase ≤ a then some (a - sysBase) else none | _ => none) rs
  let s1 := (windowsOf rs).foldl (State.writeWin rs) s
  let s2 := (rawsOf rs).foldl (State.writeRaw rs) s1
  let s3 := if dram = [] then s2 else s2.writeDram dram bad
  let s4 := if sys = [] then s3 else s3.writeSys sys badSys
  if s4.rdc (dieOf core) = [] then s4
  else s4.dropRdc (dieOf core) (fun loc _ =>
    NatSet.has (sectorOf loc) (segUnits 32 (dram ++ sys.map (fun g => { g with at_ := g.at_ + sysBase }))))

/-- Notes the lines of global memory that a command writes. -/
def Cmd.noteLines (gs : List Seg) (c : Cmd) : Cmd :=
  { c with wrote := (segUnits 128 gs).foldl (fun t k => NatSet.add k t) c.wrote }

/-- Notes the lines of global memory among ranges that a command has written. -/
def Cmd.noteWrote (rs : List Range) (c : Cmd) : Cmd :=
  c.noteLines (segsOf 32 (fun p => match p with | .loc a => some a | _ => none) rs).1

/-- BARRIER_OVERLAP (R205). -/
def codeBarrierOverlap : Nat := 0xB001

/-- Completes a phase that an engine's range has met, with ERR (R205). -/
def State.forceMet (m : Nat × BarName) (s : State) : State := s.forcePhase m.1 m.2

/-- Marks a command as failed with a code. -/
def Cmd.fail (code : Nat) (c : Cmd) : Cmd := { c with err := true, code := code }

/-- The ranges before the first that meets a live barrier word, and what that one meets. DEDUCED, unsafe: log entry
21. -/
def State.clearRanges (s : State) : List Range → List Range × Option (Nat × BarName)
  | [] => ([], none)
  | r :: t =>
    match s.barrierAt r.1 r.2.length with
    | some m => ([], some m)
    | none => let (l, m) := s.clearRanges t; (r :: l, m)

/-- A command writes ranges in order (R205): it stops before the first that meets a live barrier word, completes that
barrier's phase and fails with BARRIER_OVERLAP. -/
def State.writeRanges (k core : Nat) (rs : List Range) (s : State) : State :=
  let (l, m) := s.clearRanges rs
  let s1 := (s.engWrite core l).modCmd k (Cmd.noteWrote l)
  match m with
  | some b => (s1.forceMet b).modCmd k (Cmd.fail codeBarrierOverlap)
  | none => s1

/-- A command rejected at acceptance or failed: its code (R23). -/
def State.rejectCmd (k code : Nat) (s : State) : State := s.modCmd k (Cmd.fail code)

/-! ### Peers (R30, R184, R352) -/

/-- Whether the functions of a partition have tags for n more requests (R354). -/
def State.roomFor (s : State) (part n : Nat) : Bool :=
  match s.vfOf part with | some v => s.outOf v + n ≤ 4096 | none => true

/-- Bytes at a peer that a command reads into its buffer: location, length, offset in the buffer. -/
structure AwayRead where
  loc : Nat
  len : Nat
  off : Nat
  deriving DecidableEq, Repr

/-- The read requests of a range inside one 256-byte block: each begins on a 32-byte boundary and asks for at most 208
bytes; its bytes from skip on go to the buffer from off on (R184, R354). -/
def AwayRead.parts (r : AwayRead) : List RemotePart :=
  let lo := 32 * (r.loc / 32)
  let n := r.loc + r.len - lo
  let skip := r.loc - lo
  if n ≤ 208 then [{ port := 64, tag := 0, addr := lo, len := n, lanes := [(r.off, skip)] }]
  else [{ port := 64, tag := 0, addr := lo, len := 192, lanes := [(r.off, skip)] },
        { port := 64, tag := 0, addr := lo + 192, len := n - 192, lanes := [(r.off + 192 - skip, 0)] }]

/-- Puts bytes with marks into a command's buffer: a byte and 256 for its mark. -/
def Cmd.putBuf (off : Nat) (bs : List (Byte × Bool)) (c : Cmd) : Cmd :=
  { c with data := c.data.take off ++ List.replicate (off - c.data.length) 0 ++
      bs.map (fun b => b.1.toNat + 256 * ofBool b.2) ++ c.data.drop (off + bs.length) }

/-- Bytes with marks of a command's buffer. -/
def Cmd.buf (c : Cmd) (off n : Nat) : List (Byte × Bool) :=
  (List.range n).map (fun i => let v := nthOr 0 c.data (off + i); (BitVec.ofNat 8 v, bit v 8))

/-- The bytes that a part brings are lost: zeros, poisoned. -/
def RemotePart.lost (r : RemotePart) : List (Byte × Bool) :=
  List.replicate (r.len - (r.lanes.map (·.2)).foldl Nat.max 0) (0, true)

/-- Where the bytes of a part go in the buffer. -/
def RemotePart.off (r : RemotePart) : Nat := match r.lanes with | (o, _) :: _ => o | [] => 0

/-- Sends the next read request of a command; one that no route serves brings poisoned zeros at once (R352). -/
def State.sendRead (k part : Nat) (r : RemotePart) (s : State) : State :=
  match s.routeOf part r.addr with
  | none =>
    { s with lostCount := s.lostCount + 1 }.modCmd k (fun c =>
      let c1 := c.putBuf r.off r.lost
      { c1 with remote := c1.remote ++ [{ r with done := true, failed := true }] })
  | some q =>
    let (tag, s1) := s.request q (.command k) 2 0 (memPayload (peerOf r.addr).2 r.len 0 0 [])
    s1.modCmd k (fun c => { c with remote := c.remote ++ [{ r with port := q.port, tag := tag }] })

/-- Cuts bytes at a location, inside one 256-byte block, into writes of at most 208, the first of 208, or of less where
that would divide an aligned 4-byte word (R305, R354, Table 14-10). DEDUCED, unsafe: log entry 54. -/
def cutWrites (kind rop loc : Nat) (bs : List (Byte × Bool)) : List Outgoing :=
  let n := 208 - loc % 4
  if bs.length ≤ 208 then [{ loc := loc, kind := kind, rop := rop, bytes := bs }]
  else [{ loc := loc, kind := kind, rop := rop, bytes := bs.take n },
        { loc := loc + n, kind := kind, rop := rop, bytes := bs.drop n }]

/-- The route of an arrival: the lowest port of the set (R352). -/
def State.arrivalRoute (s : State) (part pkg : Nat) : Option Route :=
  match s.vfOf part, s.podOf part pkg with
  | some v, some pod => if (s.vf v).st == .live then (s.lowPort v).map (fun p => { vf := v, port := p, pod := pod }) else none
  | _, _ => none

/-- Sends the arrival of a command at the workgroup of another package, whose logical number stands for its location;
one that no route serves is lost at once (R287, R288). -/
def State.sendArrived (k part : Nat) (o : Outgoing) (s : State) : State :=
  let part0 : RemotePart := { port := 64, tag := 0, addr := 0, len := 0, lanes := [] }
  match s.arrivalRoute part o.loc with
  | none =>
    { s with lostCount := s.lostCount + 1 }.modCmd k (fun c =>
      { c with err := true, remote := c.remote ++ [{ part0 with done := true, failed := true }] })
  | some q =>
    let (tag, s1) := s.request q (.command k) 7 2 (o.bytes.map (·.1))
    s1.modCmd k (fun c => { c with remote := c.remote ++ [{ part0 with port := q.port, tag := tag }] })

/-- Sends the next write of a command; one that no route serves is lost at once. -/
def State.sendWrite (k part : Nat) (o : Outgoing) (s : State) : State :=
  if o.kind = 7 then s.sendArrived k part o else
  let part0 : RemotePart := { port := 64, tag := 0, addr := o.loc, len := o.bytes.length, lanes := [] }
  match s.routeOf part o.loc with
  | none =>
    { s with lostCount := s.lostCount + 1 }.modCmd k (fun c =>
      { c with remote := c.remote ++ [{ part0 with done := true, failed := true }] })
  | some q =>
    let (tag, s1) := s.request q (.command k) o.kind (match s.cmd k with | some c => c.vc | none => 0)
      (memPayload (peerOf o.loc).2 o.bytes.length (pmOf (o.bytes.map (·.2))) o.rop (o.bytes.map (·.1)))
    s1.modCmd k (fun c => { c with remote := c.remote ++ [{ part0 with port := q.port, tag := tag }] })

/-- Whether some part of a command was lost. -/
def Cmd.lostAny (c : Cmd) : Bool := c.remote.any (·.failed)

/-- A copy that has lost a message stops at its stop point (R288): it asks for no further byte. -/
def Cmd.halted (c : Cmd) : Bool := c.eng == 2 && c.lostAny

/-- The writes that a copy's stop point leaves to be sent: the rest of the 256-byte blocks whose writes have begun (R288).
-/
def Cmd.begun (c : Cmd) : List Outgoing :=
  c.toWrite.filter (fun o => o.kind == 7 || c.remote.any (fun r => r.lanes = [] && r.addr / 256 = o.loc / 256))

/-- A halted copy's waiting writes. -/
def Cmd.halt (c : Cmd) : Cmd := if c.halted then { c with toWrite := c.begun } else c

/-- Sends the requests of a command that wait, as far as tags are free; f bounds their number (R354). -/
def State.pump (k : Nat) : Nat → State → State
  | 0, s => s
  | f + 1, s0 =>
    let s := s0.modCmd k Cmd.halt
    match s.cmd k with
    | none => s
    | some c =>
      if !s.roomFor c.part 1 then s
      else
        match (if c.halted then [] else c.toRead), c.toWrite with
        | r :: t, _ => State.pump k f ((s.modCmd k (fun y => { y with toRead := t })).sendRead k c.part r)
        | [], o :: t => State.pump k f ((s.modCmd k (fun y => { y with toWrite := t })).sendWrite k c.part o)
        | [], [] => s

/-- Sends what waits of a command. -/
def State.pumpCmd (k : Nat) (s : State) : State := State.pump k 4096 s

/-- Whether nothing of a command is out at peers. -/
def Cmd.settled (c : Cmd) : Bool := (c.toRead = [] || c.halted) && c.toWrite = [] && c.remote.all (·.done)

/-- Sends what waits of every command, after tags have come free. -/
def State.pumpAll (s : State) : State :=
  (s.cmds.filter (fun e => e.2.toRead != [] || e.2.toWrite != [])).foldl (fun t e =>
    let u := t.pumpCmd e.1
    if (u.cmd e.1).any (·.settled) then u.post (.commandCompletion e.1) else u) s

/-- A command asks peers for bytes. -/
def State.askReads (k : Nat) (rs : List RemotePart) (s : State) : State :=
  (s.modCmd k (fun c => { c with toRead := c.toRead ++ rs })).pumpCmd k

/-- A command writes at peers. -/
def State.askWrites (k : Nat) (os : List Outgoing) (s : State) : State :=
  (s.modCmd k (fun c =>
    Cmd.noteLines (os.map (fun o => ({ at_ := o.loc, bytes := o.bytes.map (·.1) } : Seg)))
      { c with toWrite := c.toWrite ++ os })).pumpCmd k

/-- The part of a command that a port and tag name. -/
def Cmd.partAt (c : Cmd) (port tag : Nat) : Option RemotePart :=
  c.remote.find? (fun r => r.port == port && r.tag == tag && !r.done)

/-- Marks the part of a command that a port and tag name as done. -/
def Cmd.answered (port tag : Nat) (failed : Bool) (c : Cmd) : Cmd :=
  { c with remote := c.remote.map (fun r =>
      if r.port == port && r.tag == tag && !r.done then { r with done := true, failed := failed } else r) }

/-- A part of a command is answered by a peer: what f does to the command; once nothing is out the command goes on. -/
def State.answerCmd (k port tag : Nat) (failed : Bool) (f : RemotePart → Cmd → Cmd) (s : State) : State :=
  match s.cmd k with
  | none => s
  | some c =>
    match c.partAt port tag with
    | none => s
    | some r =>
      let c1 := (f r c).answered port tag failed
      let s1 := s.modCmd k (fun _ => c1)
      let s2 := if failed then { s1 with lostCount := s1.lostCount + 1 } else s1
      let s3 := s2.pumpCmd k
      if (s3.cmd k).all (·.settled) then s3.post (.commandCompletion k) else s3

/-- A part of a command is lost (R288, R234): what it was to bring is poison. -/
def State.loseCmdPart (k port tag : Nat) (s : State) : State :=
  s.answerCmd k port tag true (fun r c => if r.lanes = [] then c else c.putBuf r.off r.lost)

end Sys2Proof.Machine
end

