-- ==== Sys2Proof/Machine/Launch.lean ====
section
/-! DEFINITION. Launches: reading and checking a kernel header (R89-R92), launch nodes and the ready pool (R28, R392,
R393), LAUNCH and its answer (R211, R212), and the policy hooks' calls (R381). -/

namespace Sys2Proof.Machine

/-! ### What the front end reads in a partition's address space -/

/-- The sectors of a piece, by location. -/
def Piece.sectors (e : Piece) : List Nat :=
  let k := sectorOf e.place.loc
  (List.range (sectorOf (e.place.loc + e.len - 1) + 1 - k)).map (fun i => 32 * (k + i))

/-- Bytes of a piece as the front end reads them: those of this package, or what the peer has answered for this happening;
a sector at a peer that has not come yet is missed, and the happening then does nothing. -/
def State.frontPiece (e : Piece) (s : State) : List Byte × State :=
  match homeOf e.place.loc with
  | .fabric =>
    let miss := e.sectors.filter (fun k => (Tab.find k s.frontHeld).isNone)
    (((e.sectors.flatMap (fun k => Tab.read [] k s.frontHeld)).drop (e.place.loc % 32)).take e.len,
     if miss = [] then s else { s with frontMiss := s.frontMiss ++ miss })
  | .package | .sys => (s.homeBytes e.place.loc e.len, s)

/-- Whether a sector of a piece has been lost on its way from a peer. -/
def State.frontLost (s : State) (e : Piece) : Bool :=
  homeOf e.place.loc == .fabric && e.sectors.any (fun k => Tab.find k s.frontHeld == some [])

/-- Reads n bytes at a virtual address of a partition; none where they do not translate for the access, or are lost at a
peer. DESIGN CHOICE, unsafe: log entry 80. -/
def State.frontRead (p va n : Nat) (need : Need) (s : State) : Option (List Byte) × State :=
  if !extentOk va n then (none, s)
  else
    match s.extent p va n need with
    | .inl _ => (none, s)
    | .inr ps =>
      if ps.any s.frontLost then (none, s)
      else
        let (bs, t) := ps.foldl (fun acc e => let (b, u) := acc.2.frontPiece e; (acc.1 ++ b, u)) (([] : List Byte), s)
        (some bs, t)

/-- A field of n bytes of a byte string. -/
def fieldOf (bs : List Byte) (off n : Nat) : Nat := ofLeBytes ((bs.drop off).take n)

/-- Whether n bytes from an offset on are zero. -/
def zeroAt (bs : List Byte) (off n : Nat) : Bool := ((bs.drop off).take n).all (fun b => b == 0)

/-! ### Kernel headers (Table 3-15) -/

/-- A kernel header as the front end keeps it. -/
structure Kernel where
  lmode : Nat
  regs : Nat
  gangs : Nat
  nbar : Nat
  scratch : Nat
  prio : Nat
  oppoint : Nat
  njtab : Nat
  codeOff : Nat
  codeSize : Nat
  jtabOff : Nat
  dataOff : Nat
  dataSize : Nat
  deriving DecidableEq, Repr

/-- The fields of a header's 64 bytes. -/
def kernelOf (b : List Byte) : Kernel :=
  { lmode := fieldOf b 0x06 2 % 4, regs := fieldOf b 0x08 2, gangs := fieldOf b 0x0A 1, nbar := fieldOf b 0x0B 1,
    scratch := fieldOf b 0x0C 4, prio := fieldOf b 0x10 1, oppoint := fieldOf b 0x11 1, njtab := fieldOf b 0x12 2,
    codeOff := fieldOf b 0x14 4, codeSize := fieldOf b 0x18 4, jtabOff := fieldOf b 0x1C 4, dataOff := fieldOf b 0x20 4,
    dataSize := fieldOf b 0x24 4 }

/-- Whether every field of a header lies in its range, its reserved bytes are zero, and GANGS times REGS is at most
4,096 (R89, R92). -/
def kernelOk (b : List Byte) : Bool :=
  let k := kernelOf b
  fieldOf b 0 4 == 0x4C454B48 && fieldOf b 4 2 == 1 && fieldOf b 6 2 < 3 &&
  8 ≤ k.regs && k.regs ≤ 256 && k.regs % 8 == 0 && 1 ≤ k.gangs && k.gangs ≤ 16 && k.nbar ≤ 16 &&
  k.scratch % 256 == 0 && k.scratch ≤ 521984 && k.prio ≤ 23 && k.oppoint ≤ 7 && k.njtab ≤ 256 &&
  k.codeOff % 128 == 0 && k.codeSize % 4 == 0 && (k.njtab != 0 || k.jtabOff == 0) &&
  k.dataOff % 4096 == 0 && (k.dataSize != 0 || k.dataOff == 0) && zeroAt b 0x28 24 && k.gangs * k.regs ≤ 4096

/-- Whether a range that a header names translates (R92). -/
def State.namedRange (s : State) (p va n : Nat) (need : Need) : Bool :=
  n == 0 || (extentOk va n && (match s.extent p va n need with | .inr _ => true | .inl _ => false))

/-- A jump table: token, JOIN and TARGETs as byte offsets in the code (R91); none where it breaks its layout. DEDUCED,
unsafe: log entry 16. -/
def jumpTable (codeSize : Nat) (ws : List Nat) : Option (Nat × Nat × List Nat) :=
  match ws with
  | ctrl :: join :: ts =>
    let n := bits ctrl 6 0
    let inCode := fun o => o % 4 == 0 && decide (o < codeSize)
    if n = 0 ∨ 64 < n ∨ bits ctrl 31 11 ≠ 0 ∨ bit ctrl 7 ∨ !inCode join ∨ !(ts.take n).all inCode ∨ ts.length < n then none
    else some (bits ctrl 10 8, join, ts.take n)
  | _ => none

/-- The 32-bit words of a byte string; f bounds their number. -/
def wordsOf : Nat → List Byte → List Nat
  | 0, _ => []
  | f + 1, bs => if bs.length < 4 then [] else ofLeBytes (bs.take 4) :: wordsOf f (bs.drop 4)

/-- Reads one jump table: its two leading words, then as many as COUNT says. -/
def State.readTable (p va codeSize : Nat) (s : State) : Option (Nat × Nat × List Nat) × State :=
  match s.frontRead p va 8 { r := true } with
  | (none, t) => (none, t)
  | (some b, t) =>
    match t.frontRead p va (8 + 4 * Nat.min 64 (bits (fieldOf b 0 4) 6 0)) { r := true } with
    | (none, u) => (none, u)
    | (some bs, u) => (jumpTable codeSize (wordsOf 66 bs), u)

/-- Reads the jump tables whose offsets a directory lists. DEDUCED, unsafe: log entry 16. -/
def State.readTables (p khdr codeSize : Nat) : List Nat → State → Option (List (Nat × Nat × List Nat)) × State
  | [], s => (some [], s)
  | o :: os, s =>
    match s.readTable p (khdr + o) codeSize with
    | (none, t) => (none, t)
    | (some j, t) =>
      match State.readTables p khdr codeSize os t with
      | (none, u) => (none, u)
      | (some js, u) => (some (j :: js), u)

/-- A kernel with its jump tables, whose JOIN and TARGETs are offsets in the code. -/
structure Loaded where
  kernel : Kernel
  tables : List (Nat × Nat × List Nat)
  deriving DecidableEq, Repr

/-- Reads and checks a kernel header for a launch of a partition (R92). -/
def State.loadKernel (p khdr : Nat) (s : State) : Option Loaded × State :=
  match s.frontRead p khdr 64 { r := true } with
  | (none, t) => (none, t)
  | (some b, t) =>
    let k := kernelOf b
    if !(kernelOk b && t.namedRange p (khdr + k.codeOff) k.codeSize { x := true } &&
        t.namedRange p (khdr + k.dataOff) k.dataSize { r := true }) then (none, t)
    else
      match t.frontRead p (khdr + k.jtabOff) (4 * k.njtab) { r := true } with
      | (none, u) => if k.njtab = 0 then (some { kernel := k, tables := [] }, u) else (none, u)
      | (some d, u) =>
        match u.readTables p khdr k.codeSize (wordsOf 256 d) with
        | (none, v) => (none, v)
        | (some js, v) => (some { kernel := k, tables := js }, v)

/-! ### Launch descriptors (Table 7-4) -/

/-- The placement class of a launch (R90). -/
inductive PlaceClass where
  | quad
  | die
  | wider
  deriving DecidableEq, Repr

/-- The launch mode in force: 0 neither, 1 compaction, 2 duplex (R90). -/
def launchMode (c : PlaceClass) (lmode : Nat) : Nat :=
  match c with
  | .quad => if lmode = 2 then 2 else 1
  | .die => lmode
  | .wider => 2

/-- A launch as asked for: its partition, origin, descriptor words, PLACE, the scope instance of a device launch, the
scope of its acquire, its class and nesting depth, and whether it starts a service context. -/
structure LaunchReq where
  part : Nat
  origin : LaunchFrom
  words : List Nat
  prio : Option Nat := none
  place : Nat := 0
  within : Option (Nat × Nat) := none
  acq : Nat := 5
  cls : PlaceClass
  depth : Nat := 0
  svc : Bool := false
  deriving DecidableEq, Repr

/-- Word n of a launch descriptor. -/
def LaunchReq.w (r : LaunchReq) (n : Nat) : Nat := nthOr 0 r.words n
/-- KHDR. -/
def LaunchReq.khdr (r : LaunchReq) : Nat := r.w 1 + 2 ^ 32 * r.w 2
/-- KARG. -/
def LaunchReq.karg (r : LaunchReq) : Nat := r.w 6 + 2 ^ 32 * r.w 7
/-- Workgroups in x, y and z. -/
def LaunchReq.nwg (r : LaunchReq) : List Nat := [r.w 3, bits (r.w 4) 15 0, bits (r.w 5) 15 0]

/-- LST 0x07: the descriptor is invalid (R212). -/
def LaunchReq.invalid (r : LaunchReq) : Bool :=
  let prio := bits (r.w 0) 23 16
  let oppt := bits (r.w 0) 15 8
  bits (r.w 0) 31 24 != 0 || bits (r.w 0) 7 0 != 0 || bits (r.w 4) 31 16 != 0 || bits (r.w 5) 31 16 != 0 ||
  r.khdr % 64 != 0 || (r.prio.isNone && (24 ≤ prio && prio ≤ 254)) || (8 ≤ oppt && oppt ≤ 254)

/-- LST 0x03: the geometry is invalid. -/
def LaunchReq.badShape (r : LaunchReq) : Bool :=
  r.w 3 == 0 || 2 ^ 31 - 1 < r.w 3 || bits (r.w 4) 15 0 == 0 || bits (r.w 5) 15 0 == 0

/-- The priority of a launch: that of its graph node, or of its descriptor, or of the kernel. -/
def LaunchReq.level (r : LaunchReq) (k : Kernel) : Nat :=
  r.prio.getD (if bits (r.w 0) 23 16 = 0xFF then k.prio else bits (r.w 0) 23 16)

/-- What each workgroup of a launch starts as, but for its ids, its place, its watchdog and its gangs (R93, R199, R213). -/
def LaunchReq.template (r : LaunchReq) (k : Loaded) : Ctx :=
  let base := r.khdr + k.kernel.codeOff
  { part := r.part, khdr := r.khdr, regsN := k.kernel.regs, gangsN := k.kernel.gangs, nbar := k.kernel.nbar,
    scratch := k.kernel.scratch, prio := r.level k.kernel,
    oppoint := if bits (r.w 0) 15 8 = 0xFF then k.kernel.oppoint else bits (r.w 0) 15 8,
    codeBase := base, codeSize := k.kernel.codeSize,
    jtabs := k.tables.map (fun j => (j.1, base + j.2.1, j.2.2.map (base + ·))),
    nwg := r.nwg, dataAt := r.khdr + k.kernel.dataOff, dataSize := k.kernel.dataSize, karg := r.karg, lmode := launchMode r.cls k.kernel.lmode,
    depth := r.depth, svc := r.svc,
    bars := List.replicate k.kernel.nbar { expect := k.kernel.gangs } }

/-! ### Room (R97, R199, Table 4-2) -/

/-- The SIMD units of a whole core, or of a half (R31). -/
def unitsOf (half : Option Bool) : List Nat :=
  match half with
  | none => [0, 1, 2, 3]
  | some false => [0, 1]
  | some true => [2, 3]

/-- Units of the gangs of a workgroup when its first unit is the u-th. -/
def gangUnits (half : Option Bool) (n u : Nat) : List Nat :=
  (List.range n).map (fun i => let us := unitsOf half; nthOr 0 us ((u + i) % us.length))

/-- Gangs and register granules that contexts use on a SIMD unit. -/
def unitUse (xs : List Ctx) (u : Nat) : Nat × Nat :=
  xs.foldl (fun acc x =>
    let n := (x.gangs.filter (fun g => g.unit == u && g.holds)).length
    (acc.1 + n, acc.2 + n * x.regsN)) (0, 0)

/-- Whether gangs on given units fit beside contexts. -/
def unitsFit (xs : List Ctx) (us : List Nat) (regs : Nat) : Bool :=
  [0, 1, 2, 3].all (fun u =>
    let n := (us.filter (· == u)).length
    let (g, r) := unitUse xs u
    n == 0 || (g + n ≤ Config.gangSlots && r + n * regs ≤ Config.granules))

/-- The first unit of a workgroup on a core (R97). -/
def firstUnit (xs : List Ctx) (half : Option Bool) (gangs regs : Nat) : Option Nat :=
  (List.range (unitsOf half).length).find? (fun u => unitsFit xs (gangUnits half gangs u) regs)

/-- The lowest multiple of 256 at which a window of n bytes meets no window of other contexts. DESIGN CHOICE, unsafe:
log entry 56. -/
def windowAt (xs : List Ctx) (half : Option Bool) (n : Nat) : Option Nat :=
  let (lo, hi) := padOf half
  (List.range ((hi - lo) / 256)).findSome? (fun i =>
    let b := lo + 256 * i
    if b + n ≤ hi && xs.all (fun x => b + n ≤ x.base || x.base + x.scratch + 2304 ≤ b) then some b else none)

/-- Hardware barriers of a core or a half. -/
def barriersOf (half : Option Bool) : Nat := if half.isSome then Config.barriers / 2 else Config.barriers

/-- Where a workgroup fits on a core beside contexts: its first unit and its window's base (R97, R199, R31). -/
def roomAt (xs : List Ctx) (half : Option Bool) (gangs regs nbar scratch : Nat) : Option (Nat × Nat) :=
  let mine := xs.filter (fun x => x.half == half)
  if half.isSome && mine != [] then none
  else if barriersOf half < (mine.map (·.nbar)).foldl (· + ·) 0 + nbar then none
  else
    match firstUnit xs half gangs regs, windowAt xs half (scratch + 2304) with
    | some u, some b => some (u, b)
    | _, _ => none

/-- The contexts that hold resources of a core. -/
def State.residents (s : State) (core : Nat) : List Ctx :=
  (s.ctxs.filter (fun e => e.2.core == core && e.2.resident)).map (·.2)

/-- The cores and halves that a partition reserves and that are in service (R31, R382). -/
def State.shares (s : State) (p : Nat) : List CoreShare :=
  match s.part p with
  | some x => x.record.cores.filter (fun c => !(s.core c.core).retired)
  | none => []

/-- Whether a core lies where a launch may place workgroups: its scope instance (R45), and the die of PLACE (R389). -/
def mayPlace (within : Option (Nat × Nat)) (place core : Nat) : Bool :=
  (match within with | some (sc, k) => sameInstance sc k core | none => true) &&
  (bits place 7 6 != 1 || dieOf core == bits place 1 0)

/-- Whether some core of the scope instance could hold one workgroup were it empty (LST 0x05). -/
def State.everFits (s : State) (r : LaunchReq) (k : Kernel) : Bool :=
  (s.shares r.part).any (fun c => mayPlace r.within r.place c.core &&
    (roomAt [] c.half k.gangs k.regs k.nbar k.scratch).isSome)

/-! ### The checks of a launch (R212, R386) -/

/-- Launch nodes that are pending. -/
def State.pendingLaunches (s : State) : Nat :=
  (s.pool.filter (fun n => match n.work with | .launch _ => true | _ => false)).length

/-- Priorities that a partition may use (R382). -/
def State.prioOk (s : State) (p prio : Nat) : Bool :=
  match s.part p with | some x => x.record.pmin ≤ prio && prio ≤ x.record.pmax | none => false

/-- The checks of a launch in their order (R212): LST, and the kernel where it was read. -/
def State.judgeLaunch (r : LaunchReq) (s : State) : (Nat × Option Loaded) × State :=
  if r.invalid then ((7, none), s)
  else if Config.nestingDepth < r.depth then ((6, none), s)
  else
    match s.loadKernel r.part r.khdr with
    | (none, t) => ((2, none), t)
    | (some k, t) =>
      let lst := if !t.prioOk r.part (r.level k.kernel) then 4
        else if r.badShape then 3
        else if !t.everFits r k.kernel then 5
        else if Config.launchPool ≤ t.pendingLaunches then 1
        else 0
      ((lst, some k), t)

/-! ### The ready pool (R28, R392, R393) -/

/-- Whether a node of the pool comes before another. -/
def PoolNode.before (a b : PoolNode) : Bool :=
  b.eff < a.eff || (a.eff == b.eff && (a.since < b.since || (a.since == b.since &&
    (a.cls < b.cls || (a.cls == b.cls && a.key < b.key)))))

/-- Inserts a node into the pool behind every node that does not come after it. -/
def poolInsert (n : PoolNode) : List PoolNode → List PoolNode
  | [] => [n]
  | m :: t => if n.before m then n :: m :: t else m :: poolInsert n t

/-- Levels of the pool that hold no node count from zero (R393). -/
def State.settleBypass (s : State) : State :=
  { s with bypass := (List.range 24).map (fun l => if s.pool.any (fun n => n.eff == l) then nthOr 0 s.bypass l else 0) }

/-- A node enters the ready pool. -/
def State.enqueue (n : PoolNode) (s : State) : State :=
  { s with pool := poolInsert { n with since := s.cycle 0, eff := n.prio } s.pool }.post .nodeDispatch

/-- The number of workgroups of a launch. -/
def LaunchReq.total (r : LaunchReq) : Nat := r.nwg.foldl (· * ·) 1

/-- Class and key of a launch among nodes that became ready in one cycle (R392). -/
def launchKey (o : LaunchFrom) (ctx : Nat) : Nat × Nat :=
  match o with
  | .device => (2, ctx)
  | .chain v c _ => (2, 2 ^ 32 + 4 * v + c)
  | .graph h n => (1, 2 ^ 16 * h + n)

/-- The first slot of the constant region, from number k on, that none of a list holds; f bounds the search. DEDUCED,
safe: log entry 19. -/
def freeConstSlot (held : List Nat) : Nat → Nat → Option Nat
  | 0, _ => none
  | f + 1, k => if held.contains (slotBase k) then freeConstSlot held f ((k + 1) % 65536) else some k

/-- A launch without a constant segment receives a slot that no live launch of its partition holds; which one is the
front end's choice, so the search begins at a free number (R186, log entry 6). DEDUCED, safe: log entry 19. -/
def State.giveSlot (n : Nat) (s : State) : State :=
  match Tab.find n s.launches with
  | none => s
  | some l =>
    if l.tmpl.cbase != 0 then s
    else
      let held := (s.slotHolders l.tmpl.part).map (·.cbase)
      let (v, t) := s.free
      match freeConstSlot held (Nat.min 65536 (held.length + 1)) (v % 65536) with
      | some k => { t with launches := Tab.set n { l with tmpl := { l.tmpl with cbase := slotBase k } } t.launches }
      | none => t

/-- The launches of the pool that have no constant segment receive one where a slot is free. -/
def State.giveSlots (s : State) : State :=
  s.pool.foldl (fun t n => match n.work with | .launch l => t.giveSlot l | _ => t) s

/-- An accepted launch enters the pool; its node number comes back. -/
def State.addLaunch (r : LaunchReq) (k : Loaded) (ctx : Nat) (s : State) : Nat × State :=
  let n := s.nextLaunch
  let x := r.template k
  let l : Launch := { origin := r.origin, tmpl := { x with launch := n }, place := r.place, within := r.within,
                      acq := r.acq, total := r.total }
  let s1 := { s with launches := Tab.set n l s.launches, nextLaunch := n + 1 }
  let node : PoolNode := { work := .launch n, part := r.part, prio := x.prio, eff := x.prio, since := 0,
                           cls := (launchKey r.origin ctx).1, key := (launchKey r.origin ctx).2 }
  (n, (s1.giveSlot n).enqueue node)

/-! ### Policy hooks (R381) -/

/-- The partition that a hook is called for has a plug-in. -/
def State.hasPlugin (s : State) (p : Nat) : Bool := match s.part p with | some x => x.plugin.isSome | none => false

/-- Calls a hook: its answer or its timeout is still to come. DESIGN CHOICE, safe: log entry 55. -/
def State.callHook (h : Hook) (s : State) : State := { s with hooks := s.hooks ++ [h] }.post (.policyHookTimeout h)

/-! ### LAUNCH (R211, R212) -/

/-- The checks of LAUNCH: REG_RANGE, then POISON_CONTROL. -/
def State.launchFault (d a : Nat) (s : State) : Option FaultInfo :=
  firstFault [
    s.regRange [{ code := 0, reg := d, isElem := false }, { code := 1, reg := a, isElem := false, count := 8 }] false,
    s.poisonFaults a (s.cmdPoison a) (List.range 8)]

/-- LAUNCH has been released: vd is pending, and the request is on its way to the walker. DEDUCED, unsafe: log entry
17. -/
def State.askLaunch (l : Bool) (d a scope : Nat) (s : State) : State :=
  let x := s.cx
  let ask : LaunchAsk := { part := x.part, depth := x.depth + 1, ctx := s.issue.ctx, gang := s.issue.gang,
                           slices := s.issue.slices, dest := d, words := (s.cmdWords a).map (BitVec.ofNat 32),
                           scope := scope, core := x.core }
  (({ s with launchAsks := Tab.set s.nextAsk ask s.launchAsks, nextAsk := s.nextAsk + 1 }.modGg (fun g =>
    { g with pend := NatSet.add d g.pend })).post (.launchAnswer s.nextAsk)).endWordL l a 8

/-- LAUNCH (R212). -/
def execLaunch (l : Bool) (d a : BitVec 8) (scope : BitVec 3) (s : State) : Result :=
  .next (s.checked (s.launchFault d.toNat a.toNat) (fun t =>
    t.released scope.toNat t.issue.slices (State.askLaunch l d.toNat a.toNat scope.toNat)))

/-- The launch that a LAUNCH asks for. -/
def LaunchAsk.req (k : LaunchAsk) : LaunchReq :=
  { part := k.part, origin := .device, words := k.words.map (·.toNat), within := some (k.scope, k.core), acq := k.scope,
    cls := if k.scope ≤ 1 then .quad else if k.scope = 2 then .die else .wider, depth := k.depth }

/-- The walker's answer reaches vd (R212). -/
def State.answerLaunch (ask : Nat) (k : LaunchAsk) (node lst : Nat) (s : State) : State :=
  ({ s with launchAsks := Tab.drop ask s.launchAsks }.beforeRegs k.ctx k.gang [k.dest]).modGang k.ctx k.gang (fun g =>
    { g.setScalar k.dest k.slices (BitVec.ofNat 32 (2 ^ 16 * (node % 2 ^ 16) + lst)) with pend := NatSet.drop k.dest g.pend })

/-- A launch that every check has passed is admitted or refused (R381). -/
def State.admitLaunch (ask : Nat) (k : LaunchAsk) (ld : Loaded) (refuse : Bool) (s : State) : State :=
  if refuse then s.answerLaunch ask k 0 2
  else
    let (n, t) := s.addLaunch k.req ld k.ctx
    t.answerLaunch ask k n 0

/-- LAUNCH_ANSWER (R212): the checks in their order, then the ADMIT hook. -/
def execLaunchAnswer (ask : Nat) (s : State) : Result :=
  .next (match Tab.find ask s.launchAsks with
  | none => s
  | some k =>
    if s.hooks.contains (.launchRequest ask) then s
    else
      match s.judgeLaunch k.req with
      | ((lst, ld), t) =>
        if lst != 0 then t.answerLaunch ask k 0 lst
        else if t.hasPlugin k.part then t.callHook (.launchRequest ask)
        else
          match ld with
          | some l => t.admitLaunch ask k l false
          | none => t.answerLaunch ask k 0 2)

end Sys2Proof.Machine
end

