-- ==== Sys2Proof/Machine/Matrix.lean ====
section
/-! DEFINITION. The matrix engine with floating-point tiles (R225-R251): issue of its commands, acceptance, their
effects on slots and storage, spans and claims, and PAIR_FORMATION_TIMEOUT. -/

namespace Sys2Proof.Machine

/-! ### Arrays -/

/-- The array that a context's core issues to, or its half (R31, R238). -/
def Ctx.array (x : Ctx) : Nat := 2 * x.core + (if x.half = some true then 1 else 0)

/-- Rows of that array (R238). -/
def Ctx.rows (x : Ctx) : Nat := if x.half.isSome then 32 else 64

/-- An array. -/
def State.array (s : State) (a : Nat) : MArray := Tab.read {} a s.arrays

/-- Changes an array. -/
def State.modArray (a : Nat) (f : MArray → MArray) (s : State) : State :=
  { s with arrays := Tab.write {} a (f (s.array a)) s.arrays }

/-- A slot of an array. -/
def State.slot (s : State) (a t : Nat) : AccSlot := nthOr {} (s.array a).slots t

/-- Writes a slot, which is checked against the snapshot colours first (R250, R328). -/
def State.putSlot (a t : Nat) (f : AccSlot → AccSlot) (s : State) : State :=
  (s.beforeWrite (.slot a t)).modArray a (fun m => { m with slots := mapNth t f m.slots })

/-- Claims an array for a context: its slots are +0 with their flags clear and tagged FP (R226, R258). -/
def State.claimArray (a c : Nat) (s : State) : State :=
  match (s.array a).claim with
  | some _ => s
  | none =>
    let tag := match s.ctxOf c with | some x => (s.epochOf x.part (dieOf x.core)).fresh | none => {}
    s.modArray a (fun _ => { claim := some c, tags := List.replicate 4 tag })

/-- An array of a span: its key, its row band and its column group (R236). -/
structure Member where
  array : Nat
  band : Nat
  group : Nat
  deriving DecidableEq, Repr

/-- Row bands and column groups of a span of p arrays (Table 9-4). -/
def spanShape (p : Nat) : Nat × Nat := if p = 2 then (2, 1) else if p = 4 then (2, 2) else (4, 2)

/-- Placement of member m of p (Table 9-4). -/
def memberPlace (p m : Nat) : Nat × Nat :=
  if p = 2 then (m, 0) else if p = 4 then (m % 2, m / 2) else (2 * (m / 4) + m % 2, (m / 2) % 2)

/-- The arrays of the aligned group of p that holds a core. -/
def groupArrays (p core : Nat) : List Nat := (List.range p).map (fun m => 2 * (core / p * p + m))

/-- The members of the span that a core's array is in. -/
def State.spanMembers (s : State) (core : Nat) : List Member :=
  match (s.array (2 * core)).span with
  | none => []
  | some sp => (List.range sp.arrays).map (fun m =>
      { array := 2 * (core / sp.arrays * sp.arrays + m), band := (memberPlace sp.arrays m).1,
        group := (memberPlace sp.arrays m).2 })

/-! ### Command fields (Table 9-5) -/

/-- SPAN. -/
def espSpan (w : Nat) : Bool := bit w 7
/-- Slots named. -/
def espN (w : Nat) : Nat := 2 ^ bits w 5 4
/-- First slot. -/
def espS0 (w : Nat) : Nat := bits w 3 2
/-- OPX. -/
def espOpx (w : Nat) : Nat := bits w 1 0

/-- Whether ESP of MMA, MMAG, MACC or MST breaks Table 9-5. -/
def espBad (w : Nat) : Bool := bit w 6 || bits w 5 4 == 3 || espS0 w % espN w != 0

/-- Whether a tile operand word breaks Table 9-3. -/
def operandBad (w : Nat) : Bool := bits w 25 19 != 0 || w % 4 != 0

/-- Whether a block offset breaks R230. -/
def blockBad (w : Nat) : Bool := bits w 31 19 != 0 || w % 256 != 0

/-- Whether the depth word of MMA or MMAG is broken. -/
def depthBad (w : Nat) : Bool := bits w 31 10 != 0 || bit w 7 || bits w 6 0 == 0 || 64 < bits w 6 0

/-- Tests that words from k to 7 are zero. -/
def zeroFrom (k : Nat) (ws : List Nat) : List (Nat × Bool) :=
  (List.range (8 - k)).map (fun i => (k + i, nthOr 0 ws (k + i) != 0))

/-- The issue-time check of matrix and RNS commands (R240, R268): poison of words 1 to 7, then their tables. -/
def tableCheck (bad : List Nat → List (Nat × Bool)) (a : Nat) (ws : List Nat) (ps : List Bool) (s : State) : Option FaultInfo :=
  firstFault [s.poisonFaults a ps [1, 2, 3, 4, 5, 6, 7], s.wordsFault ws (bad ws)]

/-- MMA's table (R244). -/
def mmaBad (ws : List Nat) : List (Nat × Bool) :=
  let w := fun k => nthOr 0 ws k
  [(0, espBad (w 0) || bit (w 0) 1), (1, operandBad (w 1)), (2, operandBad (w 2)), (3, depthBad (w 3))] ++ zeroFrom 4 ws

/-- MMAG's table (R245). -/
def mmagBad (ws : List Nat) : List (Nat × Bool) :=
  let w := fun k => nthOr 0 ws k
  [(0, espBad (w 0) || bit (w 0) 1 || espSpan (w 0)), (1, bit (w 1) 0), (3, bit (w 3) 0),
   (4, bit (w 4) 31 || bits (w 4) 29 19 != 0 || w 4 % 4 != 0), (5, operandBad (w 5)),
   (6, depthBad (w 6) || bit (w 6) 8)] ++ zeroFrom 7 ws

/-- MACC's tables (R246). -/
def maccBad (ws : List Nat) : List (Nat × Bool) :=
  let w := fun k => nthOr 0 ws k
  let n := espN (w 0)
  match espOpx (w 0) with
  | 0 => (0, espBad (w 0)) :: zeroFrom 2 ws
  | 1 => [(0, espBad (w 0)), (1, bit (w 1) 31 || bits (w 1) 29 0 != 0),
          (2, if bit (w 1) 30 then operandBad (w 2) else blockBad (w 2))] ++ zeroFrom 3 ws
  | 2 => [(0, espBad (w 0)), (1, bits (w 1) 31 2 != 0 || bits (w 1) 1 0 % n != 0 || 4 < bits (w 1) 1 0 + n)] ++ zeroFrom 2 ws
  | _ => [(0, true)]

/-- Bytes of an element of an output kind of MST. -/
def mstSize (opx : Nat) : Nat := if opx = 0 then 4 else 2

/-- MST's table (R247). -/
def mstBad (ws : List Nat) : List (Nat × Bool) :=
  let w := fun k => nthOr 0 ws k
  let e := mstSize (espOpx (w 0))
  let mem := bit (w 1) 30
  [(0, espBad (w 0) || espOpx (w 0) == 3), (1, bit (w 1) 31 || 4 < bits (w 1) 29 27 || bits (w 1) 25 0 != 0),
   (2, if mem then w 2 % e != 0 else if espOpx (w 0) = 0 then blockBad (w 2) else operandBad (w 2)),
   (3, !mem && w 3 != 0), (4, if mem then w 4 % e != 0 else w 4 != 0)] ++ zeroFrom 5 ws

/-- MPAIR's table (R248). -/
def mpairBad (ws : List Nat) : List (Nat × Bool) :=
  let w := fun k => nthOr 0 ws k
  [(0, bits (w 0) 1 0 == 0 || bits (w 0) 7 2 != 0), (1, bits (w 1) 31 16 != 0)] ++ zeroFrom 2 ws

/-- MREL's table (R249). -/
def mrelBad (ws : List Nat) : List (Nat × Bool) := (0, bits (nthOr 0 ws 0) 7 0 != 0) :: zeroFrom 1 ws

/-- A matrix instruction. -/
def matrixSpec (op : Nat) (bad : List Nat → List (Nat × Bool)) : EngSpec :=
  { eng := 0, op := op, flagKind := true, check := tableCheck bad }

/-- MMA (R244). -/
def execMma (l : Bool) (d a : BitVec 8) (b : BitVec 5) (s : State) : Result :=
  .next (s.issueEngine (matrixSpec 0 mmaBad) l d a b)
/-- MMAG (R245). -/
def execMmag (l : Bool) (d a : BitVec 8) (b : BitVec 5) (s : State) : Result :=
  .next (s.issueEngine (matrixSpec 1 mmagBad) l d a b)
/-- MACC with OPX fill (R246): one word serves the three operations, and OPX of word 0 selects. DEDUCED, safe: log
entry 14. -/
def execMaccFill (l : Bool) (d a : BitVec 8) (b : BitVec 5) (s : State) : Result :=
  .next (s.issueEngine (matrixSpec 2 maccBad) l d a b)
/-- MACC with OPX load (R246). DEDUCED, safe: log entry 14. -/
def execMaccLoad (l : Bool) (d a : BitVec 8) (b : BitVec 5) (s : State) : Result :=
  .next (s.issueEngine (matrixSpec 2 maccBad) l d a b)
/-- MACC with OPX copy (R246). DEDUCED, safe: log entry 14. -/
def execMaccCopy (l : Bool) (d a : BitVec 8) (b : BitVec 5) (s : State) : Result :=
  .next (s.issueEngine (matrixSpec 2 maccBad) l d a b)
/-- MST (R247). -/
def execMst (l : Bool) (d a : BitVec 8) (b : BitVec 5) (s : State) : Result :=
  .next (s.issueEngine (matrixSpec 3 mstBad) l d a b)
/-- MPAIR (R248). -/
def execMpair (l : Bool) (d a : BitVec 8) (b : BitVec 5) (s : State) : Result :=
  .next (s.issueEngine (matrixSpec 4 mpairBad) l d a b)
/-- MREL (R249). -/
def execMrel (l : Bool) (d a : BitVec 8) (b : BitVec 5) (s : State) : Result :=
  .next (s.issueEngine (matrixSpec 5 mrelBad) l d a b)

/-! ### Acceptance (R242) -/

def codeAddressRange : Nat := 0x0018
def codeRemoteWriteLost : Nat := 0x0020
def codeScratchBounds : Nat := 0xA001
def codeKindInvalid : Nat := 0xA002
def codeArrayBusy : Nat := 0xA003
def codeNotLeader : Nat := 0xA004
def codeSlotLent : Nat := 0xA005
def codeSplitRefused : Nat := 0xA006
def codePairMismatch : Nat := 0xA007
def codePairBusy : Nat := 0xA008
def codeSlotMode : Nat := 0xA040

/-- The first code of a list of conditions in order; 0 where none holds. -/
def firstCode : List (Bool × Nat) → Nat
  | [] => 0
  | (c, n) :: t => if c then n else firstCode t

/-- Ownership and span state of a command of a context (R226, R237, R238); span: it has SPAN = 1; mrel: it is MREL;
pairing: it is an MPAIR of so many arrays. DEDUCED, unsafe: log entry 47. -/
def State.accessCode (s : State) (ctx : Nat) (x : Ctx) (span mrel : Bool) (pairing : Option Nat) : Nat :=
  let m := s.array x.array
  let busy := match m.claim with | some c => c != ctx | none => false
  let member := match m.span with | some p => some p.member | none => none
  let follower := match member with | some k => k != 0 | none => false
  firstCode [(busy, codeArrayBusy),
    ((span && !x.half.isSome && member != some 0) || (mrel && follower), codeNotLeader),
    (follower, codeSlotLent),
    (x.half.isSome && (span || pairing.isSome), codeSplitRefused),
    (match pairing with | some p => m.span.isSome || m.asking.any (fun q => q.arrays != p) | none => false, codePairBusy)]

/-- The arrays that a command names (R239). -/
def State.named (s : State) (x : Ctx) (span : Bool) : List Member :=
  if span then s.spanMembers x.core else [{ array := x.array, band := 0, group := 0 }]

/-- Column groups of the arrays that a command names. -/
def State.colGroups (s : State) (x : Ctx) (span : Bool) : Nat :=
  if span then match (s.array x.array).span with | some p => (spanShape p.arrays).2 | none => 1 else 1

/-- Slots S0 to S0+n-1. -/
def slotsFrom (s0 n : Nat) : List Nat := (List.range n).map (fun i => s0 + i)

/-- Whether a canonical tile and its status word pass SCRATCH (R231). -/
def tileOut (scratch w p : Nat) : Bool :=
  scratch < 8192 * (bits w 31 26 + p) + 8192 || scratch < bits w 18 0 + 4 * p + 4

/-- Whether an FP32 block passes SCRATCH (R231). -/
def blockOut (scratch o p : Nat) : Bool := scratch < o + 16384 * p + 16384

/-- The status word of tile p of an operand word. -/
def Ctx.tileStatus (x : Ctx) (w p : Nat) : Nat := ofLeBytes (x.window.bytes (bits w 18 0 + 4 * p) 4)

/-- Whether the kind of tile p of an operand word is reserved (Table 9-2). -/
def Ctx.kindBad (x : Ctx) (w p : Nat) : Bool := bit (x.tileStatus w p) 31

/-- The tiles that the named arrays read of A: one per band. -/
def bandsOf (ms : List Member) : List Nat := (ms.map (·.band)).eraseDups

/-- The column blocks of the named arrays. -/
def blocksOf (ms : List Member) (n : Nat) : List Nat :=
  (ms.flatMap (fun m => (List.range n).map (fun i => m.group * n + i))).eraseDups

/-- Whether some named slot of some named array is tagged RNS. -/
def State.anyRns (s : State) (ms : List Member) (ts : List Nat) : Bool :=
  ms.any (fun m => ts.any (fun t => (s.slot m.array t).rns))

/-- Rows of a gather: index words of the rows, none for a marked one (R245). -/
def Ctx.gatherRows (x : Ctx) (ixo : Nat) : List (Option Nat) :=
  (List.range x.rows).map (fun i =>
    if NatSet.has ((ixo + 4 * i) / 4) x.windowMarks then none else some (ofLeBytes (x.window.bytes (ixo + 4 * i) 4)))

/-- The source addresses of a gather, by row (R245): rows that are zero or poisoned read none. -/
def gatherVas (gb pitch : Nat) (rows : List (Option Nat)) : List (Nat × Nat) :=
  (List.range rows.length).filterMap (fun i =>
    match nthOr none rows i with
    | some e => if e = 0xFFFFFFFF then none else some (i, gb + e * pitch)
    | none => none)

/-- The page code of the lowest address whose translation fails (R242). DEDUCED, unsafe: log entry 50. -/
def State.pageCode (s : State) (part n : Nat) (need : Need) (vas : List Nat) : Nat :=
  let fails := vas.filterMap (fun va => match s.extent part va n need with | .inl f => some (va, f.code) | .inr _ => none)
  match fails.filter (fun e => e.1 == leastOr 0 (fails.map (·.1))) with
  | e :: _ => e.2
  | [] => 0

/-- Memory rows of MST: the addresses of each row of each slot, with their lengths (R247). -/
def mstRows (x : Ctx) (c : Cmd) (ms : List Member) : List (Member × Nat × Nat × Nat) :=
  let n := espN (c.w 0)
  let e := mstSize (espOpx (c.w 0))
  ms.flatMap (fun m => (slotsFrom (espS0 (c.w 0)) n).flatMap (fun t =>
    let q := m.group * n + (t - espS0 (c.w 0))
    (List.range x.rows).map (fun i => (m, t, i, c.dword 2 + c.w 4 * (64 * m.band + i) + e * 64 * q))))

/-- Acceptance of a command of the matrix class: 0, or the code that rejects it (R242). -/
def State.matrixCode (s : State) (c : Cmd) (x : Ctx) : Nat :=
  let w0 := c.w 0
  let shaped := c.op ≤ 3
  let span := shaped && espSpan w0
  let early := s.accessCode c.ctx x span (c.op == 5) (if c.op = 4 then some (2 ^ bits w0 1 0) else none)
  if early != 0 then early
  else
    let ms := s.named x span
    let cb := s.colGroups x span
    let n := espN w0
    let ts := slotsFrom (espS0 w0) n
    let zero := bit w0 0
    let src := fun (m : Member) => (List.range n).map (fun i => m.band * n * cb + m.group * n + i)
    let ps := ms.flatMap src
    match c.op with
    | 0 =>
      firstCode [((bandsOf ms).any (tileOut x.scratch (c.w 1)) || (blocksOf ms n).any (tileOut x.scratch (c.w 2)), codeScratchBounds),
        (!zero && s.anyRns ms ts, codeSlotMode),
        ((bandsOf ms).any (x.kindBad (c.w 1)) || (blocksOf ms n).any (x.kindBad (c.w 2)), codeKindInvalid)]
    | 1 =>
      let ixo := bits (c.w 4) 18 0
      let k := bits (c.w 6) 6 0
      let vas := (gatherVas (c.dword 1) (c.w 3) (x.gatherRows ixo)).map (·.2)
      firstCode [(x.scratch < ixo + 4 * x.rows || (blocksOf ms n).any (tileOut x.scratch (c.w 5)), codeScratchBounds),
        (!zero && s.anyRns ms ts, codeSlotMode), ((blocksOf ms n).any (x.kindBad (c.w 5)), codeKindInvalid),
        (vas.any (fun va => !extentOk va (2 * k)), codeAddressRange),
        (s.pageCode x.part (2 * k) { r := true } vas != 0, s.pageCode x.part (2 * k) { r := true } vas)]
    | 2 =>
      match espOpx w0 with
      | 1 =>
        if bit (c.w 1) 30 then
          firstCode [(ps.any (tileOut x.scratch (c.w 2)), codeScratchBounds), (ps.any (x.kindBad (c.w 2)), codeKindInvalid)]
        else firstCode [(ps.any (blockOut x.scratch (c.w 2)), codeScratchBounds)]
      | 2 => firstCode [(s.anyRns ms ts || s.anyRns ms (slotsFrom (bits (c.w 1) 1 0) n), codeSlotMode)]
      | _ => 0
    | 3 =>
      if bit (c.w 1) 30 then
        let e := mstSize (espOpx w0)
        let vas := (mstRows x c ms).map (fun r => r.2.2.2)
        firstCode [(s.anyRns ms ts, codeSlotMode), (vas.any (fun va => !extentOk va (64 * e)), codeAddressRange),
          (s.pageCode x.part (64 * e) { w := true } vas != 0, s.pageCode x.part (64 * e) { w := true } vas)]
      else
        firstCode [(ps.any (fun p => if espOpx w0 = 0 then blockOut x.scratch (c.w 2) p else tileOut x.scratch (c.w 2) p),
          codeScratchBounds), (s.anyRns ms ts, codeSlotMode)]
    | _ => 0

/-! ### Results -/

/-- Flags of a3 to a0 of an array. -/
def State.slotFlags (s : State) (a : Nat) : Nat := maskOf ((List.range 4).filter (fun t => (s.slot a t).poisoned))

/-- SLOTP of a rejected command (Table 9-6). -/
def State.ownFlags (s : State) (ctx : Nat) (x : Ctx) : Nat :=
  if (s.array x.array).claim = some ctx then s.slotFlags x.array else 0

/-- A matrix result word (Table 9-6). -/
def matrixResult (psn : Bool) (slotp code : Nat) : Word :=
  BitVec.ofNat 32 (2 ^ 31 * ofBool (code != 0) + 2 ^ 30 * ofBool psn + 2 ^ 24 * (slotp % 16) + code % 2 ^ 16)

/-- A command is started and ends with a result word and a code. -/
def State.endCmd (k code : Nat) (r : Word) (s : State) : State :=
  (s.modCmd k (fun c => { c with err := code != 0, code := code, result := r })).post (.commandCompletion k)

/-- SLOTP over the arrays that a command named. -/
def State.namedFlags (s : State) (ms : List Member) : Nat := ms.foldl (fun v m => v ||| s.slotFlags m.array) 0

/-- Ends a matrix command that was accepted: PSN is the OR of the flags of the slots it wrote or stored. -/
def State.endMatrix (k : Nat) (ms : List Member) (ts : List Nat) (s : State) : State :=
  let code := match s.cmd k with | some c => if c.err then c.code else 0 | none => 0
  let psn := ms.any (fun m => ts.any (fun t => (s.slot m.array t).poisoned))
  s.endCmd k code (matrixResult psn (s.namedFlags ms) code)

/-! ### Elements -/

/-- An operand element as FP32 bits with its poison. -/
structure Elem where
  val : Nat
  p : Bool
  deriving DecidableEq, Repr

/-- The format of a kind bit of a status word (Table 9-2). -/
def kindFormat (fp : Bool) : Fmt := if fp then fp16 else bf16

/-- An element of two bytes of a kind, widened exactly (R232, R234). -/
def elemOf (f : Fmt) (bs : List (Byte × Bool)) : Elem :=
  let v := ofLeBytes (bs.map (·.1))
  { val := f.widen v, p := bs.any (·.2) || f.isPoison v }

/-- Bytes of a window with the marks of their words. -/
def Ctx.winBytes (x : Ctx) (o n : Nat) : List (Byte × Bool) :=
  (List.range n).map (fun i => (x.window.get (o + i), NatSet.has ((o + i) / 4) x.windowMarks))

/-- Element (i, j) of canonical tile p of an operand word (R228, R234). -/
def Ctx.tileElem (x : Ctx) (w p i j : Nat) : Elem :=
  let st := x.tileStatus w p
  let e := elemOf (kindFormat (bit st 30)) (x.winBytes (8192 * (bits w 31 26 + p) + 128 * i + 2 * j) 2)
  { e with p := e.p || bit st 29 }

/-- R232: the chain of fused multiply-adds over k from 0. -/
def chain (a b : Nat → Nat) : Nat → Nat → Nat
  | 0, c => c
  | k + 1, c => let acc := chain a b k c; fp32.fma {} (a k) (b k) acc

/-- Cells of a slot computed by row and column, in the canonical form of the table. -/
def cellsOf (rows : Nat) (f : Nat → Nat → Nat) : Tab (BitVec 32) :=
  (List.range rows).flatMap (fun i => (List.range 64).filterMap (fun j =>
    let v := BitVec.ofNat 32 (f i j)
    if v = 0 then none else some (64 * i + j, v)))

/-- A cell of a slot. -/
def AccSlot.cell (a : AccSlot) (i j : Nat) : Nat := (Tab.read 0 (64 * i + j) a.cells : BitVec 32).toNat

/-- R232 on one slot: a and b give the operand elements of rows, columns and depth. -/
def AccSlot.multiply (zero : Bool) (rows k : Nat) (a b : Nat → Nat → Elem) (t : AccSlot) : AccSlot :=
  let bad := (List.range k).any (fun q => (List.range rows).any (fun i => (a i q).p) || (List.range 64).any (fun j => (b q j).p))
  { cells := cellsOf rows (fun i j => chain (fun q => (a i q).val) (fun q => (b q j).val) k (if zero then 0 else t.cell i j)),
    poisoned := (!zero && t.poisoned) || bad, rns := !zero && t.rns }

/-- Element (i, k) of an A operand or (k, j) of a B operand, transposed where its bit is set. -/
def Ctx.operandElem (x : Ctx) (w p : Nat) (transposed : Bool) (i j : Nat) : Elem :=
  if transposed then x.tileElem w p j i else x.tileElem w p i j

/-! ### Effects -/

/-- MMA (R244). -/
def State.doMma (k : Nat) (c : Cmd) (x : Ctx) (s : State) : State :=
  let w0 := c.w 0
  let n := espN w0
  let ms := s.named x (espSpan w0)
  let ts := slotsFrom (espS0 w0) n
  let depth := bits (c.w 3) 6 0
  (ms.foldl (fun u m => ts.foldl (fun v t =>
    let q := m.group * n + (t - espS0 w0)
    v.putSlot m.array t (AccSlot.multiply (bit w0 0) x.rows depth
      (x.operandElem (c.w 1) m.band (bit (c.w 3) 8)) (x.operandElem (c.w 2) q (bit (c.w 3) 9)))) u) s).endMatrix k ms ts

/-- The gathered bytes that lie in the package or on sys ports, and those at peers, of a gather of depth k: row i goes
to the buffer from 128*i on. -/
def State.gatherRows (s : State) (part : Nat) (depth : Nat) (vas : List (Nat × Nat)) :
    List (Nat × List (Byte × Bool)) × List AwayRead :=
  let all := vas.flatMap (fun e =>
    match s.extent part e.2 (2 * depth) { r := true } with
    | .inl _ => []
    | .inr ps => (ps.foldl (fun (acc : Nat × List (Nat × Piece)) p => (acc.1 + p.len, acc.2 ++ [(128 * e.1 + acc.1, p)])) (0, [])).2)
  ((all.filter (fun e => homeOf e.2.place.loc != .fabric)).map (fun e => (e.1, s.spotBytes (.loc e.2.place.loc) e.2.len)),
   (all.filter (fun e => homeOf e.2.place.loc == .fabric)).map (fun e => { loc := e.2.place.loc, len := e.2.len, off := e.1 }))

/-- Where a gather's buffer holds the index word of row i. -/
def indexAt (i : Nat) : Nat := 8192 + 4 * i

/-- Index words of the rows, none for a marked one, as a gather's acceptance found them (R245). -/
def Cmd.gatherRows (c : Cmd) (rows : Nat) : List (Option Nat) :=
  (List.range rows).map (fun i =>
    let b := c.buf (indexAt i) 4
    if b.any (·.2) then none else some (ofLeBytes (b.map (·.1))))

/-- The source addresses of an MMAG, by row. -/
def Cmd.gatherVas (c : Cmd) (rows : Nat) : List (Nat × Nat) :=
  Sys2Proof.Machine.gatherVas (c.dword 1) (c.w 3) (c.gatherRows rows)

/-- An MMAG stages its rows in its buffer (R245). -/
def State.gather (k : Nat) (c : Cmd) (x : Ctx) (s : State) : State :=
  let (here, away) := s.gatherRows x.part (bits (c.w 6) 6 0) (c.gatherVas x.rows)
  let s1 := s.modCmd k (fun y => here.foldl (fun z e => z.putBuf e.1 e.2) y)
  s1.askReads k (away.flatMap AwayRead.parts)

/-- MMAG begins: it keeps its index words and stages its rows (R245). -/
def State.startMmag (k : Nat) (c : Cmd) (x : Ctx) (s : State) : State :=
  let c1 := (List.range x.rows).foldl (fun (z : Cmd) i =>
    z.putBuf (indexAt i) (x.winBytes (bits (c.w 4) 18 0 + 4 * i) 4)) c
  let s2 := (s.modCmd k (fun _ => c1)).gather k c1 x
  if (s2.cmd k).all (·.settled) then s2.post (.commandCompletion k) else s2

/-- Discards a core's gather staging buffers: what its started MMAGs have staged is gathered again (Table 2-6, R245).
DEDUCED, unsafe: log entry 74. -/
def State.dropStaged (core : Nat) (s : State) : State :=
  (s.cmds.filter (fun e => e.2.eng == 0 && e.2.op == 1 && e.2.state == .started && e.2.core == core)).foldl (fun t e =>
    t.gather e.1 e.2 ((t.ctxOf e.2.ctx).getD {})) s

/-- PFENCE (R51, R192): bit 0 LS, bit 1 CONST, bit 2 TILE, bit 3 ROW (Table 2-6). It cannot fault, so it leaves a loss
to the points of R197. -/
def execPfence (paths : BitVec 4) (scope : BitVec 3) (s : State) : Result :=
  .next (s.drainWrites scope.toNat s.issue.slices (fun t =>
    if t.gg.loadsOut t.issue.slices then t
    else
      let core := t.cx.core
      let t1 := if paths.getLsbD 0 || paths.getLsbD 3 then t.dropL1 core else t
      let t2 := if paths.getLsbD 1 then t1.dropConst core else t1
      (if paths.getLsbD 2 then t2.dropStaged core else t2).endWord))

/-- The path of a sys-homed line of a row that an MMAG has staged fails: the row is poisoned (R234, R245). -/
def State.gatherFailure (k i : Nat) (s : State) : State :=
  match s.cmd k with
  | some c =>
    let x := (s.ctxOf c.ctx).getD {}
    let n := 2 * bits (c.w 6) 6 0
    let sys := (c.gatherVas x.rows).any (fun e => e.1 == i && (match s.extent x.part e.2 n { r := true } with
      | .inl _ => false
      | .inr ps => ps.any (fun p => homeOf p.place.loc == .sys)))
    if c.eng = 0 && c.op = 1 && c.state == .started && sys then
      { s with lostCount := s.lostCount + 1 }.modCmd k (fun y => y.putBuf (128 * i) (List.replicate n (0, true)))
    else s
  | none => s

/-- Element (i, q) of the gathered operand. -/
def gatherElem (c : Cmd) (rows : List (Option Nat)) (i q : Nat) : Elem :=
  match nthOr none rows i with
  | none => { val := 0, p := true }
  | some e => if e = 0xFFFFFFFF then { val := 0, p := false } else elemOf (kindFormat (bit (c.w 4) 30)) (c.buf (128 * i + 2 * q) 2)

/-- MMAG's effect once its rows have arrived. -/
def State.doMmag (k : Nat) (c : Cmd) (x : Ctx) (s : State) : State :=
  let w0 := c.w 0
  let ts := slotsFrom (espS0 w0) (espN w0)
  let rows := c.gatherRows x.rows
  let ms := s.named x false
  let s1 := ts.foldl (fun v t => v.putSlot x.array t (AccSlot.multiply (bit w0 0) x.rows (bits (c.w 6) 6 0)
    (gatherElem c rows) (x.operandElem (c.w 5) (t - espS0 w0) (bit (c.w 6) 9)))) s
  let psn := ts.any (fun t => (s1.slot x.array t).poisoned)
  s1.modCmd k (fun y => { y with result := matrixResult psn (s1.namedFlags ms) 0 })

/-- The slot that MACC load reads from source p (R246). -/
def loadedSlot (x : Ctx) (c : Cmd) (p : Nat) : AccSlot :=
  if bit (c.w 1) 30 then
    let e := x.tileElem (c.w 2) p
    { cells := cellsOf x.rows (fun i j => (e i j).val),
      poisoned := (List.range x.rows).any (fun i => (List.range 64).any (fun j => (e i j).p)) }
  else
    let bs := fun i j => x.winBytes (c.w 2 + 16384 * p + 256 * i + 4 * j) 4
    let v := fun i j => ofLeBytes ((bs i j).map (·.1))
    { cells := cellsOf x.rows v,
      poisoned := (List.range x.rows).any (fun i => (List.range 64).any (fun j => (bs i j).any (·.2) || fp32.isPoison (v i j))) }

/-- MACC (R246). DEDUCED, unsafe: log entry 54. -/
def State.doMacc (k : Nat) (c : Cmd) (x : Ctx) (s : State) : State :=
  let w0 := c.w 0
  let n := espN w0
  let ms := s.named x (espSpan w0)
  let cb := s.colGroups x (espSpan w0)
  let ts := slotsFrom (espS0 w0) n
  match espOpx w0 with
  | 0 =>
    (ms.foldl (fun u m => ts.foldl (fun v t => v.putSlot m.array t (fun _ =>
      { cells := cellsOf x.rows (fun _ _ => c.w 1), poisoned := fp32.isPoison (c.w 1) })) u) s).endMatrix k ms ts
  | 1 =>
    (ms.foldl (fun u m => ts.foldl (fun v t => v.putSlot m.array t (fun _ =>
      loadedSlot x c (m.band * n * cb + m.group * n + (t - espS0 w0)))) u) s).endMatrix k ms ts
  | _ =>
    let t0 := bits (c.w 1) 1 0
    if t0 = espS0 w0 then s.endMatrix k ms ts
    else (ms.foldl (fun u m => ts.foldl (fun v t =>
      v.putSlot m.array (t0 + (t - espS0 w0)) (fun _ => s.slot m.array t)) u) s).endMatrix k ms (slotsFrom t0 n)

/-- An element as MST writes it (R247). -/
def mstOut (opx rnd : Nat) (sat : Bool) (a : AccSlot) (i j : Nat) : List (Byte × Bool) :=
  let f := if opx = 1 then bf16 else fp16
  let v := a.cell i j
  let out :=
    if opx = 0 then (if a.poisoned then fp32.poison else v)
    else if a.poisoned then f.poison
    else fp32.convert f { rnd := rnd, sat := sat } v
  (leBytes (mstSize opx) out).map (fun b => (b, a.poisoned))

/-- A row of a slot as MST writes it. -/
def mstRow (opx rnd : Nat) (sat : Bool) (a : AccSlot) (i : Nat) : List (Byte × Bool) :=
  (List.range 64).flatMap (mstOut opx rnd sat a i)

/-- Turns a list by a number: an order that the spec leaves open. -/
def turned {α : Type} (k : Nat) (l : List α) : List α := l.drop (k % (l.length + 1)) ++ l.take (k % (l.length + 1))

/-- The pieces of a memory range with its bytes: where each lies. -/
def State.placed (s : State) (part va : Nat) (bs : List (Byte × Bool)) : List (Nat × List (Byte × Bool)) :=
  match s.extent part va bs.length { w := true } with
  | .inl _ => []
  | .inr ps => (ps.foldl (fun (acc : Nat × List (Nat × List (Byte × Bool))) p =>
      (acc.1 + p.len, acc.2 ++ [(p.place.loc, (bs.drop acc.1).take p.len)])) (0, [])).2

/-- MST (R247): to scratchpad by rows with the status words, or to memory; rows of memory may overlap in any order
(R35). DESIGN CHOICE, unsafe: log entry 25. -/
def State.doMst (k : Nat) (c : Cmd) (x : Ctx) (s : State) : State :=
  let w0 := c.w 0
  let n := espN w0
  let opx := espOpx w0
  let rnd := bits (c.w 1) 29 27
  let sat := bit (c.w 1) 26
  let ms := s.named x (espSpan w0)
  let cb := s.colGroups x (espSpan w0)
  let ts := slotsFrom (espS0 w0) n
  let done := fun (u : State) => if (u.cmd k).all (·.settled) then u.post (.commandCompletion k) else u
  let psn := ms.any (fun m => ts.any (fun t => (s.slot m.array t).poisoned))
  let finish := fun (u : State) => done (u.modCmd k (fun y =>
    { y with result := matrixResult psn (s.namedFlags ms) (if y.err then y.code else 0) }))
  if bit (c.w 1) 30 then
    let (turn, s1) := s.free
    let rows := turned turn ((mstRows x c ms).flatMap (fun r =>
      s.placed x.part r.2.2.2 (mstRow opx rnd sat (s.slot r.1.array r.2.1) r.2.2.1)))
    let here := (rows.filter (fun r => homeOf r.1 != .fabric)).map (fun r => (Spot.loc r.1, r.2))
    let away := (rows.filter (fun r => homeOf r.1 == .fabric)).flatMap (fun r => cutWrites 1 0 r.1 r.2)
    let s2 := s1.writeRanges k x.core here
    finish (if (s2.cmd k).any (·.err) then s2 else s2.askWrites k away)
  else
    let ranges := ms.flatMap (fun m => ts.flatMap (fun t =>
      let p := m.band * n * cb + m.group * n + (t - espS0 w0)
      let a := s.slot m.array t
      let row := fun i =>
        if opx = 0 then (Spot.window c.ctx (c.w 2 + 16384 * p + 256 * i), mstRow opx rnd sat a i)
        else (Spot.window c.ctx (8192 * (bits (c.w 2) 31 26 + p) + 128 * i), mstRow opx rnd sat a i)
      let status := 2 ^ 30 * ofBool (opx == 2) + 2 ^ 29 * ofBool a.poisoned
      (List.range x.rows).map row ++
      (if opx = 0 then [] else
        [(Spot.window c.ctx (bits (c.w 2) 18 0 + 4 * p), (leBytes 4 status).map (fun b => (b, a.poisoned)))])))
    finish (s.writeRanges k x.core ranges)

/-! ### Spans -/

/-- Completes the pending MPAIRs of arrays with a code (R248). DEDUCED, unsafe: log entry 47. -/
def State.endPairs (as : List Nat) (code : Nat) (s : State) : State :=
  as.foldl (fun u a =>
    match (u.array a).asking with
    | none => u
    | some q => (q.cmd :: q.more).foldl (fun v k => v.endCmd k code (matrixResult false (u.slotFlags a) code))
        (u.modArray a (fun m => { m with asking := none }))) s

/-- Whether two MPAIRs agree. -/
def PairAsk.agrees (p q : PairAsk) : Bool := p.arrays == q.arrays && p.key == q.key && p.launch == q.launch && p.part == q.part

/-- A further MPAIR of an array for the group it waits for joins the first; else it is the first. DEDUCED, unsafe: log
entry 47. -/
def PairAsk.join (mine : PairAsk) : Option PairAsk → PairAsk
  | some q => { q with more := q.more ++ [mine.cmd] }
  | none => mine

/-- The pending MPAIRs of other arrays that share an aligned group with one of p arrays on a core: the larger of the
two groups holds both. -/
def State.rivals (s : State) (p core : Nat) : List PairAsk :=
  (groupArrays 8 core).filterMap (fun a =>
    if a = 2 * core then none
    else match (s.array a).asking with
      | some q => let m := Nat.max p q.arrays; if a / 2 / m = core / m then some q else none
      | none => none)

/-- MPAIR (R248): the group forms, disagrees, or goes on waiting. DEDUCED, unsafe: log entry 47. -/
def State.doMpair (k : Nat) (c : Cmd) (x : Ctx) (s : State) : State :=
  let p := 2 ^ bits (c.w 0) 1 0
  let group := groupArrays p x.core
  let mine : PairAsk := { cmd := k, arrays := p, key := bits (c.w 1) 15 0, launch := x.launch, part := x.part,
                          since := s.cycle (dieOf x.core), limit := 1024 * x.wdog }
  let wrong := ((s.array x.array).asking.toList ++ s.rivals p x.core).filter (fun q => !q.agrees mine)
  let s1 := s.modArray x.array (fun m => { m with asking := some (mine.join m.asking) })
  if wrong != [] then s1.endPairs (groupArrays ((wrong.map (·.arrays)).foldl Nat.max p) x.core) codePairMismatch
  else if group.all (fun a => (s1.array a).asking.isSome) then
    let lead := (((s1.array (group.headD 0)).claim.bind s1.ctxOf).getD {}).wgid
    let s2 := group.foldl (fun u a => u.modArray a (fun m =>
      { m with span := some { arrays := p, key := mine.key, member := (a / 2) % p, lead := lead } })) s1
    s2.endPairs group 0
  else s1

/-- The first acceptance among the pending MPAIRs of a core's group (R248). -/
def State.pairSince (s : State) (q : PairAsk) (core : Nat) : PairAsk :=
  ((groupArrays q.arrays core).filterMap (fun a => (s.array a).asking)).foldl (fun b r => if r.since < b.since then r else b) q

/-- Whether a pending MPAIR of a core's array has waited its limit, counted from the first acceptance of its group: the
limit is its own context's, as it was at its acceptance. DESIGN CHOICE, unsafe: log entry 92. -/
def State.pairExpired (s : State) (core : Nat) : Bool :=
  match (s.array (2 * core)).asking with
  | some q => (s.pairSince q core).since + q.limit ≤ s.cycle (dieOf core)
  | none => false

/-- PAIR_FORMATION_TIMEOUT (R248): a group that has not formed in time completes its pending MPAIRs with
PAIR_MISMATCH. -/
def execPairFormationTimeout (core : Nat) (s : State) : Result :=
  .next (match (s.array (2 * core)).asking with
  | some q => if s.pairExpired core then s.endPairs (groupArrays q.arrays core) codePairMismatch else s
  | none => s)

/-- Whether two parts are of one span. -/
def SpanPart.same (p q : SpanPart) : Bool := p.arrays == q.arrays && p.key == q.key && p.lead == q.lead

/-- The part of a context's array in a span, whether the array is on the core or in its image. -/
def State.spanPart (s : State) (c : Nat) (x : Ctx) : Option SpanPart :=
  if (s.array x.array).claim = some c then (s.array x.array).span else x.heldArray.bind (·.span)

/-- The context of member m of a span of a launch (R250). -/
def State.memberOf (s : State) (launch : Nat) (sp : SpanPart) (m : Nat) : Option Nat :=
  (s.ctxs.find? (fun e => e.2.launch == launch && (match s.spanPart e.1 e.2 with
    | some q => q.same sp && q.member == m
    | none => false))).map (·.1)

/-- The members of the span of a context in member order; of a context in no span, itself alone (R250). -/
def State.spanAll (s : State) (c : Nat) (x : Ctx) : List Nat :=
  match s.spanPart c x with
  | none => [c]
  | some sp => (List.range sp.arrays).filterMap (s.memberOf x.launch sp)

/-- An array leaves its span. -/
def State.leaveSpan (s : State) (c : Nat) : State :=
  match s.ctxOf c with
  | none => s
  | some x =>
    let s1 := if (s.array x.array).claim = some c then s.modArray x.array (fun a => { a with span := none }) else s
    s1.modCtx c (fun y => { y with heldArray := y.heldArray.map (fun a => { a with span := none }) })

/-- Dissolves the span that a context's array is in: every member's array keeps its contents (R237). -/
def State.dissolveSpan (c : Nat) (x : Ctx) (s : State) : State := (s.spanAll c x).foldl State.leaveSpan s

/-- MREL (R249): SLOTP shows the issuing array's flags. DESIGN CHOICE, unsafe: log entry 73. -/
def State.doMrel (k : Nat) (c : Cmd) (x : Ctx) (s : State) : State :=
  let s1 := s.dissolveSpan c.ctx x
  s1.endCmd k 0 (matrixResult false (s1.slotFlags x.array) 0)

/-- Ends the claim of a context on its array (R226): the slots are discarded and a span dissolves. -/
def State.dropClaim (c : Nat) (s : State) : State :=
  match s.ctxOf c with
  | none => s
  | some x =>
    let s1 := s.dissolveSpan c x
    if (s.array x.array).claim = some c then { s1 with arrays := Tab.drop x.array s1.arrays } else s1

/-! ### Start -/

/-- A matrix command is accepted and takes effect, or is rejected (R226, R242). -/
def State.startMatrix (k : Nat) (c : Cmd) (x : Ctx) (s : State) : State :=
  let code := s.matrixCode c x
  if code != 0 then s.endCmd k code (matrixResult false (s.ownFlags c.ctx x) code)
  else
    let s1 := s.claimArray x.array c.ctx
    match c.op with
    | 0 => s1.doMma k c x
    | 1 => s1.startMmag k c x
    | 2 => s1.doMacc k c x
    | 3 => s1.doMst k c x
    | 4 => s1.doMpair k c x
    | _ => s1.doMrel k c x

/-- An MST that failed at a peer: ERR and CODE in its result word as in its status word (R241, Table 9-7). -/
def Cmd.failedWrite (code : Nat) (c : Cmd) : Cmd :=
  let r := 2 ^ 31 + c.result.toNat % 2 ^ 31 / 2 ^ 16 * 2 ^ 16 + code % 2 ^ 16
  { c with err := true, code := code, result := BitVec.ofNat 32 r }

/-- What a matrix command does when everything it asked of peers has come, before its completion. -/
def State.lateMatrix (k : Nat) (c : Cmd) (x : Ctx) (s : State) : State :=
  if c.op = 3 && (c.err || c.lostAny) then s.modCmd k (Cmd.failedWrite (if c.err then c.code else codeRemoteWriteLost))
  else if c.err then s
  else if c.op = 1 then s.doMmag k c x
  else s

end Sys2Proof.Machine
end

