-- ==== Sys2Proof/Machine/Signature.lean ====
section
/-! DEFINITION. SHA-512 and ECDSA on P-521, which the spec names and does not define (R407, R416-R418): the hash, the
curve, public keys in SEC 1 form, signatures and their verification, as FIPS 180-4, SEC 1 and FIPS 186 give them (log
entry 10). -/

namespace Sys2Proof.Machine

/-- A byte string cut or filled with zeros to n bytes. -/
def sized (n : Nat) (bs : List Byte) : List Byte := (List.range n).map (fun i => nthOr 0 bs i)

/-- A number as n bytes, the highest first. -/
def beBytes (n v : Nat) : List Byte := (leBytes n v).reverse

/-- The number that bytes give, the highest first. -/
def ofBeBytes (bs : List Byte) : Nat := ofLeBytes bs.reverse

/-! ### SHA-512 -/

/-- Round constants 0 to 19. -/
def sha512K0 : List (BitVec 64) :=
  [0x428A2F98D728AE22, 0x7137449123EF65CD, 0xB5C0FBCFEC4D3B2F, 0xE9B5DBA58189DBBC,
    0x3956C25BF348B538, 0x59F111F1B605D019, 0x923F82A4AF194F9B, 0xAB1C5ED5DA6D8118,
    0xD807AA98A3030242, 0x12835B0145706FBE, 0x243185BE4EE4B28C, 0x550C7DC3D5FFB4E2,
    0x72BE5D74F27B896F, 0x80DEB1FE3B1696B1, 0x9BDC06A725C71235, 0xC19BF174CF692694,
    0xE49B69C19EF14AD2, 0xEFBE4786384F25E3, 0x0FC19DC68B8CD5B5, 0x240CA1CC77AC9C65]

/-- Round constants 20 to 39. -/
def sha512K1 : List (BitVec 64) :=
  [0x2DE92C6F592B0275, 0x4A7484AA6EA6E483, 0x5CB0A9DCBD41FBD4, 0x76F988DA831153B5,
    0x983E5152EE66DFAB, 0xA831C66D2DB43210, 0xB00327C898FB213F, 0xBF597FC7BEEF0EE4,
    0xC6E00BF33DA88FC2, 0xD5A79147930AA725, 0x06CA6351E003826F, 0x142929670A0E6E70,
    0x27B70A8546D22FFC, 0x2E1B21385C26C926, 0x4D2C6DFC5AC42AED, 0x53380D139D95B3DF,
    0x650A73548BAF63DE, 0x766A0ABB3C77B2A8, 0x81C2C92E47EDAEE6, 0x92722C851482353B]

/-- Round constants 40 to 59. -/
def sha512K2 : List (BitVec 64) :=
  [0xA2BFE8A14CF10364, 0xA81A664BBC423001, 0xC24B8B70D0F89791, 0xC76C51A30654BE30,
    0xD192E819D6EF5218, 0xD69906245565A910, 0xF40E35855771202A, 0x106AA07032BBD1B8,
    0x19A4C116B8D2D0C8, 0x1E376C085141AB53, 0x2748774CDF8EEB99, 0x34B0BCB5E19B48A8,
    0x391C0CB3C5C95A63, 0x4ED8AA4AE3418ACB, 0x5B9CCA4F7763E373, 0x682E6FF3D6B2B8A3,
    0x748F82EE5DEFB2FC, 0x78A5636F43172F60, 0x84C87814A1F0AB72, 0x8CC702081A6439EC]

/-- Round constants 60 to 79. -/
def sha512K3 : List (BitVec 64) :=
  [0x90BEFFFA23631E28, 0xA4506CEBDE82BDE9, 0xBEF9A3F7B2C67915, 0xC67178F2E372532B,
    0xCA273ECEEA26619C, 0xD186B8C721C0C207, 0xEADA7DD6CDE0EB1E, 0xF57D4F7FEE6ED178,
    0x06F067AA72176FBA, 0x0A637DC5A2C898A6, 0x113F9804BEF90DAE, 0x1B710B35131C471B,
    0x28DB77F523047D84, 0x32CAAB7B40C72493, 0x3C9EBE0A15C9BEBC, 0x431D67C49C100D4C,
    0x4CC5D4BECB3E42B6, 0x597F299CFC657E2A, 0x5FCB6FAB3AD6FAEC, 0x6C44198C4A475817]

/-- The round constants: 64 bits of the cube roots of the first 80 primes. PRESUMED, unsafe: log entry 10. -/
def sha512K : List (BitVec 64) := sha512K0 ++ sha512K1 ++ sha512K2 ++ sha512K3

/-- The first hash value: 64 bits of the square roots of the first 8 primes. PRESUMED, unsafe: log entry 10. -/
def sha512Start : List (BitVec 64) :=
  [0x6A09E667F3BCC908, 0xBB67AE8584CAA73B, 0x3C6EF372FE94F82B, 0xA54FF53A5F1D36F1,
    0x510E527FADE682D1, 0x9B05688C2B3E6C1F, 0x1F83D9ABFB41BD6B, 0x5BE0CD19137E2179]

/-- One more word of the message schedule, which is held with its newest word first. -/
def scheduleNext (ws : List (BitVec 64)) : BitVec 64 :=
  let a := nthOr 0 ws 1
  let b := nthOr 0 ws 14
  (a.rotateRight 19 ^^^ a.rotateRight 61 ^^^ a >>> 6) + nthOr 0 ws 6 +
  (b.rotateRight 1 ^^^ b.rotateRight 8 ^^^ b >>> 7) + nthOr 0 ws 15

/-- The message schedule of a block, its newest word first; n words are still to come. -/
def scheduleOf : Nat → List (BitVec 64) → List (BitVec 64)
  | 0, ws => ws
  | n + 1, ws => scheduleOf n (scheduleNext ws :: ws)

/-- The 16 words of a block of 128 bytes. -/
def blockWords (bs : List Byte) : List (BitVec 64) :=
  (List.range 16).map (fun i => BitVec.ofNat 64 (ofBeBytes ((bs.drop (8 * i)).take 8)))

/-- One round: the eight working words, a round constant and a word of the schedule. -/
def sha512Round (v : List (BitVec 64)) (kw : BitVec 64 × BitVec 64) : List (BitVec 64) :=
  let at_ := nthOr (0 : BitVec 64) v
  let t1 := at_ 7 + ((at_ 4).rotateRight 14 ^^^ (at_ 4).rotateRight 18 ^^^ (at_ 4).rotateRight 41) +
    ((at_ 4 &&& at_ 5) ^^^ (~~~(at_ 4) &&& at_ 6)) + kw.1 + kw.2
  let t2 := ((at_ 0).rotateRight 28 ^^^ (at_ 0).rotateRight 34 ^^^ (at_ 0).rotateRight 39) +
    ((at_ 0 &&& at_ 1) ^^^ (at_ 0 &&& at_ 2) ^^^ (at_ 1 &&& at_ 2))
  [t1 + t2, at_ 0, at_ 1, at_ 2, at_ 3 + t1, at_ 4, at_ 5, at_ 6]

/-- The hash value after a block. -/
def sha512Block (h : List (BitVec 64)) (bs : List Byte) : List (BitVec 64) :=
  let ws := (scheduleOf 64 (blockWords bs).reverse).reverse
  (h.zip ((sha512K.zip ws).foldl sha512Round h)).map (fun e => e.1 + e.2)

/-- The hash value after n blocks. -/
def sha512Blocks : Nat → List (BitVec 64) → List Byte → List (BitVec 64)
  | 0, h, _ => h
  | n + 1, h, bs => sha512Blocks n (sha512Block h (bs.take 128)) (bs.drop 128)

/-- A message filled to whole blocks: 0x80, zeros, and its length in bits as 16 bytes. -/
def sha512Padded (bs : List Byte) : List Byte :=
  bs ++ 0x80 :: List.replicate ((239 - bs.length % 128) % 128) 0 ++ beBytes 16 (8 * bs.length)

/-- SHA-512 (R342, R407, R416-R418). PRESUMED, unsafe: log entry 10. -/
def sha512 (bs : List Byte) : List Byte :=
  let m := sha512Padded bs
  (sha512Blocks (m.length / 128) sha512Start m).flatMap (fun w => beBytes 8 w.toNat)

/-! ### The curve P-521 -/

/-- The prime of the field. -/
def curveP : Nat := 2 ^ 521 - 1

/-- The order of the base point. PRESUMED, unsafe: log entry 10. -/
def curveN : Nat :=
  0x01FFFFFFFFFFFFFFFFFFFFFFFFFFFFFFFFFFFFFFFFFFFFFFFFFFFFFFFFFFFFFFFFFA51868783BF2F966B7FCC0148F709A5D03BB5C9B8899C47AEBB6FB71E91386409

/-- The base point. PRESUMED, unsafe: log entry 10. -/
def curveG : Nat × Nat :=
  (0x00C6858E06B70404E9CD9E3ECB662395B4429C648139053FB521F828AF606B4D3DBAA14B5E77EFE75928FE1DC127A2FFA8DE3348B3C1856A429BF97E7E31C2E5BD66,
   0x011839296A789A3BC0045C8A5FB42C7D1BD998F54449579B446817AFBD17273E662C97EE72995EF42640C550B9013FAD0761353C7086A272C24088BE94769FD16650)

/-- The power of b to an exponent below 2^f, modulo m. -/
def powMod (m : Nat) : Nat → Nat → Nat → Nat
  | 0, _, _ => 1 % m
  | f + 1, e, b => let r := powMod m f (e / 2) (b * b % m); if e % 2 = 1 then r * b % m else r

/-- The inverse of a number modulo a prime below 2^521. -/
def inverseMod (m b : Nat) : Nat := powMod m 521 (m - 2) (b % m)

/-- The sum of two points; none is the point at infinity. The curve is y^2 = x^3 - 3x + b. -/
def pointAdd (p q : Option (Nat × Nat)) : Option (Nat × Nat) :=
  match p, q with
  | none, q => q
  | p, none => p
  | some (x1, y1), some (x2, y2) =>
    if x1 = x2 && (y1 + y2) % curveP = 0 then none
    else
      let l := if x1 = x2 then (3 * x1 * x1 + curveP - 3) * inverseMod curveP (2 * y1) % curveP
        else (y2 + curveP - y1) * inverseMod curveP (x2 + curveP - x1) % curveP
      let x3 := (l * l + 2 * curveP - x1 - x2) % curveP
      some (x3, (l * (x1 + curveP - x3) + curveP - y1) % curveP)

/-- A point added to itself k times, k below 2^f. -/
def pointMul : Nat → Nat → Option (Nat × Nat) → Option (Nat × Nat)
  | 0, _, _ => none
  | f + 1, k, p => let r := pointMul f (k / 2) (pointAdd p p); if k % 2 = 1 then pointAdd r p else r

/-! ### Keys and signatures -/

/-- The private scalar of a key named by a number: 1 to the order less 1. -/
def scalarOf (key : Nat) : Nat := 1 + key % (curveN - 1)

/-- The public point of a key. -/
def publicPoint (key : Nat) : Option (Nat × Nat) := pointMul 521 (scalarOf key) (some curveG)

/-- The public key of a key in uncompressed SEC 1 form: 0x04, then both coordinates of 66 bytes (R407, R416). PRESUMED,
unsafe: log entry 10. -/
def publicKey (key : Nat) : List Byte :=
  let q := (publicPoint key).getD (0, 0)
  0x04 :: (beBytes 66 q.1 ++ beBytes 66 q.2)

/-- The number that ECDSA signs: SHA-512 of the message, which is shorter than the order. -/
def digestNat (message : List Byte) : Nat := ofBeBytes (sha512 message)

/-- A signature over a message with a key: r and s, 66 bytes each, big-endian; its secret number is free (R407, R416,
R418). PRESUMED, unsafe: log entry 10. -/
def signature (key : Nat) (message : List Byte) : List Byte :=
  let k := scalarOf (Config.nonce key message)
  let r := ((pointMul 521 k (some curveG)).getD (0, 0)).1 % curveN
  let s := inverseMod curveN k * (digestNat message + r * scalarOf key) % curveN
  beBytes 66 r ++ beBytes 66 s

/-- Whether a signature of 132 bytes verifies over a message under a public point (R417). PRESUMED, unsafe: log entry
10. -/
def ecdsaVerifies (q : Option (Nat × Nat)) (message sig : List Byte) : Bool :=
  let r := ofBeBytes (sig.take 66)
  let s := ofBeBytes ((sig.drop 66).take 66)
  let w := inverseMod curveN s
  0 < r && r < curveN && 0 < s && s < curveN &&
  (match pointAdd (pointMul 521 (digestNat message * w % curveN) (some curveG)) (pointMul 521 (r * w % curveN) q) with
   | some (x, _) => x % curveN == r
   | none => false)

/-- KID of a key: the first eight bytes of SHA-512 of its public key. PRESUMED, unsafe: log entry 10. -/
def kidOf (key : Nat) : List Byte := sized 8 (sha512 (publicKey key))

end Sys2Proof.Machine
end

