-- ==== Sys2Proof/Machine/Energy.lean ====
section
/-! DEFINITION. Energy meters and signed readings (R399-R409): ERD, attribution periods and their charges, the mirror,
and readings signed for the host. -/

namespace Sys2Proof.Machine

/-! ### Counters and reports (R399, R402, Table 16-5) -/

/-- The uncertainty of an energy (R402). -/
def uncertainty (direct attributed gapu : Nat) : Nat :=
  Nat.max (ceilDiv (15 * direct) 1000) 150000 + ceilDiv (4 * attributed) 100 + gapu

/-- UNC of a counter, taken from the partition's creation. -/
def Meter.unc (m : Meter) : Nat := uncertainty m.direct (m.count - m.direct) m.gapu

/-- A report of a partition: COUNT, DIRECT, UNC, GAPU (Table 16-5). -/
def Meter.report (m : Meter) : List Byte := leBytes 8 m.count ++ leBytes 8 m.direct ++ leBytes 8 m.unc ++ leBytes 8 m.gapu

/-- The counters of a partition. -/
def State.meterOf (s : State) (p : Nat) : Meter := match s.part p with | some x => x.meter | none => {}

/-- What readings of a partition depend on beside its counters. -/
def State.auditOf (s : State) (p : Nat) : Audit := Tab.read {} p s.stored.audit

/-- Changes what readings of a partition depend on; it stands in non-volatile storage (R407). -/
def State.modAudit (p : Nat) (f : Audit → Audit) (s : State) : State :=
  { s with stored := { s.stored with audit := Tab.set p (f (s.auditOf p)) s.stored.audit } }

/-- RSEQ of a partition's last signed reading. -/
def State.lastReading (s : State) (p : Nat) : Nat := (s.auditOf p).rseq

/-! ### ERD (R404, R405) -/

/-- ERD's table: ESP, RPT, and zeros. -/
def erdBad (ws : List Nat) : List (Nat × Bool) :=
  [(0, bits (nthOr 0 ws 0) 7 1 != 0), (1, bits (nthOr 0 ws 1) 31 19 != 0 || nthOr 0 ws 1 % 8 != 0)] ++ zeroFrom 2 ws

/-- What ERD fixes (R404). -/
def erdSpec : EngSpec := { eng := 6, op := 0, flagKind := true, check := tableCheck erdBad }

/-- ERD (R404). -/
def execErd (l : Bool) (d a : BitVec 8) (b : BitVec 5) (s : State) : Result := .next (s.issueEngine erdSpec l d a b)

/-- The report that an ERD writes. -/
def State.erdReport (s : State) (c : Cmd) : List Byte :=
  (if bit (c.w 0) 0 then
    let n := match s.ctxOf c.ctx with | some x => x.ccount | none => 0
    leBytes 8 n ++ leBytes 8 0 ++ leBytes 8 (ceilDiv (4 * n) 100) ++ leBytes 8 0
   else (s.meterOf c.part).report) ++ leBytes 8 (s.lastReading c.part)

/-- The result word of ERD (Table 16-6). -/
def State.erdResult (s : State) (c : Cmd) (code : Nat) : Word :=
  BitVec.ofNat 32 (2 ^ 31 * ofBool (code != 0) + 2 ^ 30 * ofBool ((s.meterOf c.part).gapu != 0) +
    2 ^ 29 * ofBool (bit (c.w 0) 0) + code)

/-- An ERD starts: its bounds, the check against live barrier words, the report (R404). One of a chain writes none. -/
def State.startErd (k : Nat) (c : Cmd) (s : State) : State :=
  match c.ring, s.ctxOf c.ctx with
  | some _, some x =>
    if x.scratch < c.w 1 + 40 then s.endCmd k 0xA001 (s.erdResult c 0xA001)
    else
      let t := s.writeRanges k x.core [(.window c.ctx (c.w 1), (s.erdReport c).map (fun b => (b, false)))]
      let code := match t.cmd k with | some y => y.code | none => 0
      t.endCmd k code (t.erdResult c code)
  | _, _ => s.endCmd k 0 (s.erdResult c 0)

/-! ### Attribution periods (R400, R401, R403) -/

/-- Die cycles of an attribution period (Table 16-3). -/
def attributionPeriod : Nat := 2 ^ 16

/-- Divides an energy by weights, each share the difference of two running sums rounded down, so that the shares add up to
it; where nothing has a weight it is partition 0's. DESIGN CHOICE, safe: log entry 49. -/
def sharesOf (e : Nat) (ws : List (Nat × Nat)) : List (Nat × Nat) :=
  let total := (ws.map (·.2)).foldl (· + ·) 0
  if total = 0 then [(0, e)]
  else
    (ws.foldl (fun (acc : Nat × List (Nat × Nat)) w =>
      (acc.1 + w.2, acc.2 ++ [(w.1, e * (acc.1 + w.2) / total - e * acc.1 / total)])) (0, [])).2

/-- The partition whose context holds a core or half: that of a context on it, else the one that reserves it. -/
def State.holderOf (s : State) (core : Nat) (half : Option Bool) : Nat :=
  match s.ctxs.find? (fun e => e.2.core == core && e.2.half == half && e.2.resident) with
  | some (_, x) => x.part
  | none =>
    match s.parts.find? (fun e => e.2.record.cores.any (fun c => c.core == core && c.half == half)) with
    | some (p, _) => p
    | none => 0

/-- Words and cell-steps as one weight: a cell-step counts as 16 words (Table 16-2). -/
def workWeight (words steps : Nat) : Nat := words + 16 * steps

/-- A core's energy: direct where it is whole; of a split core attributed by the work of its halves (Table 16-2). -/
def State.coreCharges (s : State) (u : CoreUse) : List (Nat × Bool × Nat) :=
  if s.splitCore u.core then
    (sharesOf u.energy [(s.holderOf u.core (some false), workWeight u.words.1 u.steps.1),
      (s.holderOf u.core (some true), workWeight u.words.2 u.steps.2)]).map (fun w => (w.1, false, w.2))
  else [(s.holderOf u.core none, true, u.energy)]

/-- What a partition reserves of a die, a half-core as one and a core as two (Table 16-2). -/
def reservedOn (die : Nat) (r : PartRecord) : Nat :=
  ((r.cores.filter (fun c => dieOf c.core == die)).map (fun c => if c.half.isSome then 1 else 2)).foldl (· + ·) 0

/-- Weights of idle energy: reserved cores, and what nobody reserves for partition 0 (Table 16-2). -/
def State.idleWeights (s : State) (die : Nat) : List (Nat × Nat) :=
  let ws := s.parts.map (fun e => (e.1, reservedOn die e.2.record))
  ws ++ [(0, 2 * Config.coresPerDie - (ws.map (·.2)).foldl (· + ·) 0)]

/-- The energy of a period divided as Table 16-2 gives (R401): partition, whether direct, nanojoules. DESIGN CHOICE, safe:
log entry 49. -/
def State.divided (s : State) (die : Nat) (m : Metered) : List (Nat × Bool × Nat) :=
  let attributed := fun (ws : List (Nat × Nat)) => ws.map (fun w => (w.1, false, w.2))
  m.cores.flatMap s.coreCharges ++
  attributed (sharesOf m.dram (m.bytes ++ m.arrived.map (fun a => ((s.ownerOf (2 ^ 29 * a.1)).getD 0, a.2)))) ++
  attributed (sharesOf m.background (s.parts.map (fun e =>
    (e.1, (e.2.record.dram.filter (fun d => homeDie (2 ^ 29 * d.2) == die)).length)))) ++
  attributed (sharesOf m.link (m.flits.map (fun f => ((s.vf f.1).part, f.2)))) ++
  attributed (sharesOf m.col m.colBytes) ++
  attributed (sharesOf m.idle (s.idleWeights die))

/-- Adds a charge to those of its partition. -/
def addCharge (c : Charge) : List Charge → List Charge
  | [] => [c]
  | d :: t =>
    if d.part = c.part then { d with direct := d.direct + c.direct, attributed := d.attributed + c.attributed } :: t
    else d :: addCharge c t

/-- Rounds amounts to whole microjoules by running sums from a carried remainder: one charge per partition, and the
remainder that carries on (R400). -/
def roundCharges (carry : Nat) (xs : List (Nat × Bool × Nat)) : List Charge × Nat :=
  xs.foldl (fun (acc : List Charge × Nat) x =>
    let n := acc.2 + x.2.2
    (addCharge (if x.2.1 then { part := x.1, direct := n / 1000, attributed := 0 }
      else { part := x.1, direct := 0, attributed := n / 1000 }) acc.1, n % 1000)) ([], carry)

/-- A context's charge of a period (R403): its share of the energy of its core by words and cell-steps, and the energy of
its own accesses and commands, in microjoules. -/
def ctxCharge (m : Metered) (core : Nat) (u : CtxUse) : Nat :=
  let k := match m.cores.find? (fun c => c.core == core) with
    | some c =>
      let all := workWeight (c.words.1 + c.words.2) (c.steps.1 + c.steps.2)
      if all = 0 then 0 else c.energy * workWeight u.words u.steps / all
    | none => 0
  (k + u.own) / 1000

/-- A context takes its charge; the counter of a sealed image stands still (R403). -/
def Ctx.addCharge (m : Metered) (u : CtxUse) (x : Ctx) : Ctx :=
  if x.resident then { x with ccount := x.ccount + ctxCharge m x.core u } else x

/-- ATTRIBUTION_PERIOD_END (R400, R401, R403): a die's period of 2^16 of its cycles ends; its energy is divided and the
charges go to die 0. DESIGN CHOICE, safe: log entry 49. -/
def execAttributionPeriodEnd (die : Nat) (m : Metered) (ctxs : List CtxUse) (s : State) : Result :=
  .next (if die < 4 && nthOr 0 s.periods die + attributionPeriod ≤ s.cycle die then
    let (cs, left) := roundCharges (nthOr 0 s.carried die) (s.divided die m)
    (ctxs.foldl (fun (t : State) u => t.modCtx u.ctx (Ctx.addCharge m u))
      { s with periods := mapNth die (· + attributionPeriod) s.periods,
               carried := mapNth die (fun _ => left) s.carried,
               charges := Tab.set die (Tab.read [] die s.charges ++ [cs]) s.charges }).post (.periodCharge die)
  else s)

/-- A charge on a partition's counters. -/
def Part.addCharge (c : Charge) (p : Part) : Part :=
  { p with meter := { p.meter with count := p.meter.count + c.direct + c.attributed, direct := p.meter.direct + c.direct } }

/-- The partition that a charge goes to: partition 0 where its own is gone, so that none is lost. -/
def State.chargeOf (s : State) (c : Charge) : Nat := if (s.part c.part).isSome then c.part else 0

/-- Adds the charges of one period of a die (R400). -/
def State.addCharges (s : State) (cs : List Charge) : State :=
  cs.foldl (fun (t : State) c =>
    { t with energy := t.energy + c.direct + c.attributed }.modPart (t.chargeOf c) (Part.addCharge c)) s

/-- PERIOD_CHARGE (R400): die 0 adds a die's charges of one period in one indivisible update. DESIGN CHOICE, safe: log
entry 49. -/
def execPeriodCharge (die : Nat) (s : State) : Result :=
  .next (match Tab.read [] die s.charges with
  | [] => s
  | cs :: rest => { s with charges := Tab.write [] die rest s.charges }.addCharges cs)

/-- Die 0 adds every charge that is still on its way (R400). -/
def State.takeCharges (s : State) : State :=
  (s.charges.flatMap (·.2)).foldl State.addCharges { s with charges := [] }

/-! ### The mirror (R406) -/

/-- Microjoules of package energy between mirrors (Table 16-3: 64 kJ). -/
def mirrorEnergy : Nat := 64000000000

/-- Microjoules that an unexpected reset may hide (Table 16-3). -/
def gapBound : Nat := 64004000000

/-- Writes the mirror whole. Before bring-up has loaded the counters and the partitions there is nothing to write, and the
mirror stands (R406, R414). -/
def State.writeMirror (s : State) : State :=
  if s.ready then
    { s with
      mirrored := s.energy
      stored := { s.stored with mirror := s.parts.map (fun e => (e.1, e.2.meter)), total := s.energy } }
  else s

/-- Whether a mirror interval has passed. -/
def State.mirrorDue (s : State) : Bool := s.mirrored + mirrorEnergy ≤ s.energy

/-- MIRROR_WRITE (R406). -/
def execMirrorWrite (s : State) : Result := .next (if s.mirrorDue then s.writeMirror else s)

/-! ### Signed readings (R407, R408) -/

/-- The attestation key of the running image (R416). -/
def State.attestation (s : State) : Nat := Config.attestKey (match s.running with | some f => f.svn | none => 0)

/-- Bytes 0x00 to 0x5F of a signed reading (Table 16-7). -/
def readingBody (p : Nat) (gap snap : Bool) (m : Meter) (ssn rseq : Nat) (nonce kid : List Byte) : List Byte :=
  leBytes 4 0x47524E45 ++ leBytes 2 1 ++ leBytes 1 p ++ leBytes 1 (ofBool gap + 2 * ofBool snap) ++ m.report ++
  leBytes 8 (ssn % 2 ^ 48) ++ leBytes 8 rseq ++ sized 32 nonce ++ kid

/-- ERSEQ of the pages of a partition's functions shows its last signed reading (R408, Table 16-8). -/
def State.showReading (p : Nat) (s : State) : State :=
  (s.vfs.filter (fun e => e.2.serves p)).foldl (fun t e => t.setPage e.1 0x230 8 (t.lastReading p)) s

/-- A signed reading of a partition, with the next RSEQ of the package, which is stored first (R407). -/
def State.signReading (p : Nat) (snap : Bool) (nonce : List Byte) (s : State) : List Byte × State :=
  let n := s.stored.rseq + 1
  let a := s.auditOf p
  let body := readingBody p a.gapMark snap (s.meterOf p) a.ssn n nonce (kidOf s.attestation)
  let s1 := { s with stored := { s.stored with rseq := n } }.modAudit p (fun x => { x with gapMark := false, rseq := n })
  (sized 256 (body ++ signature s.attestation body), s1.showReading p)

/-- Ends a request for a reading: ESTAT, and GO cleared, once the reading is written (R408). -/
def State.endReading (vf : Nat) (err : Bool) (code : Nat) (s : State) : State :=
  (s.modVf vf (fun x => { x with ended := some (err, code) })).showPages (s.vf vf).part

/-- The page code of the first byte of a range that does not translate with PW. -/
def State.writeFail (s : State) (p va n : Nat) : Option Nat :=
  match s.extent p va n { w := true } with | .inl f => some f.code | .inr _ => none

/-- SIGNED_READING (R408): the report is taken and signed, written to ROUT, and DONE set; a ROUT that is no multiple
of 256 or does not translate with PW fails the request. DESIGN CHOICE, safe: log entry 26. -/
def execSignedReading (vf : Nat) (s : State) : Result :=
  .next (if !bit (s.pageNat vf 0x228 4) 0 || (s.vf vf).ended.isSome || (s.vf vf).st == .unassigned then s
  else
    let p := (s.vf vf).part
    let out := s.pageNat vf 0x220 8
    if out % 256 != 0 then
      let (n, t) := s.free
      t.endReading vf true n
    else if !extentOk out 256 then s.endReading vf true fAddressRange
    else
      match s.writeFail p out 256 with
      | some code => s.endReading vf true code
      | none =>
        let (bs, t) := s.signReading p false ((s.vf vf).page.bytes 0x200 32)
        match t.writeVa p out bs with
        | some u => u.endReading vf false 0
        | none => s.endReading vf true fPageNotPresent)

end Sys2Proof.Machine
end

