-- ==== Sys2Proof/Machine/Formats.lean ====
section
/-! DEFINITION. Storage formats of the copy engine (R294-R296): elements of a stored tile, their values, and packing
(R301, R302, Tables 11-7 and 11-8). -/

namespace Sys2Proof.Machine

/-! ### Formats by SF (Tables 11-7, 11-8) -/

/-- Whether SF names a format. -/
def sfOk (sf : Nat) : Bool := sf ≤ 0xB
/-- Whether SF names an MX format. -/
def sfMx (sf : Nat) : Bool := 6 ≤ sf && sf ≤ 0xB
/-- Element bits. -/
def sfBits (sf : Nat) : Nat := nthOr 8 [16, 16, 8, 8, 8, 4, 8, 8, 6, 6, 4, 8] sf
/-- Bytes of a stored row. -/
def sfRow (sf : Nat) : Nat := 8 * sfBits sf
/-- The binary format of the elements; none for integers. -/
def sfFmt (sf : Nat) : Option Fmt :=
  match sf with
  | 0 => some bf16
  | 1 => some fp16
  | 2 | 6 => some { ebits := 4, fbits := 3 }
  | 3 | 7 => some { ebits := 5, fbits := 2 }
  | 8 => some { ebits := 3, fbits := 2 }
  | 9 => some { ebits := 2, fbits := 3 }
  | 10 => some { ebits := 2, fbits := 1 }
  | _ => none
/-- Whether the encodings of a format hold NaNs and infinities as IEEE formats do. -/
def sfIeee (sf : Nat) : Bool := sf == 0 || sf == 1 || sf == 3 || sf == 7
/-- EMAX of an MX format (Table 11-8). -/
def sfEmax (sf : Nat) : Int := match sf with | 6 => 8 | 7 => 15 | 8 => 4 | 9 => 2 | 10 => 2 | _ => 0
/-- The encoding of the largest finite magnitude of a floating-point element (Table 11-8). -/
def sfTop (sf : Nat) : Nat :=
  match sf with | 2 | 6 => 0x7E | 3 | 7 => 0x7B | 8 => 0x1F | 9 => 0x1F | 10 => 0x7 | 0 => 0x7F7F | _ => 0x7BFF

/-! ### Places of elements in a row (R296) -/

/-- First bit of element c in the bytes of a row. -/
def sfBitAt (sf c : Nat) : Nat := sfBits sf * c

/-- The bytes of a row that hold element c: first and number. -/
def sfBytesOf (sf c : Nat) : Nat × Nat :=
  let lo := sfBitAt sf c
  (lo / 8, (lo + sfBits sf - 1) / 8 + 1 - lo / 8)

/-- Element c of a row of bytes with marks, and whether a unit that holds one of its bits is marked. -/
def sfElem (sf c : Nat) (row : List (Byte × Bool)) : Nat × Bool :=
  let (o, n) := sfBytesOf sf c
  let bs := (row.drop o).take n
  ((ofLeBytes (bs.map (·.1)) / 2 ^ (sfBitAt sf c % 8)) % 2 ^ sfBits sf, bs.any (·.2))

/-- The bytes of a row from its elements, each with whether it is poisoned. -/
def sfPack (sf : Nat) (es : List (Nat × Bool)) : List (Byte × Bool) :=
  let w := sfBits sf
  let v := (es.reverse).foldl (fun acc e => acc * 2 ^ w + e.1 % 2 ^ w) 0
  ((leBytes (sfRow sf) v).zipIdx).map (fun b =>
    (b.1, ((List.range es.length).filter (fun c => 8 * b.2 < w * c + w && w * c < 8 * b.2 + 8)).any (fun c =>
      (nthOr (0, false) es c).2)))

/-! ### Values -/

/-- What a stored element stands for. -/
inductive Stored where
  | nan
  | inf (neg : Bool)
  | fin (x : Fin2)
  deriving DecidableEq, Repr

/-- An integer as an exact value. -/
def Fin2.ofInt (i : Int) : Fin2 := { neg := i < 0, mant := i.natAbs, exp := 0 }

/-- The value of a stored element, scale apart (R295). -/
def storedValue (sf x : Nat) : Stored :=
  match sfFmt sf with
  | some f =>
    if sfIeee sf then (if f.isNan x then .nan else if f.isInf x then .inf (f.sign x) else .fin (f.value x))
    else if (sf == 2 || sf == 6) && x % 128 == 127 then .nan
    else .fin (f.value x)
  | none => .fin { (Fin2.ofInt (signed (sfBits sf) x)) with exp := if sf = 11 then -6 else 0 }

/-- Whether two finite values are equal. -/
def Fin2.same (x y : Fin2) : Bool :=
  let e := if x.exp < y.exp then x.exp else y.exp
  let a := x.mant * 2 ^ (x.exp - e).toNat
  let b := y.mant * 2 ^ (y.exp - e).toNat
  a == b && (a == 0 || x.neg == y.neg)

/-! ### Rounding into narrow formats -/

/-- The magnitude code of a finite value rounded into a format whose exponent field has no bound (R128). -/
def Fmt.magnitude (f : Fmt) (rnd : Nat) (x : Fin2) : Nat :=
  if x.mant = 0 then 0
  else
    let low : Int := 1 - f.bias - f.fbits
    let want : Int := (Nat.log2 x.mant : Int) + x.exp - f.fbits
    let q := if want < low then low else want
    let v := roundShift rnd x.neg false x.mant (x.exp * -1 + q)
    if v = 0 then 0
    else
      let k := Nat.log2 v
      if k < f.fbits then v
      else ((k : Int) + q + f.bias).toNat * 2 ^ f.fbits + (v / 2 ^ (k - f.fbits) - 2 ^ f.fbits)

/-- An integer rounded from a finite value (R128) and clamped to w bits. -/
def roundInt (w rnd : Nat) (x : Fin2) : Nat :=
  let q := roundShift rnd x.neg false x.mant (-x.exp)
  wrap w (clamp (-(2 ^ (w - 1) : Nat)) ((2 ^ (w - 1) : Nat) - 1) (if x.neg then -(q : Int) else q))

/-- A tile element packed into a format that is not MX (R301): v as FP32. -/
def packPlain (sf rnd : Nat) (sat : Bool) (p : Bool) (v : Nat) : Nat :=
  match sf with
  | 0 => if p then bf16.poison else fp32.convert bf16 { rnd := rnd, sat := sat } v
  | 1 => if p then fp16.poison else fp32.convert fp16 { rnd := rnd, sat := sat } v
  | 2 =>
    let f : Fmt := { ebits := 4, fbits := 3 }
    if p then 0
    else if fp32.isNan v then 0x7F
    else
      let m := f.magnitude rnd (fp32.value v)
      if fp32.isInf v || 0x7E < m then (if sat then f.signOf (fp32.sign v) + 0x7E else 0x7F)
      else f.signOf (fp32.sign v) + m
  | 3 => if p then 0 else fp32.convert { ebits := 5, fbits := 2 } { rnd := rnd, sat := sat } v
  | _ =>
    let w := sfBits sf
    if p || fp32.isNan v then 0
    else if fp32.isInf v then wrap w (if fp32.sign v then -(2 ^ (w - 1) : Nat) else (2 ^ (w - 1) : Nat) - 1)
    else roundInt w rnd (fp32.value v)

/-- The floor of the base-2 logarithm of a positive magnitude. -/
def Fin2.log (x : Fin2) : Int := (Nat.log2 x.mant : Int) + x.exp

/-- X of an MX block (R302): its values as FP32, all finite. -/
def mxExponent (sf : Nat) (vs : List Nat) : Int :=
  match (vs.map fp32.value).filter (fun x => x.mant != 0) with
  | [] => -127
  | x :: t => clamp (-127) 127 ((t.map Fin2.log).foldl max x.log - sfEmax sf)

/-- An element of an MX block under scale exponent X (R302). -/
def packMx (sf rnd : Nat) (x : Int) (v : Nat) : Nat :=
  let y := { fp32.value v with exp := (fp32.value v).exp - x }
  match sfFmt sf with
  | some f => f.signOf y.neg + Nat.min (sfTop sf) (f.magnitude rnd y)
  | none => roundInt 8 rnd { y with exp := y.exp + 6 }

end Sys2Proof.Machine
end

