-- ==== Sys2Proof/Machine/Copy.lean ====
section
/-! DEFINITION. The tensor copy engine (R280-R308): issue of its commands, acceptance, the bytes that move, packing
and expansion, cancellation, and its completion points. -/

namespace Sys2Proof.Machine

/-! ### Issue (R283, R284, R289-R303) -/

/-- Element size of a reduce operation (Table 11-6). -/
def ropSize (rop : Nat) : Nat := if 3 ≤ rop ∧ rop ≤ 5 then 2 else 4

/-- Whether an offset or address pair of words breaks an endpoint's coding: kind 1 or 2 keeps 19 bits. -/
def endLowBad (kind unit w : Nat) : Bool := ((kind == 1 || kind == 2) && bits w 31 19 != 0) || w % unit != 0
/-- High word of an endpoint. -/
def endHighBad (kind w : Nat) : Bool := (kind == 1 || kind == 2) && w != 0

/-- Tables 11-3 and 11-4. DEDUCED, unsafe: log entry 54. -/
def xcpBad (op : Nat) (ws : List Nat) : List (Nat × Bool) :=
  let w := fun k => nthOr 0 ws k
  let fd := bit (w 0) 7
  let sk := bits (w 0) 6 5
  let dk := bits (w 0) 4 3
  let dwg := bit (w 7) 31
  let drem := bit (w 7) 30
  let rcb := bits (w 7) 20 15
  let e := if op = 1 then ropSize (bits (w 0) 2 0) else 1
  [(0, sk == 2 || (if op = 1 then dk != 0 || bits (w 0) 2 0 == 7 else bits (w 0) 2 0 != 0)),
   (1, if fd then bits (w 1) 31 19 != 0 || w 1 % 64 != 0 else endLowBad sk e (w 1)),
   (2, if fd then w 2 != 0 else endHighBad sk (w 2)),
   (3, if fd then w 3 != 0 else endLowBad dk e (w 3)),
   (4, if fd then w 4 != 0 else endHighBad dk (w 4)),
   (5, bits (w 5) 31 25 != 0 || (if fd then w 5 != 0 else w 5 == 0 || 16777216 < w 5 || w 5 % e != 0)),
   (6, !dwg && w 6 != 0),
   (7, bits (w 7) 14 0 != 0 || (!dwg && drem) || (!drem && bits (w 7) 29 21 != 0) || (32 ≤ rcb && rcb != 63) ||
       (dk == 2 && !dwg))]

/-- The issue-time check of XCP and XCPR (R284). -/
def xcpCheck (op a : Nat) (ws : List Nat) (ps : List Bool) (s : State) : Option FaultInfo :=
  let rcb := bits (nthOr 0 ws 7) 20 15
  firstFault [tableCheck (xcpBad op) a ws ps s,
    faultIf (rcb < 32 && s.cx.nbar ≤ rcb) { code := fBarrierRange, detail0 := rcb }]

/-- Whether a format's data endpoint and pitch must be even (R296). -/
def sfUnit (sf : Nat) : Nat := if sf ≤ 1 then 2 else 1

/-- Words of a scale endpoint: ESP, words 5 and 6. -/
def scaleBad (mx : Bool) (w0 lo hi : Nat) : List (Nat × Bool) :=
  let sck := bits w0 5 4
  [(5, if mx then sck == 1 && bits lo 31 19 != 0 else lo != 0), (6, if mx then sck == 1 && hi != 0 else hi != 0)]

/-- XEXP's table (R297). -/
def xexpBad (ws : List Nat) : List (Nat × Bool) :=
  let w := fun k => nthOr 0 ws k
  let sf := bits (w 7) 31 28
  let ck := bits (w 7) 27 26
  let mx := sfMx sf
  let sk := bits (w 0) 7 6
  [(0, 2 ≤ sk || 2 ≤ bits (w 0) 5 4 || (!mx && bits (w 0) 5 4 != 0) || bits (w 0) 3 0 != 0),
   (1, endLowBad sk (sfUnit sf) (w 1)), (2, endHighBad sk (w 2)),
   (3, if ck = 2 then bits (w 3) 31 19 != 0 || w 3 % 4096 != 0 else operandBad (w 3)),
   (4, bits (w 4) 31 24 != 0 || w 4 % sfUnit sf != 0)] ++ scaleBad mx (w 0) (w 5) (w 6) ++
  [(7, !sfOk sf || ck == 3 || (ck == 2 && sf != 4 && sf != 5) || (!mx && bit (w 7) 25) || bits (w 7) 23 16 != 0 ||
       (!mx && bits (w 7) 15 0 != 0))]

/-- XPACK's table (R300). -/
def xpackBad (ws : List Nat) : List (Nat × Bool) :=
  let w := fun k => nthOr 0 ws k
  let sf := bits (w 7) 31 28
  let mx := sfMx sf
  let dk := bits (w 0) 7 6
  [(0, 2 ≤ dk || 2 ≤ bits (w 0) 5 4 || (!mx && bits (w 0) 5 4 != 0) || bits (w 0) 3 0 != 0),
   (1, operandBad (w 1)), (2, endLowBad dk (sfUnit sf) (w 2)), (3, endHighBad dk (w 3)),
   (4, bits (w 4) 31 24 != 0 || w 4 % sfUnit sf != 0)] ++ scaleBad mx (w 0) (w 5) (w 6) ++
  [(7, !sfOk sf || 5 ≤ bits (w 7) 27 25 || (!mx && bit (w 7) 22) || bits (w 7) 21 16 != 0 || (!mx && bits (w 7) 15 0 != 0))]

/-- XCAN's table (R303). -/
def xcanBad (ws : List Nat) : List (Nat × Bool) :=
  [(0, bits (nthOr 0 ws 0) 7 0 != 0), (1, bits (nthOr 0 ws 1) 7 0 != 0)] ++ zeroFrom 2 ws

/-- A copy instruction. -/
def copySpec (op : Nat) (flag : Bool) (check : Nat → List Nat → List Bool → State → Option FaultInfo) : EngSpec :=
  { eng := 2, op := op, flagKind := flag, check := check }

/-- XCP (R289). -/
def xcpSpec : EngSpec := copySpec 0 false (xcpCheck 0)
/-- XCPR (R292). -/
def xcprSpec : EngSpec := copySpec 1 false (xcpCheck 1)
/-- XEXP (R297). -/
def xexpSpec : EngSpec := copySpec 2 false (tableCheck xexpBad)
/-- XPACK (R300). -/
def xpackSpec : EngSpec := copySpec 3 false (tableCheck xpackBad)
/-- XCAN (R303). -/
def xcanSpec : EngSpec := copySpec 4 true (tableCheck xcanBad)

/-- XCP (R289). -/
def execXcp (l : Bool) (d a : BitVec 8) (b : BitVec 5) (s : State) : Result := .next (s.issueEngine xcpSpec l d a b)
/-- XCPR (R292). -/
def execXcpr (l : Bool) (d a : BitVec 8) (b : BitVec 5) (s : State) : Result := .next (s.issueEngine xcprSpec l d a b)
/-- XEXP (R297). -/
def execXexp (l : Bool) (d a : BitVec 8) (b : BitVec 5) (s : State) : Result := .next (s.issueEngine xexpSpec l d a b)
/-- XPACK (R300). -/
def execXpack (l : Bool) (d a : BitVec 8) (b : BitVec 5) (s : State) : Result := .next (s.issueEngine xpackSpec l d a b)
/-- XCAN (R303). -/
def execXcan (l : Bool) (d a : BitVec 8) (b : BitVec 5) (s : State) : Result := .next (s.issueEngine xcanSpec l d a b)

/-! ### Shapes -/

/-- A byte range that a copy touches: kind of Table 11-1, address or offset, bytes. -/
structure Area where
  kind : Nat
  addr : Nat
  len : Nat
  deriving DecidableEq, Repr

/-- FD, SK, DK of XCP and XCPR. -/
def Cmd.fd (c : Cmd) : Bool := bit (c.w 0) 7
def Cmd.sk (c : Cmd) : Nat := bits (c.w 0) 6 5
def Cmd.dk (c : Cmd) : Nat := bits (c.w 0) 4 3
/-- ROP of XCPR. -/
def Cmd.rop (c : Cmd) : Nat := bits (c.w 0) 2 0
/-- DWG, DREM, DPKG and RCB (R287). -/
def Cmd.dwg (c : Cmd) : Bool := c.op ≤ 1 && bit (c.w 7) 31
def Cmd.drem (c : Cmd) : Bool := c.op ≤ 1 && bit (c.w 7) 30
def Cmd.dpkg (c : Cmd) : Nat := bits (c.w 7) 29 21
def Cmd.rcb (c : Cmd) : Option Nat := if c.op ≤ 1 && bits (c.w 7) 20 15 < 32 then some (bits (c.w 7) 20 15) else none

/-- Shape of XCP and XCPR (R290): words 8 to 23 hold a full descriptor as read at the start. -/
structure Shape where
  src : Nat
  dst : Nat
  rowb : Nat
  nrow : Nat
  npln : Nat
  spitch : Nat
  splane : Nat
  dpitch : Nat
  dplane : Nat
  deriving DecidableEq, Repr

/-- The shape of a copy. -/
def Cmd.shape (c : Cmd) : Shape :=
  if c.fd then
    { src := c.dword 8, dst := c.dword 10, rowb := c.w 12, nrow := bits (c.w 13) 15 0, npln := bits (c.w 13) 31 16,
      spitch := c.w 14, splane := c.w 15, dpitch := c.w 16, dplane := c.w 17 }
  else
    { src := c.dword 1, dst := c.dword 3, rowb := c.w 5, nrow := 1, npln := 1, spitch := 0, splane := 0, dpitch := 0,
      dplane := 0 }

/-- Whether a descriptor breaks Table 11-5. -/
def Cmd.descBad (c : Cmd) : Bool :=
  let p := c.shape
  let e := if c.op = 1 then ropSize c.rop else 1
  let high := fun kind a => (kind == 1 || kind == 2) && bits a 63 19 != 0
  c.fd && (p.rowb == 0 || 16777216 < p.rowb || p.nrow == 0 || p.npln == 0 || 2 ^ 32 < p.rowb * p.nrow * p.npln
    || high c.sk p.src || high c.dk p.dst || (List.range 6).any (fun i => c.w (18 + i) != 0)
    || [p.src, p.dst, p.rowb, p.spitch, p.splane, p.dpitch, p.dplane].any (fun v => v % e != 0))

/-- The rows of a copy: plane and row. -/
def Shape.rows (p : Shape) : List (Nat × Nat) :=
  (List.range p.npln).flatMap (fun i => (List.range p.nrow).map (fun j => (i, j)))

/-- The stored rows of a tile: kind, base, pitch, format. -/
def storedRows (kind base pitch sf : Nat) : List Area :=
  (List.range 64).map (fun r => { kind := kind, addr := base + pitch * r, len := sfRow sf })

/-- The scale bytes of a tile (R296). -/
def scaleAreas (kind base pitch : Nat) (bax : Bool) : List Area :=
  if bax then (List.range 2).map (fun g => { kind := kind, addr := base + pitch * g, len := 64 })
  else (List.range 64).map (fun r => { kind := kind, addr := base + pitch * r, len := 2 })

/-- SF of XEXP and XPACK. -/
def Cmd.sf (c : Cmd) : Nat := bits (c.w 7) 31 28
/-- CK of XEXP. -/
def Cmd.ck (c : Cmd) : Nat := bits (c.w 7) 27 26
/-- SK of XEXP, DK of XPACK, and SCK. -/
def Cmd.tileKind (c : Cmd) : Nat := bits (c.w 0) 7 6
def Cmd.sck (c : Cmd) : Nat := bits (c.w 0) 5 4
/-- BAX. -/
def Cmd.bax (c : Cmd) : Bool := if c.op = 2 then bit (c.w 7) 25 else bit (c.w 7) 22
/-- XT. -/
def Cmd.xt (c : Cmd) : Bool := if c.op = 2 then bit (c.w 7) 24 else bit (c.w 7) 23
/-- SCPITCH. -/
def Cmd.scpitch (c : Cmd) : Nat := bits (c.w 7) 15 0
/-- Base of the stored tile. -/
def Cmd.storedAt (c : Cmd) : Nat := if c.op = 2 then c.dword 1 else c.dword 2

/-- The stored tile of XEXP or XPACK. -/
def Cmd.stored (c : Cmd) : List Area := storedRows c.tileKind c.storedAt (c.w 4) c.sf
/-- The scale bytes of XEXP or XPACK. -/
def Cmd.scales (c : Cmd) : List Area := if sfMx c.sf then scaleAreas c.sck (c.dword 5) c.scpitch c.bax else []
/-- The canonical or int8 tile of XEXP or XPACK, and its status word. -/
def Cmd.tileAreas (c : Cmd) : List (List Area) :=
  let w := if c.op = 2 then c.w 3 else c.w 1
  if c.op = 2 && c.ck == 2 then [[{ kind := 1, addr := w, len := 4096 }]]
  else [[{ kind := 1, addr := 8192 * bits w 31 26, len := 8192 }], [{ kind := 1, addr := bits w 18 0, len := 4 }]]

/-- The source endpoints of a copy, each as the ranges it touches. -/
def Cmd.sources (c : Cmd) : List (List Area) :=
  match c.op with
  | 0 | 1 => [c.shape.rows.map (fun r =>
      { kind := c.sk, addr := c.shape.src + r.1 * c.shape.splane + r.2 * c.shape.spitch, len := c.shape.rowb })]
  | 2 => [c.stored, c.scales]
  | _ => c.tileAreas

/-- The destination endpoints of a copy. -/
def Cmd.targets (c : Cmd) : List (List Area) :=
  match c.op with
  | 0 | 1 => [c.shape.rows.map (fun r =>
      { kind := c.dk, addr := c.shape.dst + r.1 * c.shape.dplane + r.2 * c.shape.dpitch, len := c.shape.rowb })]
  | 2 => c.tileAreas
  | _ => [c.stored, c.scales]

/-! ### Acceptance (Table 11-2) -/

def codeDescInvalid : Nat := 0xC009
def codeApertureDenied : Nat := 0xC005
def codeHomeRefused : Nat := 0xC007
def codeCopyBounds : Nat := 0xC001
def codeCopyKind : Nat := 0xC006
def codeOverlap : Nat := 0xC003
def codeDestInvalid : Nat := 0xC004
def codeCancelled : Nat := 0xC008
def codePathLost : Nat := 0xC010

/-- First address of the device aperture (Table 6-1). -/
def apertureBase : Nat := 0xFFFFFF8000000000

/-- Whether a range breaks R281 or R282. -/
def Area.addressBad (a : Area) : Bool :=
  match a.kind with
  | 0 => !extentOk a.addr a.len
  | 3 => a.addr < apertureBase || 2 ^ 21 < a.addr - apertureBase + a.len
  | _ => false

/-- Whether DREM names this package itself. -/
def State.atHome (s : State) (c : Cmd) : Bool := !c.drem || s.podOf c.part c.dpkg == some s.podPos

/-- The space in which extents are compared (R306): the context's virtual addresses, those of the aperture among them,
or a window; none for a window of another package. -/
def State.spaceOf (s : State) (c : Cmd) (kind : Nat) : Option Nat :=
  match kind with
  | 1 => some (1 + c.ctx)
  | 2 => if s.atHome c then some (1 + c.w 6) else none
  | _ => some 0

/-- The smallest range that covers an endpoint: space, first byte, byte after the last. -/
def State.coverOf (s : State) (c : Cmd) (as : List Area) : Option (Nat × Nat × Nat) :=
  match as with
  | [] => none
  | a :: _ => (s.spaceOf c a.kind).map (fun sp =>
      (sp, leastOr 0 (as.map (·.addr)), (as.map (fun b => b.addr + b.len)).foldl Nat.max 0))

/-- Whether some source and some destination extent meet (R306). DEDUCED, unsafe: log entry 54. -/
def State.overlaps (s : State) (c : Cmd) : Bool :=
  (c.sources.filterMap (s.coverOf c)).any (fun p => (c.targets.filterMap (s.coverOf c)).any (fun q =>
    p.1 == q.1 && p.2.1 < q.2.2 && q.2.1 < p.2.2))

/-- The first page code of ranges of memory, in their order. DEDUCED, unsafe: log entry 50. -/
def State.areasCode (s : State) (part : Nat) (need : Need) (as : List Area) : Nat :=
  ((as.filter (fun a => a.kind == 0)).findSome? (fun a =>
    match s.extent part a.addr a.len need with | .inl f => some f.code | .inr _ => none)).getD 0

/-- Whether some page of ranges of memory is sys-homed. -/
def State.anySys (s : State) (part : Nat) (as : List Area) : Bool :=
  as.any (fun a => a.kind == 0 && match s.extent part a.addr a.len { w := true } with
    | .inl _ => false
    | .inr ps => ps.any (fun p => homeOf p.place.loc == .sys))

/-- What a copy's destination pages must permit (R282). -/
def Cmd.destNeed (c : Cmd) : Need := { r := c.op == 1, w := true }

/-- Whether the destination workgroup on this package refuses a command (R287). DESIGN CHOICE, safe: log entry 23. -/
def State.destRefuses (s : State) (c : Cmd) : Bool :=
  match s.ctxOf (c.w 6) with
  | none => true
  | some y => !y.takesCompletions || y.part != c.part || y.nbar ≤ c.cn ||
      (c.dk == 2 && c.shape.rows.any (fun r =>
        y.scratch < c.shape.dst + r.1 * c.shape.dplane + r.2 * c.shape.dpitch + c.shape.rowb))

/-- The acceptance of a copy: 0, or the code that rejects it; away: what the destination on another package answers.
DEDUCED, unsafe: log entry 50. -/
def State.copyCode (s : State) (c : Cmd) (x : Ctx) (away : Bool) : Nat :=
  let src := c.sources.flatten
  let dst := c.targets.flatten
  firstCode [
    (c.op ≤ 1 && c.descBad, codeDescInvalid),
    ((src ++ dst).any (fun a => a.kind == 3) && !x.svc && !c.svc, codeApertureDenied),
    ((src ++ dst).any Area.addressBad, codeAddressRange),
    (s.areasCode c.part { r := true } src != 0, s.areasCode c.part { r := true } src),
    (s.areasCode c.part c.destNeed dst != 0, s.areasCode c.part c.destNeed dst),
    (c.op == 1 && s.anySys c.part dst, codeHomeRefused),
    ((src ++ dst).any (fun a => a.kind == 1 && x.scratch < a.addr + a.len), codeCopyBounds),
    (c.op == 3 && bit (c.w 8) 31, codeCopyKind),
    (s.overlaps c, codeOverlap),
    (c.dwg && (if s.atHome c then s.destRefuses c else away), codeDestInvalid)]

/-! ### Where ranges lie -/

/-- Where an offset of a core's physical scratchpad lies (R281): in the window of a workgroup on the core, or in none. A ring or a status array there is read and written like any
other byte. DESIGN CHOICE, unsafe: log entry 56. -/
def State.physSpot (s : State) (core o : Nat) : Spot :=
  match s.ctxs.find? (fun e => e.2.core == core && e.2.resident && e.2.base ≤ o && o < e.2.base + e.2.scratch + 2304) with
  | some e => .window e.1 (o - e.2.base)
  | none => .raw core o

/-- Cuts n bytes from an offset into pieces that do not cross a multiple of 4; f bounds their number. -/
def words4 : Nat → Nat → Nat → List (Nat × Nat)
  | 0, _, _ => []
  | f + 1, o, n => if n = 0 then [] else let m := Nat.min n (4 - o % 4); (o, m) :: words4 f (o + m) (n - m)

/-- Where an offset of the destination workgroup's window lies (Table 11-1, R287): here, or at the package of DPKG.
DESIGN CHOICE, safe: log entry 75. -/
def State.destSpot (s : State) (c : Cmd) (o : Nat) : Spot :=
  if s.atHome c then .window (c.w 6) o
  else .loc (fabricBase + 2 ^ 39 * (512 * c.part + c.dpkg) + 256 * (Config.peerWindow (c.w 6) (o / 256) % 2 ^ 31) + o % 256)

/-- The pieces of a range: offset in the range, where it lies, length. -/
def State.lieOf (s : State) (c : Cmd) (need : Need) (a : Area) : List (Nat × Spot × Nat) :=
  match a.kind with
  | 0 =>
    match s.extent c.part a.addr a.len need with
    | .inl _ => []
    | .inr ps => (ps.foldl (fun (acc : Nat × List (Nat × Spot × Nat)) p =>
        (acc.1 + p.len, acc.2 ++ [(acc.1, Spot.loc p.place.loc, p.len)])) (0, [])).2
  | 3 =>
    let core := dieOf c.core * Config.coresPerDie + c.core % Config.coresPerDie / 4 * 4
    (words4 (a.len + 1) (a.addr - apertureBase) a.len).map (fun e =>
      (e.1 - (a.addr - apertureBase), s.physSpot (core + e.1 / 2 ^ 19) (e.1 % 2 ^ 19), e.2))
  | 2 => (piecesOf a.addr a.len).map (fun e => (e.1 - a.addr, s.destSpot c e.1, e.2))
  | _ => (piecesOf a.addr a.len).map (fun e => (e.1 - a.addr, Spot.window c.ctx e.1, e.2))

/-- Whether a spot is at a peer. -/
def Spot.away : Spot → Bool
  | .loc a => homeOf a == .fabric
  | .window _ _ | .raw _ _ => false

/-- The ranges that a copy reads into its buffer, with their places in it. -/
def Cmd.reads (c : Cmd) : List (Nat × Area) :=
  match c.op with
  | 0 | 1 => (c.sources.flatten.zipIdx).map (fun e => (c.shape.rowb * e.2, e.1))
  | 2 => ((c.stored.zipIdx).map (fun e => (sfRow c.sf * e.2, e.1))) ++
      ((c.scales.zipIdx).map (fun e => (64 * sfRow c.sf + e.1.len * e.2, e.1)))
  | _ => []

/-- Where the bytes that a copy reads lie: place in the buffer, spot, length. -/
def State.readsOf (s : State) (c : Cmd) : List (Nat × Spot × Nat) :=
  c.reads.flatMap (fun e => (s.lieOf c { r := true } e.2).map (fun p => (e.1 + p.1, p.2)))

/-- The command with what lies in the package, on its ports and in its scratchpads read into its buffer. -/
def State.filled (s : State) (c : Cmd) : Cmd :=
  ((s.readsOf c).filter (fun e => !e.2.1.away)).foldl (fun y e => y.putBuf e.1 (s.spotBytes e.2.1 e.2.2)) c

/-- The places in the buffer whose bytes have not come from a peer, or were lost. -/
def Cmd.gaps (c : Cmd) : List Nat :=
  (c.remote.filter (fun r => r.lanes != [] && (!r.done || r.failed))).map RemotePart.off ++ c.toRead.map RemotePart.off

/-- The blocks of the buffer that lack bytes (R288). -/
def State.missing (s : State) (c : Cmd) : List (Nat × Nat) :=
  let gs := c.gaps
  if gs = [] then []
  else (((s.readsOf c).filter (fun e => e.2.1.away)).map (fun e => (e.1, e.2.2))).filter (fun b =>
    gs.any (fun g => b.1 ≤ g && g < b.1 + b.2))

/-- Whether a part of the buffer is whole. -/
def whole (gaps : List (Nat × Nat)) (off n : Nat) : Bool := !gaps.any (fun b => meets b.1 b.2 off n)

/-! ### What is written -/

/-- XCP and XCPR: the pieces of the destination with the bytes that go there (R291). -/
def State.xcpRanges (s : State) (c : Cmd) (gaps : List (Nat × Nat)) : List Range :=
  (c.targets.flatten.zipIdx).flatMap (fun e =>
    ((s.lieOf c c.destNeed e.1).filter (fun p => whole gaps (c.shape.rowb * e.2 + p.1) p.2.2)).map (fun p =>
      (p.2.1, c.buf (c.shape.rowb * e.2 + p.1) p.2.2)))

/-- Place in the buffer of the scale byte of a stored element. -/
def Cmd.scaleOff (c : Cmd) (r j : Nat) : Nat :=
  64 * sfRow c.sf + (if c.bax then 64 * (r / 32) + j else 2 * r + j / 32)

/-- One element of XEXP (R298): value, poisoned, and the bits of XREP that it sets. -/
def xexpElem (sf ck : Nat) (x scale : Nat) (p : Bool) : Nat × Bool × Nat :=
  let f := if ck = 1 then fp16 else bf16
  if p then (if ck = 2 then 0 else f.poison, true, 2 ^ 19)
  else if sfMx sf && scale == 0xFF then (f.poison, true, 2 ^ 20)
  else
    match storedValue sf x with
    | .nan => (f.nan, false, 2 ^ 21)
    | .inf n => (f.inf n, false, 0)
    | .fin v =>
      let y := if sfMx sf then { v with exp := v.exp + ((scale : Int) - 127) } else v
      if ck = 2 then (wrap 8 (signed (sfBits sf) x), false, 0)
      else
        let out := f.roundFin 0 false y
        (out, false, if f.isInf out then 2 ^ 23 else if (f.value out).same y then 0 else 2 ^ 22)

/-- The outcome of tile element (i, j) of XEXP from the buffer. -/
def Cmd.expand (c : Cmd) (i j : Nat) : Nat × Bool × Nat :=
  let r := if c.xt then j else i
  let q := if c.xt then i else j
  let e := sfElem c.sf q (c.buf (sfRow c.sf * r) (sfRow c.sf))
  let sc := if sfMx c.sf then nthOr (0, false) (c.buf (c.scaleOff r q) 1) 0 else (0, false)
  xexpElem c.sf c.ck e.1 sc.1.toNat (e.2 || sc.2)

/-- Whether the bytes of tile element (i, j) of XEXP have come. -/
def Cmd.expandable (c : Cmd) (gaps : List (Nat × Nat)) (i j : Nat) : Bool :=
  let r := if c.xt then j else i
  let q := if c.xt then i else j
  let (o, n) := sfBytesOf c.sf q
  whole gaps (sfRow c.sf * r + o) n && (!sfMx c.sf || whole gaps (c.scaleOff r q) 1)

/-- The rows and columns of a tile. -/
def tileCells : List (Nat × Nat) := (List.range 64).flatMap (fun i => (List.range 64).map (fun j => (i, j)))

/-- XEXP's elements (R298). -/
def Cmd.xexpRanges (c : Cmd) (gaps : List (Nat × Nat)) : List Range :=
  let n := if c.ck = 2 then 1 else 2
  let base := if c.ck = 2 then c.w 3 else 8192 * bits (c.w 3) 31 26
  (tileCells.filter (fun e => c.expandable gaps e.1 e.2)).map (fun e =>
    let o := c.expand e.1 e.2
    (Spot.window c.ctx (base + n * (64 * e.1 + e.2)), (leBytes n o.1).map (fun b => (b, o.2.1))))

/-- XEXP's status word (R299), after every element; an int8 tile has none. -/
def Cmd.xexpStatus (c : Cmd) : List Range :=
  if c.ck = 2 then []
  else
    let rep := tileCells.foldl (fun v e => v ||| (c.expand e.1 e.2).2.2) 0
    [(Spot.window c.ctx (bits (c.w 3) 18 0), (leBytes 4 (2 ^ 30 * c.ck + rep)).map (fun b => (b, false)))]

/-- Element (i, j) of XPACK's source tile under the status word read at the start (R301). -/
def Cmd.packSource (c : Cmd) (x : Ctx) (i j : Nat) : Elem :=
  let e := elemOf (kindFormat (bit (c.w 8) 30)) (x.winBytes (8192 * bits (c.w 1) 31 26 + 128 * i + 2 * j) 2)
  { e with p := e.p || bit (c.w 8) 29 }

/-- The tile element that stored element (r, q) takes. -/
def Cmd.packElem (c : Cmd) (x : Ctx) (r q : Nat) : Elem := if c.xt then c.packSource x q r else c.packSource x r q

/-- The block of stored elements that share the scale byte of (r, q). -/
def Cmd.blockOf (c : Cmd) (r q : Nat) : List (Nat × Nat) :=
  if c.bax then (List.range 32).map (fun i => (r / 32 * 32 + i, q)) else (List.range 32).map (fun i => (r, q / 32 * 32 + i))

/-- Scale exponent of a block of an MX format, none where an element is poisoned, NaN or infinite; and whether one is
poisoned (R302). -/
def Cmd.mxScale (c : Cmd) (x : Ctx) (r q : Nat) : Option Int × Bool :=
  let es := (c.blockOf r q).map (fun e => c.packElem x e.1 e.2)
  let p := es.any (·.p)
  (if p || es.any (fun e => fp32.isNan e.val || fp32.isInf e.val) then none else some (mxExponent c.sf (es.map (·.val))), p)

/-- RND of XPACK. -/
def Cmd.packRnd (c : Cmd) : Nat := bits (c.w 7) 27 25

/-- Stored element (r, q) of XPACK with its poison. -/
def Cmd.packed (c : Cmd) (x : Ctx) (r q : Nat) : Nat × Bool :=
  let e := c.packElem x r q
  if sfMx c.sf then
    match c.mxScale x r q with
    | (none, p) => (0, p)
    | (some z, _) => (packMx c.sf c.packRnd z e.val, false)
  else (packPlain c.sf c.packRnd (bit (c.w 7) 24) e.p e.val, e.p)

/-- The scale byte of stored element (r, q). -/
def Cmd.packedScale (c : Cmd) (x : Ctx) (r q : Nat) : Byte × Bool :=
  match c.mxScale x r q with
  | (none, p) => (0xFF, p)
  | (some z, _) => (BitVec.ofNat 8 (z + 127).toNat, false)

/-- Places the bytes of a range. -/
def State.laid (s : State) (c : Cmd) (a : Area) (bs : List (Byte × Bool)) : List Range :=
  (s.lieOf c { w := true } a).map (fun p => (p.2.1, (bs.drop p.1).take p.2.2))

/-- XPACK's rows and scale bytes (R300-R302). -/
def State.xpackRanges (s : State) (c : Cmd) (x : Ctx) : List Range :=
  ((c.stored.zipIdx).flatMap (fun e => s.laid c e.1 (sfPack c.sf ((List.range 64).map (fun q => c.packed x e.2 q))))) ++
  ((c.scales.zipIdx).flatMap (fun e => s.laid c e.1
    (if c.bax then (List.range 64).map (fun q => c.packedScale x (32 * e.2) q)
     else (List.range 2).map (fun h => c.packedScale x e.2 (32 * h)))))

/-- Table 11-6 on one element, without poison. -/
def reduce (rop old v : Nat) : Nat :=
  match rop with
  | 0 => fp32.add {} old v
  | 1 => fp32.min false old v
  | 2 => fp32.max false old v
  | 3 => bf16.add {} old v
  | 4 => bf16.min false old v
  | 5 => bf16.max false old v
  | _ => (old + v) % 2 ^ 32

/-- One element of a reduction with the marks of its units (R293). -/
def reduceElem (rop : Nat) (old v : List (Byte × Bool)) : List (Byte × Bool) :=
  let e := ropSize rop
  let a := ofLeBytes (old.map (·.1))
  let b := ofLeBytes (v.map (·.1))
  let p := old.any (·.2) || v.any (·.2)
  let out := if p then (if rop = 6 then (a + b) % 2 ^ 32 else if e = 2 then bf16.poison else fp32.poison) else reduce rop a b
  (leBytes e out).map (fun x => (x, p))

/-- The elements of bytes, n of them. -/
def reduceBytes (rop : Nat) : Nat → List (Byte × Bool) → List (Byte × Bool) → List (Byte × Bool)
  | 0, _, _ => []
  | n + 1, old, v =>
    let e := ropSize rop
    reduceElem rop (old.take e) (v.take e) ++ reduceBytes rop n (old.drop e) (v.drop e)

/-- A range combined into what its place holds, at once (R293). -/
def State.reduceAt (core rop : Nat) (s : State) (r : Range) : State :=
  s.engWrite core [(r.1, reduceBytes rop (r.2.length / ropSize rop) (s.spotBytes r.1 r.2.length) r.2)]

/-- The bytes of ranges to peers, as writes of a kind. -/
def awayWrites (kind rop : Nat) (rs : List Range) : List Outgoing :=
  rs.flatMap (fun r => match r.1 with | .loc a => if homeOf a == .fabric then cutWrites kind rop a r.2 else [] | _ => [])

/-- A copy writes ranges in an order (R205, R291, R293): it stops before the first that meets a live barrier word. -/
def State.writeCopy (k : Nat) (c : Cmd) (rs : List Range) (s : State) : State :=
  let (l, m) := s.clearRanges rs
  let here := l.filter (fun r => !r.1.away)
  let s1 := if c.op = 1 then here.foldl (State.reduceAt c.core c.rop) s else s.engWrite c.core here
  let s2 := (s1.modCmd k (Cmd.noteWrote here)).askWrites k (awayWrites (if c.op = 1 then 15 else 1) c.rop l)
  match m with
  | some b => (s2.forceMet b).modCmd k (Cmd.fail codeBarrierOverlap)
  | none => s2

/-- The ranges of a copy and those that come after all others. -/
def State.copyRanges (s : State) (c : Cmd) (x : Ctx) : List Range × List Range :=
  let gaps := s.missing c
  match c.op with
  | 0 | 1 => (s.xcpRanges (s.filled c) gaps, [])
  | 2 => ((s.filled c).xexpRanges gaps, (s.filled c).xexpStatus)
  | _ => (s.xpackRanges c x, [])

/-- The 256-byte block of a place. -/
def Spot.block : Spot → Spot
  | .window c o => .window c (o / 256)
  | .loc a => .loc (a / 256)
  | .raw core o => .raw core (o / 256)

/-- The ranges of the first n 256-byte blocks of a list: the stop point of a copy (R288). -/
def firstBlocks (n : Nat) (rs : List Range) : List Range :=
  let bs := ((rs.map (fun r => r.1.block)).eraseDups).take n
  rs.filter (fun r => bs.contains r.1.block)

/-- A copy moves its bytes: all of them, or where it stops short, a free number of blocks of them (R288, R304). -/
def State.moveCopy (k : Nat) (stops : Bool) (s : State) : State :=
  match s.cmd k with
  | none => s
  | some c =>
    let x := (s.ctxOf c.ctx).getD {}
    let (turn, s1) := s.free
    let (count, s2) := s1.free
    let (most, last) := s.copyRanges c x
    let rs := turned turn most ++ (if (s.missing c).isEmpty then last else [])
    let part := stops || !(s.missing c).isEmpty
    let kept := if part then firstBlocks (count % (rs.length + 1)) rs else rs
    let s3 := (s2.modCmd k (fun y => { y with pos := 1, toRead := [],
                                              remote := y.remote.filter (fun r => r.lanes = [] || r.done) })).writeCopy k c kept
    if stops || (s.missing c).isEmpty || (s3.cmd k).any (·.err) then s3 else s3.modCmd k (Cmd.fail codePathLost)

/-! ### Completion points (R285-R288) -/

/-- Whether writes of a command still wait at a port to be sent. -/
def State.flitsWait (s : State) (k : Nat) : Bool :=
  s.ports.any (fun p => p.2.waiting.any (fun f =>
    (f.tk == 1 || f.tk == 15) && match Tab.find (pendKey f.vf f.tag.toNat) s.pendings with
      | some q => q.use == .command k
      | none => false))

/-- The command that an XCAN waits for ends: the XCAN ends too (R304). -/
def State.wakeCancels (k : Nat) (s : State) : State :=
  { s with agenda := s.agenda ++ (s.cmds.filter (fun e => e.2.eng == 2 && e.2.op == 4 && e.2.state == .started &&
      e.2.data == [k])).map (fun e => .commandCompletion e.1) }

/-- Local completion (R285 point 1): the status word. DEDUCED, unsafe: log entry 54. -/
def State.localDone (k : Nat) (s : State) : State :=
  match s.cmd k with
  | none => s
  | some c0 =>
    let c := if c0.lostAny && !c0.err then c0.fail codePathLost else c0
    let s1 := (s.modCmd k (fun _ => { c with pos := 2, state := .completed })).wakeCancels k
    match c.ring with
    | none => s1
    | some r =>
      match s1.ctxOf r.ctx with
      | some x => if x.takesCompletions && !c.cancelled then (s1.discardWrote x.core c).finishSlot r c else s1
      | none => s1

/-- An arrival of a command on a barrier of a workgroup of this package, with what its writes change for that
workgroup's core (R19, R44, R286). -/
def State.arriveAt (c : Cmd) (ctx b : Nat) (s : State) : State :=
  match s.ctxOf ctx with
  | none => s
  | some x => if x.takesCompletions && b < x.nbar then
      ((s.discardWrote x.core c).arriveNamed ctx b none (c.err || c.lostAny)).askRetire ctx
    else s

/-- Payload of a barrier arrival (Table 14-3). -/
def arrivalPayload (ctx bar : Nat) (err : Bool) (scope : Nat) : List Byte :=
  leBytes 4 ctx ++ leBytes 1 bar ++ leBytes 1 (ofBool err) ++ leBytes 1 scope

/-- Sends the arrival of a command to another package, as soon as a tag is free; lost where no route leads there (R288,
R354). -/
def State.sendArrival (k : Nat) (c : Cmd) (s : State) : State :=
  (s.modCmd k (fun y => { y with pos := 3, toWrite := y.toWrite ++ [{
    loc := c.dpkg, kind := 7, rop := 0,
    bytes := (arrivalPayload (c.w 6) c.cn (c.err || c.lostAny) c.relScope).map (fun b => (b, false)) }] })).pumpCmd k

/-- The RCB arrival (R285 point 3). -/
def State.remoteDone (k : Nat) (s : State) : State :=
  match s.cmd k with
  | none => s
  | some c =>
    let s1 := s.modCmd k (fun y => { y with remoteArr := false })
    match c.ring, c.rcb with
    | some r, some b => (if c.remoteArr && !c.cancelled then s1.arriveAt c r.ctx b else s1).askRetire r.ctx
    | some r, none => s1.askRetire r.ctx
    | none, _ => s1

/-- What follows the completion of a command that no ring holds: its chunk, or its chain entry. -/
def Cmd.follow (c : Cmd) : List Instr :=
  match c.origin with
  | .ring _ _ _ _ _ _ => []
  | .node h n => [.chunkCompletion h n]
  | .chain v q e => [.chainEntryCompletion v q e]

/-- Destination arrival (R285 point 2): on the barrier, the flag of the issuing clause, then the RCB arrival where no
other package must acknowledge. -/
def State.destDone (k : Nat) (s : State) : State :=
  match s.cmd k with
  | none => s
  | some c =>
    let s1 := s.modCmd k (fun y => { y with destArr := false })
    let barred := c.dwg && (c.code == codeDestInvalid || (c.err && s.atHome c && s.destRefuses c))
    let s2 := match c.ring with
      | none =>
        let t := if !c.dwg || barred then s1
          else if s.atHome c then s1.arriveAt c (c.w 6) c.cn else s1.sendArrival k c
        { t with agenda := t.agenda ++ c.follow }
      | some r => if c.cancelled || barred then s1
          else if c.dwg && !s.atHome c then s1.sendArrival k c
          else s1.arriveAt c (if c.dwg then c.w 6 else r.ctx) c.cn
    let s3 := match c.ring with
      | some r => if c.cancelled then s2 else s2.finishFlag r c
      | none => s2
    match s3.cmd k with
    | some c3 => if c3.pos = 3 && !c3.settled then s3 else s3.remoteDone k
    | none => s3

/-- The copy goes on after its bytes have moved: local completion once nothing of it waits at a port; then, once every
write is acknowledged, its arrival, which follows at once where no peer was written. -/
def State.settleCopy (k : Nat) (s : State) : State :=
  match s.cmd k with
  | none => s
  | some c =>
    if c.pos = 1 && c.toWrite = [] && !s.flitsWait k then
      let s1 := s.localDone k
      if c.remote.any (fun r => r.lanes = []) then
        (if c.settled then s1.post (.destinationArrival k) else s1)
      else s1.destDone k
    else if c.pos = 2 && c.destArr && c.settled then s.post (.destinationArrival k)
    else if c.pos = 3 && c.remoteArr && c.settled then s.post (.remoteCompletion k)
    else s

/-- A copy goes on as far as it can (COMMAND_COMPLETION). -/
def State.advanceCopy (k : Nat) (s : State) : State :=
  match s.cmd k with
  | none => s
  | some c =>
    if c.pos = 0 && c.state == .started then (if c.settled then (s.moveCopy k false).settleCopy k else s)
    else s.settleCopy k

/-- A copy ends at once with a code, with nothing written (R23, R304). DESIGN CHOICE, unsafe: log entry 25. -/
def State.endCopy (k code : Nat) (s : State) : State :=
  ((s.modCmd k (fun c => { (c.fail code) with state := .started, pos := 1, toRead := [], remote := [], destArr := true,
                                              remoteArr := c.rcb.isSome })).localDone k).destDone k

/-- A copy starts (Table 11-2): it is rejected, or asks peers for what it reads there. DESIGN CHOICE, safe: log entry
23. -/
def State.startCopy (k : Nat) (c0 : Cmd) (x : Ctx) (s : State) : State :=
  if c0.op ≤ 1 && c0.fd && x.scratch < c0.w 1 + 64 then s.endCopy k codeCopyBounds
  else
    let more := if c0.op ≤ 1 then (if c0.fd then (List.range 16).map (fun i => x.window.bytes (c0.w 1 + 4 * i) 4) else [])
      else if c0.op = 3 then [x.window.bytes (bits (c0.w 1) 18 0) 4] else []
    let c := { c0 with words := c0.words ++ more.map (fun b => BitVec.ofNat 32 (ofLeBytes b)), destArr := true,
                       remoteArr := c0.rcb.isSome }
    let (f, s0) := if c.dwg && !s.atHome c then s.free else (0, s)
    let code := s.copyCode c x (f % 2 == 1)
    if code != 0 then s0.endCopy k code
    else
      let s1 := (s0.modCmd k (fun _ => c)).askReads k
        (((s.readsOf c).filter (fun e => e.2.1.away)).flatMap (fun e =>
          match e.2.1 with | .loc a => AwayRead.parts { loc := a, len := e.2.2, off := e.1 } | _ => []))
      if (s1.cmd k).all (·.settled) then s1.post (.commandCompletion k) else s1

/-! ### XCAN (R303, R304) -/

/-- Result word of XCAN (Table 11-11). -/
def cancelResult (state : Nat) : Word := BitVec.ofNat 32 (2 ^ 16 * state)

/-- The command that an XCAN names, where it may act on it. -/
def State.cancelTarget (s : State) (c : Cmd) (x : Ctx) : Option (Nat × Cmd) :=
  let w := c.w 1
  match Tab.find (bits w 15 8) x.slots with
  | none => none
  | some r =>
    if r.seq % 2 ^ 16 = bits w 31 16 && !r.done then
      match s.cmd r.cmd with
      | some t => if t.eng == 2 && t.op ≤ 3 && t.pos ≤ 1 && t.state != .completed then some (r.cmd, t) else none
      | none => none
    else none

/-- XCAN (R304): it ends after the status word of what it cancelled is written. DESIGN CHOICE, unsafe: log entry 25.
-/
def State.startCancel (k : Nat) (c : Cmd) (x : Ctx) (s : State) : State :=
  let done := fun (state : Nat) (u : State) =>
    (u.modCmd k (fun y => { y with result := cancelResult state })).post (.commandCompletion k)
  match s.cancelTarget c x with
  | none => done 0 s
  | some (n, t) =>
    if t.state == .published then done 1 (s.endCopy n codeCancelled)
    else
      let s1 := if t.pos = 0 then s.moveCopy n true else s.modCmd n (fun y => { y with toWrite := y.begun })
      let s2 := (s1.modCmd n (fun y => if y.err then y else y.fail codeCancelled)).settleCopy n
      let s3 := s2.modCmd k (fun y => { y with result := cancelResult 2, data := [n] })
      if (s3.cmd n).all (fun y => 2 ≤ y.pos) then s3.post (.commandCompletion k) else s3

/-! ### The happenings of a copy's arrivals -/

/-- DESTINATION_ARRIVAL (R285): every write of a copy is acknowledged at its home. -/
def execDestinationArrival (cmd : Nat) (s : State) : Result :=
  .next (match s.cmd cmd with
  | some c => if c.eng == 2 && c.pos == 2 && c.destArr && c.settled then s.destDone cmd else s
  | none => s)

/-- REMOTE_COMPLETION (R285): the destination has acknowledged the arrival. -/
def execRemoteCompletion (cmd : Nat) (s : State) : Result :=
  .next (match s.cmd cmd with
  | some c => if c.eng == 2 && c.pos == 3 && c.remoteArr && c.settled then s.remoteDone cmd else s
  | none => s)

end Sys2Proof.Machine
end

