-- ==== Sys2Proof/Machine/Row.lean ====
section
/-! DEFINITION. The row engine (R309-R321): issue of its commands, acceptance, the operations on frames, and ROWQ. -/

namespace Sys2Proof.Machine

/-! ### Issue (R311-R313) -/

/-- Whether an operation has a first, and a second, source. -/
def rowHasA (op : Nat) : Bool := op != 1
def rowHasB (op : Nat) : Bool := 2 ≤ op && op ≤ 4

/-- Table 12-2. -/
def rowBad (op : Nat) (ws : List Nat) : List (Nat × Bool) :=
  let w := fun k => nthOr 0 ws k
  [(0, bits (w 0) 7 1 != 0), (1, w 1 % 4 != 0), (3, rowHasA op && w 3 % 4 != 0), (4, !rowHasA op && w 4 != 0),
   (5, if rowHasB op then w 5 % 4 != 0 else w 5 != 0), (6, !rowHasB op && w 6 != 0),
   (7, bits (w 7) 31 13 != 0 || bits (w 7) 12 0 == 0 || 4096 < bits (w 7) 12 0)]

/-- The table of ROWQ (R319). -/
def rowqBad (ws : List Nat) : List (Nat × Bool) := (0, bits (nthOr 0 ws 0) 7 0 != 0) :: zeroFrom 3 ws

/-- A row operation. -/
def rowSpec (op : Nat) : EngSpec := { eng := 3, op := op, flagKind := false, check := tableCheck (rowBad op) }
/-- ROWQ. -/
def rowqSpec : EngSpec := { eng := 3, op := 6, flagKind := true, check := tableCheck rowqBad }

/-- ROWCPY (R314). -/
def execRowcpy (l : Bool) (d a : BitVec 8) (b : BitVec 5) (s : State) : Result := .next (s.issueEngine (rowSpec 0) l d a b)
/-- ROWFILL (R314). -/
def execRowfill (l : Bool) (d a : BitVec 8) (b : BitVec 5) (s : State) : Result := .next (s.issueEngine (rowSpec 1) l d a b)
/-- ROWAND (R314). -/
def execRowand (l : Bool) (d a : BitVec 8) (b : BitVec 5) (s : State) : Result := .next (s.issueEngine (rowSpec 2) l d a b)
/-- ROWOR (R314). -/
def execRowor (l : Bool) (d a : BitVec 8) (b : BitVec 5) (s : State) : Result := .next (s.issueEngine (rowSpec 3) l d a b)
/-- ROWXOR (R314). -/
def execRowxor (l : Bool) (d a : BitVec 8) (b : BitVec 5) (s : State) : Result := .next (s.issueEngine (rowSpec 4) l d a b)
/-- ROWNOT (R314). -/
def execRownot (l : Bool) (d a : BitVec 8) (b : BitVec 5) (s : State) : Result := .next (s.issueEngine (rowSpec 5) l d a b)
/-- ROWQ (R319). -/
def execRowq (l : Bool) (d a : BitVec 8) (b : BitVec 5) (s : State) : Result := .next (s.issueEngine rowqSpec l d a b)

/-! ### Operands -/

/-- Frames of a command. -/
def Cmd.frames (c : Cmd) : Nat := bits (c.w 7) 12 0
/-- The source addresses of a row command. -/
def Cmd.rowSources (c : Cmd) : List Nat :=
  (if rowHasA c.op then [c.dword 3] else []) ++ (if rowHasB c.op then [c.dword 5] else [])
/-- All its operand addresses, the destination first. -/
def Cmd.rowOperands (c : Cmd) : List Nat := c.dword 1 :: c.rowSources

/-- The pieces of an extent; none where it does not translate. -/
def State.piecesAt (s : State) (part va n : Nat) (need : Need) : List Piece :=
  match s.extent part va n need with | .inl _ => [] | .inr ps => ps

/-- Where a frame's subarray is: die, channel, bank and subarray as in Table 12-5 (R309, log entry 11). DESIGN CHOICE,
safe: log entry 11. -/
def subarrayOf (pa : Nat) : Nat := 2 ^ 17 * homeDie pa + (Config.rowPlace (pa / 65536)).1 % 2 ^ 17

/-- Row of a frame in its subarray. -/
def rowOf (pa : Nat) : Nat := 32 * ((Config.rowPlace (pa / 65536)).2 % 16) + pa / 2048 % 32

/-- The row engine of a frame, by 64*die+channel. -/
def rowEngineOf (pa : Nat) : Nat := subarrayOf pa / 2 ^ 11

/-- A frame of a row-local page: its leaf and address; none where its page is not row-local. DESIGN CHOICE, safe: log
entry 11. -/
def State.frameAt (s : State) (part va : Nat) : Option Place :=
  match s.translate part va {} with
  | .inl _ => none
  | .inr p => if p.leaf.rowl then some p else none

/-- Whether a frame is a spared row held outside its subarray (Table 12-4): spared in manufacture, or since (R33). -/
def State.rowAway (s : State) (frame : Nat) : Bool :=
  Config.rowSpared frame || (NatSet.has frame s.rowsSpared && Config.spareOutside frame)

/-- Whether frame i of a command can run in the array (Table 12-4). -/
def State.inArray (s : State) (c : Cmd) (i : Nat) : Bool :=
  c.rowOperands.all (fun a => a % 2048 == 0) &&
  match s.frameAt c.part (c.dword 1 + 2048 * i) with
  | none => false
  | some d =>
    !NatSet.has (rowEngineOf d.loc) s.rowRetired && !s.rowAway (d.loc / 2048) && (c.op < 2 || d.leaf.logic) &&
    c.rowSources.all (fun a =>
      match s.frameAt c.part (a + 2048 * i) with
      | none => false
      | some p => subarrayOf p.loc == subarrayOf d.loc && !s.rowAway (p.loc / 2048) &&
          (if c.op = 0 then p.leaf.logic == d.leaf.logic else p.leaf.logic))

/-! ### Acceptance (Table 12-3) -/

/-- The first page code of a row command's operands. DESIGN CHOICE, safe: log entry 11. -/
def State.rowPages (s : State) (c : Cmd) : Nat :=
  let n := 2048 * c.frames
  let code := fun (need : Need) (a : Nat) => match s.extent c.part a n need with | .inl f => f.code | .inr _ => 0
  firstCode ((code { w := true } (c.dword 1) != 0, code { w := true } (c.dword 1)) ::
    c.rowSources.map (fun a => (code { r := true } a != 0, code { r := true } a)))

/-- The acceptance of a row operation: 0, or the code that rejects it (R313). DEDUCED, unsafe: log entry 50. -/
def State.rowCode (s : State) (c : Cmd) : Nat :=
  let n := 2048 * c.frames
  firstCode [
    (c.rowOperands.any (fun a => !extentOk a n), codeAddressRange),
    (s.rowPages c != 0, s.rowPages c),
    (c.rowOperands.any (fun a => (s.piecesAt c.part a n {}).any (fun p => p.place.leaf.home != .package)), 0xD001),
    (c.rowSources.any (fun a => a != c.dword 1 && meets a n (c.dword 1) n), 0xD002),
    (bit (c.w 0) 0 && (List.range c.frames).any (fun i => !s.inArray c i), 0xD003)]

/-- A row command starts: it is rejected, or its frames are performed by its completion (R313, log entry 7). DESIGN
CHOICE, unsafe: log entry 7. -/
def State.startRow (k : Nat) (c : Cmd) (s : State) : State := s.endCmd k (s.rowCode c) 0

/-! ### Frames (R314, R315) -/

/-- The bytes of an extent with the marks of their sectors. -/
def State.extentBytes (s : State) (part va n : Nat) : List (Byte × Bool) :=
  (s.piecesAt part va n {}).flatMap (fun p => s.spotBytes (.loc p.place.loc) p.len)

/-- A byte of a frame from the bytes of its sources, or of the pattern. -/
def rowByte (op : Nat) (a b : Byte × Bool) : Byte × Bool :=
  match op with
  | 0 => a
  | 1 => (a.1, false)
  | 2 => (a.1 &&& b.1, a.2 || b.2)
  | 3 => (a.1 ||| b.1, a.2 || b.2)
  | 4 => (a.1 ^^^ b.1, a.2 || b.2)
  | _ => (~~~a.1, a.2)

/-- The bytes that frame i of a command writes. -/
def State.frameBytes (s : State) (c : Cmd) (i : Nat) : List (Byte × Bool) :=
  let as := if rowHasA c.op then s.extentBytes c.part (c.dword 3 + 2048 * i) 2048
    else ((List.range 512).flatMap (fun _ => leBytes 4 (c.w 3))).map (fun b => (b, false))
  let bs := if rowHasB c.op then s.extentBytes c.part (c.dword 5 + 2048 * i) 2048 else as
  (as.zip bs).map (fun e => rowByte c.op e.1 e.2)

/-- Frame i of a command as ranges of package memory. -/
def State.frameRanges (s : State) (c : Cmd) (i : Nat) : List Range :=
  let bs := s.frameBytes c i
  ((s.piecesAt c.part (c.dword 1 + 2048 * i) 2048 {}).foldl (fun (acc : Nat × List Range) p =>
    (acc.1 + p.len, acc.2 ++ [(Spot.loc p.place.loc, (bs.drop acc.1).take p.len)])) (0, [])).2

/-- A frame on the copy path adds one to the counters of its row engine and of its partition (R315). -/
def State.countFallback (part engine : Nat) (s : State) : State :=
  { s with rowFallbacks := Tab.write 0 engine (Tab.read 0 engine s.rowFallbacks + 1) s.rowFallbacks }.modPart part
    (fun p => { p with fallbacks := p.fallbacks + 1 })

/-- The destination frame's row engine. -/
def State.frameEngine (s : State) (c : Cmd) (i : Nat) : Nat :=
  match s.translate c.part (c.dword 1 + 2048 * i) {} with | .inr p => rowEngineOf p.loc | .inl _ => 0

/-- A frame that the array performed fails verification: it is performed again on the copy path, which is counted, and
the event may retire the row engine (R321). -/
def State.failFrame (part engine : Nat) (s : State) : State :=
  let (last, s1) := (s.countFallback part engine).sourceEvents 9 engine (engine / 64) 1 [part] false
  if last then { s1 with rowRetired := NatSet.add engine s1.rowRetired }.retireNotices [part] 9 engine (engine / 64) else s1

/-- Where a frame is performed: in the array where every condition holds, else on the copy path (R315); the frames that
an upset strikes fail verification. DESIGN CHOICE, safe: log entry 13. -/
def State.runFrame (k : Nat) (c : Cmd) (i : Nat) (s : State) : State :=
  let struck := match s.cmd k with | some y => y.data.contains i | none => false
  if !s.inArray c i then s.countFallback c.part (s.frameEngine c i)
  else if struck then s.failFrame c.part (s.frameEngine c i) else s

/-- Performs a frame. A frame that meets a live barrier word is not performed, and it stops the command (R205, R320).
DEDUCED, unsafe: log entry 21. DESIGN CHOICE, unsafe: log entry 25. -/
def State.doFrame (k : Nat) (c : Cmd) (s : State) (i : Nat) : State :=
  if (s.cmd k).any (·.err) then s
  else
    match s.clearRanges (s.frameRanges c i) with
    | (_, some b) => (s.forceMet b).modCmd k (Cmd.fail codeBarrierOverlap)
    | (l, none) =>
      let (gs, bad) := segsOf 32 (fun p => match p with | .loc a => some a | _ => none) l
      ((s.runFrame k c i).writeDram gs bad).modCmd k (Cmd.noteWrote l)

/-- An upset strikes a frame of a started row command (R321; log entry 13). -/
def State.rowUpset (k i : Nat) (s : State) : State :=
  match s.cmd k with
  | some c => if c.eng = 3 && c.op != 6 && c.state == .started then s.modCmd k (fun y => { y with data := y.data ++ [i] }) else s
  | none => s

/-- Performs the frames of a command, in a free order; where its context has been terminated, a free number of them
(R314, R320). DEDUCED, unsafe: log entry 21. -/
def State.lateRow (k : Nat) (c : Cmd) (s : State) : State :=
  if c.err || c.op = 6 then s
  else
    let (turn, s1) := s.free
    let (count, s2) := s1.free
    let fs := turned turn (List.range c.frames)
    (if c.cancelled then fs.take (count % (fs.length + 1)) else fs).foldl (State.doFrame k c) s2

/-! ### ROWQ (R319) -/

/-- Result word of ROWQ (Table 12-5). -/
def State.rowqWord (s : State) (c : Cmd) : Nat × Word :=
  let va := c.dword 1
  if !translatedVa va then (codeAddressRange, BitVec.ofNat 32 (2 ^ 31 + codeAddressRange))
  else
    match s.translate c.part va { r := true } with
    | .inl f => (f.code, BitVec.ofNat 32 (2 ^ 31 + f.code))
    | .inr p =>
      if p.leaf.rowl then (0, BitVec.ofNat 32 (2 ^ 30 + 2 ^ 11 * subarrayOf p.loc + 4 * rowOf p.loc))
      else (0, 0)

/-- ROWQ starts and ends. -/
def State.startRowq (k : Nat) (c : Cmd) (s : State) : State := s.endCmd k (s.rowqWord c).1 (s.rowqWord c).2

end Sys2Proof.Machine
end

