-- ==== Sys2Proof/Machine/Rns.lean ====
section
/-! DEFINITION. The matrix engine in RNS mode (R252-R279): issue of its commands, acceptance, residue arithmetic, the
check, conversions, and the retirement of channels and cores that it leads to. -/

namespace Sys2Proof.Machine

/-! ### Channels and ranges (R252-R254) -/

/-- Modulus of a channel (Table 10-1). -/
def modulus (c : Nat) : Nat := nthOr 1 [256, 255, 253, 251, 247] c

/-- Channels of a mask, ascending. -/
def channelsOf (u : BitVec 5) : List Nat := maskBits 5 u.toNat

/-- The mask of channels. -/
def channelMask (cs : List Nat) : BitVec 5 := BitVec.ofNat 5 (maskOf cs)

/-- P(S): the product of the moduli of channels. -/
def product (cs : List Nat) : Nat := cs.foldl (fun p c => p * modulus c) 1

/-- The member of sym(P) that is congruent to n modulo P (R253). -/
def symOf (p n : Nat) : Int := let r := n % p; if r < p - p / 2 then (r : Int) else (r : Int) - p

/-- The inverse of a modulo m, by search. -/
def inverse (a m : Nat) : Nat := ((List.range m).find? (fun k => a * k % m == 1 % m)).getD 0

/-- dec(S) of the residues r of channels (R253). -/
def centred (cs : List Nat) (r : Nat → Nat) : Int :=
  let p := product cs
  symOf p ((cs.map (fun c => let q := p / modulus c; (r c % modulus c) * q * inverse (q % modulus c) (modulus c))).foldl (· + ·) 0)

/-- The primaries of U: its three largest moduli (R254). -/
def primaries (cs : List Nat) : List Nat := cs.take 3

/-- Largest value of Lg of U (Table 10-2). -/
def maxLg (cs : List Nat) : Nat := let p := product (primaries cs); (p + 1) / 2 - 1

/-- Whether a value lies in Lg of U. -/
def inLg (cs : List Nat) (x : Int) : Bool :=
  let p := product (primaries cs)
  x ≤ (maxLg cs : Int) && -((p / 2 : Nat) : Int) ≤ x

/-! ### Pairs -/

/-- A pair of an array. -/
def State.rnsPair (s : State) (a p : Nat) : RnsPair := nthOr {} (s.array a).pairs p

/-- Channels live in an array (R277). -/
def State.liveChannels (s : State) (x : Ctx) : BitVec 5 := Tab.read 31 x.array s.channels

/-- U of a pair (R254). -/
def State.usedChannels (s : State) (x : Ctx) (p : Nat) : BitVec 5 := s.liveChannels x &&& (s.rnsPair x.array p).vch

/-- The residue of a channel in an element of a pair (Table 10-4). -/
def residueAt (lo hi : AccSlot) (i j c : Nat) : Nat :=
  if c < 4 then (lo.cell i j / 256 ^ c) % 256 else hi.cell i j % 256

/-- The cells of both slots of a pair from residues. -/
def residueCells (rows : Nat) (f : Nat → Nat → Nat → Nat) : Tab (BitVec 32) × Tab (BitVec 32) :=
  (cellsOf rows (fun i j => f i j 0 % 256 + 256 * (f i j 1 % 256) + 65536 * (f i j 2 % 256) + 16777216 * (f i j 3 % 256)),
   cellsOf rows (fun i j => f i j 4 % 256))

/-! ### Issue -/

/-- Whether a residue operand word breaks Table 10-3a. -/
def residueBad (w : Nat) : Bool := bits w 24 19 != 0 || w % 4 != 0

/-- Whether a word of an offset that is a multiple of 4 is broken. -/
def offsetBad (w : Nat) : Bool := bits w 31 19 != 0 || w % 4 != 0

/-- Whether ESP of a conversion breaks Table 10-10. -/
def convEspBad (w : Nat) : Bool := bits w 7 4 != 0 || bits w 1 0 != 0

/-- RFWD's table (R271). -/
def rfwdBad (ws : List Nat) : List (Nat × Bool) :=
  let w := fun k => nthOr 0 ws k
  [(0, bits (w 0) 7 0 != 0),
   (1, bit (w 1) 31 || bits (w 1) 29 19 != 0 || bits (w 1) 18 0 % (if bit (w 1) 30 then 8192 else 4096) != 0),
   (2, residueBad (w 2)), (3, bits (w 3) 31 1 != 0)] ++ zeroFrom 4 ws

/-- RMMA's table (R272). -/
def rmmaBad (ws : List Nat) : List (Nat × Bool) :=
  let w := fun k => nthOr 0 ws k
  [(0, bits (w 0) 7 4 != 0 || bit (w 0) 2 || bit (w 0) 0), (1, residueBad (w 1)), (2, residueBad (w 2)), (3, depthBad (w 3))] ++
    zeroFrom 4 ws

/-- RREV's table (R273). -/
def rrevBad (ws : List Nat) : List (Nat × Bool) :=
  let w := fun k => nthOr 0 ws k
  [(0, convEspBad (w 0)), (1, blockBad (w 1)), (2, offsetBad (w 2))] ++ zeroFrom 3 ws

/-- RCHK's table (R275). -/
def rchkBad (ws : List Nat) : List (Nat × Bool) :=
  [(0, convEspBad (nthOr 0 ws 0)), (1, offsetBad (nthOr 0 ws 1))] ++ zeroFrom 2 ws

/-- RSCL's table (R274). -/
def rsclBad (ws : List Nat) : List (Nat × Bool) :=
  let w := fun k => nthOr 0 ws k
  [(0, convEspBad (w 0)), (1, bit (w 1) 31 || 4 < bits (w 1) 29 27 || bits (w 1) 25 0 != 0),
   (2, if bit (w 1) 30 then operandBad (w 2) else blockBad (w 2)), (3, offsetBad (w 3)), (4, offsetBad (w 4))] ++ zeroFrom 5 ws

/-- An RNS instruction. -/
def rnsSpec (op : Nat) (bad : List Nat → List (Nat × Bool)) : EngSpec :=
  { eng := 1, op := op, flagKind := true, check := tableCheck bad }

/-- RFWD (R271). -/
def execRfwd (l : Bool) (d a : BitVec 8) (b : BitVec 5) (s : State) : Result :=
  .next (s.issueEngine (rnsSpec 0 rfwdBad) l d a b)
/-- RMMA (R272). -/
def execRmma (l : Bool) (d a : BitVec 8) (b : BitVec 5) (s : State) : Result :=
  .next (s.issueEngine (rnsSpec 1 rmmaBad) l d a b)
/-- RREV (R273). -/
def execRrev (l : Bool) (d a : BitVec 8) (b : BitVec 5) (s : State) : Result :=
  .next (s.issueEngine (rnsSpec 2 rrevBad) l d a b)
/-- RCHK (R275). -/
def execRchk (l : Bool) (d a : BitVec 8) (b : BitVec 5) (s : State) : Result :=
  .next (s.issueEngine (rnsSpec 3 rchkBad) l d a b)
/-- RSCL (R274). -/
def execRscl (l : Bool) (d a : BitVec 8) (b : BitVec 5) (s : State) : Result :=
  .next (s.issueEngine (rnsSpec 4 rsclBad) l d a b)

/-! ### Acceptance (R268) -/

def codeSourceKind : Nat := 0xA041
def codeChannelsShort : Nat := 0xA042

/-- Base of a residue tile. -/
def residueBase (w : Nat) : Nat := 4096 * bits w 31 25
/-- Offset of a status word of a residue operand word. -/
def residueStatus (w : Nat) : Nat := bits w 18 0

/-- Whether a residue tile or its status word passes SCRATCH (R261). -/
def residueOut (scratch w : Nat) : Bool := scratch < residueBase w + 20480 || scratch < residueStatus w + 4

/-- The pair that a command names. -/
def Cmd.pair (c : Cmd) : Nat := if bit (c.w 0) 3 then 1 else 0

/-- Acceptance of an RNS command: 0, or the code that rejects it (Table 10-11). -/
def State.rnsCode (s : State) (c : Cmd) (x : Ctx) : Nat :=
  let early := s.accessCode c.ctx x false false none
  if early != 0 then early
  else
    let p := c.pair
    let tagged := (s.slot x.array (2 * p)).rns && (s.slot x.array (2 * p + 1)).rns
    let short := (channelsOf (s.usedChannels x p)).length < 4
    let csw := fun k => x.scratch < bits (c.w k) 18 0 + 4
    let kind := fun k => bit (ofLeBytes (x.window.bytes (residueStatus (c.w k)) 4)) 31
    match c.op with
    | 0 =>
      firstCode [(x.scratch < bits (c.w 1) 18 0 + (if bit (c.w 1) 30 then 8192 else 4096) || residueOut x.scratch (c.w 2),
        codeScratchBounds)]
    | 1 =>
      firstCode [(residueOut x.scratch (c.w 1) || residueOut x.scratch (c.w 2), codeScratchBounds),
        (!bit (c.w 0) 1 && !tagged, codeSlotMode), (kind 1 || kind 2, codeSourceKind),
        (!bit (c.w 0) 1 && short, codeChannelsShort)]
    | 2 =>
      firstCode [(blockOut x.scratch (c.w 1) 0 || csw 2, codeScratchBounds), (!tagged, codeSlotMode), (short, codeChannelsShort)]
    | 3 => firstCode [(csw 1, codeScratchBounds), (!tagged, codeSlotMode), (short, codeChannelsShort)]
    | _ =>
      firstCode [((if bit (c.w 1) 30 then tileOut x.scratch (c.w 2) 0 else blockOut x.scratch (c.w 2) 0)
          || x.scratch < bits (c.w 3) 18 0 + 256 || csw 4, codeScratchBounds),
        (!tagged, codeSlotMode), (short, codeChannelsShort)]

/-- An RNS result word (Table 10-8). -/
def rnsResult (psn ovf mis : Bool) (slotp : Nat) (live : BitVec 5) (code : Nat) : Word :=
  BitVec.ofNat 32 (2 ^ 31 * ofBool (code != 0) + 2 ^ 30 * ofBool psn + 2 ^ 29 * ofBool ovf + 2 ^ 28 * ofBool mis
    + 2 ^ 24 * (slotp % 16) + 2 ^ 19 * live.toNat + code % 2 ^ 16)

/-- PSN of a rejected RNS command: its pair's flag, where the issuing workgroup holds the claim; RFWD names no pair
(R269). -/
def State.ownPsn (s : State) (c : Cmd) (x : Ctx) : Bool :=
  c.op != 0 && (s.array x.array).claim == some c.ctx && (s.slot x.array (2 * c.pair)).poisoned

/-- Code of a command so far: BARRIER_OVERLAP of its writes, or the given one. DESIGN CHOICE, unsafe: log entry 89. -/
def State.codeOr (s : State) (k code : Nat) : Nat :=
  match s.cmd k with | some c => if c.err then c.code else code | none => code

/-! ### RFWD (R271) -/

/-- A source element with its mark (R256). -/
def Ctx.sourceElem (x : Ctx) (wide : Bool) (at_ i j : Nat) : Int × Bool :=
  let n := if wide then 2 else 1
  let bs := x.winBytes (at_ + 64 * n * i + n * j) n
  (signed (8 * n) (ofLeBytes (bs.map (·.1))), bs.any (·.2))

/-- A row of a residue plane as RFWD writes it. -/
def rfwdRow (src : Nat → Nat → Int × Bool) (c i : Nat) : List (Byte × Bool) :=
  (List.range 64).map (fun j => let (v, p) := src i j
    if p then (0, true) else (BitVec.ofNat 8 (v % (modulus c : Int)).toNat, false))

/-- RFWD: five planes and the status word. -/
def State.doRfwd (k : Nat) (c : Cmd) (x : Ctx) (s : State) : State :=
  let wide := bit (c.w 1) 30
  let at_ := bits (c.w 1) 18 0
  let src := fun i j => if bit (c.w 3) 0 then x.sourceElem wide at_ j i else x.sourceElem wide at_ i j
  let all := (List.range 64).flatMap (fun i => (List.range 64).map (fun j => src i j))
  let psn := all.any (·.2)
  let maxabs := (all.map (fun e => if e.2 then 0 else e.1.natAbs)).foldl Nat.max 0
  let status := 2 ^ 30 * ofBool wide + 2 ^ 29 * ofBool psn + maxabs
  let planes := (List.range 5).flatMap (fun ch => (List.range 64).map (fun i =>
    (Spot.window c.ctx (residueBase (c.w 2) + 4096 * ch + 64 * i), rfwdRow src ch i)))
  let s1 := s.writeRanges k x.core (planes ++
    [(Spot.window c.ctx (residueStatus (c.w 2)), (leBytes 4 status).map (fun b => (b, false)))])
  let code := s1.codeOr k 0
  s1.endCmd k code (rnsResult psn false false (s1.slotFlags x.array) (s1.liveChannels x) code)

/-! ### RMMA (R272) -/

/-- A residue of a tile with its mark (R252, R257). -/
def Ctx.residueElem (x : Ctx) (w ch i j : Nat) : Nat × Bool :=
  let o := residueBase w + 4096 * ch + 64 * i + j
  ((x.window.get o).toNat % modulus ch, NatSet.has (o / 4) x.windowMarks)

/-- MAXABS of a residue tile. -/
def Ctx.maxAbs (x : Ctx) (w : Nat) : Nat := bits (ofLeBytes (x.window.bytes (residueStatus w) 4)) 15 0

/-- RMMA. -/
def State.doRmma (k : Nat) (c : Cmd) (x : Ctx) (s : State) : State :=
  let p := c.pair
  let zero := bit (c.w 0) 1
  let depth := bits (c.w 3) 6 0
  let live := s.liveChannels x
  let old := s.rnsPair x.array p
  let vch := if zero then live else live &&& old.vch
  let chs := channelsOf vch
  let bound := Nat.min (2 ^ 32 - 1) ((if zero then 0 else old.bound.toNat) + depth * x.maxAbs (c.w 1) * x.maxAbs (c.w 2))
  let lo := s.slot x.array (2 * p)
  let hi := s.slot x.array (2 * p + 1)
  let a := fun ch i q => if bit (c.w 3) 8 then x.residueElem (c.w 1) ch q i else x.residueElem (c.w 1) ch i q
  let b := fun ch q j => if bit (c.w 3) 9 then x.residueElem (c.w 2) ch j q else x.residueElem (c.w 2) ch q j
  let bad := chs.any (fun ch => (List.range depth).any (fun q =>
    (List.range x.rows).any (fun i => (a ch i q).2) || (List.range 64).any (fun j => (b ch q j).2)))
  let res := fun i j ch =>
    let was := if zero then 0 else residueAt lo hi i j ch
    if chs.contains ch then
      (was + ((List.range depth).map (fun q => (a ch i q).1 * (b ch q j).1)).foldl (· + ·) 0) % modulus ch
    else was
  let cells := residueCells x.rows res
  let flag := (!zero && lo.poisoned) || bad
  let s1 := (s.putSlot x.array (2 * p) (fun _ => { cells := cells.1, poisoned := flag, rns := true })).putSlot x.array (2 * p + 1)
    (fun _ => { cells := cells.2, poisoned := flag, rns := true })
  let s2 := s1.modArray x.array (fun m =>
    { m with pairs := mapNth p (fun _ => { vch := vch, bound := BitVec.ofNat 32 bound }) m.pairs })
  s2.endCmd k 0 (rnsResult flag false false (s2.slotFlags x.array) live 0)

/-! ### The check (R262) -/

/-- The outcome of an element (R262). -/
inductive RnsOutcome where
  | psn
  | ok (x : Int)
  | corrected (c : Nat) (x : Int)
  | overflow (x : Int)
  | mismatch (mch : BitVec 5)
  deriving DecidableEq, Repr

/-- The pairs of channels of a list, each once. -/
def channelPairs : List Nat → List (Nat × Nat)
  | [] => []
  | c :: t => t.map (fun d => (c, d)) ++ channelPairs t

/-- The procedure of R262 on the residues r of an element over U. -/
def classify (flag : Bool) (cs : List Nat) (bound : Nat) (r : Nat → Nat) : RnsOutcome :=
  if flag then .psn
  else
    let x := centred cs r
    if inLg cs x then .ok x
    else if cs.length = 5 then
      match cs.filter (fun c => inLg cs (centred (cs.filter (· != c)) r)) with
      | [c] => .corrected c (centred (cs.filter (· != c)) r)
      | _ =>
        if maxLg cs < bound then .overflow x
        else
          match (channelPairs cs).filter (fun p => inLg cs (centred (cs.filter (fun e => e != p.1 && e != p.2)) r)) with
          | [p] => .mismatch (channelMask [p.1, p.2])
          | _ => .mismatch (channelMask cs)
    else if maxLg cs < bound then .overflow x
    else .mismatch (channelMask cs)

/-- The outcomes of a pair by row and column (R262). -/
def State.outcomes (s : State) (c : Cmd) (x : Ctx) : List (Nat × RnsOutcome) :=
  let p := c.pair
  let lo := s.slot x.array (2 * p)
  let hi := s.slot x.array (2 * p + 1)
  let cs := channelsOf (s.usedChannels x p)
  let bound := (s.rnsPair x.array p).bound.toNat
  (List.range x.rows).flatMap (fun i => (List.range 64).map (fun j =>
    (64 * i + j, classify lo.poisoned cs bound (residueAt lo hi i j))))

/-- The value that an outcome converts; none where it has no value (Table 10-7). -/
def RnsOutcome.value : RnsOutcome → Option Int
  | .ok x | .corrected _ x | .overflow x => some x
  | .psn | .mismatch _ => none

/-- What a list of outcomes comes to. -/
structure Tally where
  ovf : Bool
  mis : Bool
  psn : Bool
  mch : BitVec 5
  corrected : List Nat
  deriving DecidableEq, Repr

/-- Gathers the outcomes of a command. -/
def tally (os : List (Nat × RnsOutcome)) : Tally :=
  { ovf := os.any (fun o => match o.2 with | .overflow _ => true | _ => false),
    mis := os.any (fun o => match o.2 with | .mismatch _ => true | _ => false),
    psn := os.any (fun o => o.2 == .psn),
    mch := os.foldl (fun m o => match o.2 with | .mismatch k => m ||| k | _ => m) 0,
    corrected := os.filterMap (fun o => match o.2 with | .corrected c _ => some c | _ => none) }

/-- A conversion status word (Table 10-9). -/
def Tally.status (t : Tally) (u : BitVec 5) : Nat :=
  2 ^ 31 * ofBool t.ovf + 2 ^ 30 * ofBool t.mis + 2 ^ 29 * ofBool t.psn + 2 ^ 28 * ofBool ((channelsOf u).length < 5)
  + 2 ^ 23 * u.toNat + 2 ^ 18 * (channelMask t.corrected).toNat + 2 ^ 13 * t.mch.toNat + t.corrected.length % 2 ^ 13

/-- CODE of a conversion (R265). -/
def Tally.code (t : Tally) (trapov : Bool) : Nat := if t.mis then 0x0041 else if trapov && t.ovf then 0x0040 else 0

/-- DETAIL0 and DETAIL1 of the fault of a conversion (Table 10-5). -/
def convDetails (os : List (Nat × RnsOutcome)) (code : Nat) (u : BitVec 5) (slot : Nat) : List Nat :=
  match os.find? (fun o => match o.2 with | .mismatch _ => code == 0x0041 | .overflow _ => code == 0x0040 | _ => false) with
  | some (e, .mismatch m) => [e, m.toNat + 256 * slot]
  | some (e, _) => [e, u.toNat + 256 * slot]
  | none => []

/-! ### Counting and retirement (R276, R277) -/

/-- Counts the events of a channel, and retires it or the core where they make it lasting. Of two channels that one command
declares, the lower retires and then the core. DESIGN CHOICE, unsafe: log entry 90. -/
def State.channelEvents (x : Ctx) (full : Bool) (s : State) (e : Nat × Nat) : State :=
  let (last, s1) := s.sourceEvents 7 (5 * x.array + e.1) (dieOf x.core) e.2 [x.part] true
  if !last then s1
  else if full && (s1.liveChannels x).toNat == 31 then
    ({ s1 with channels := Tab.set x.array (s1.liveChannels x &&& ~~~(channelMask [e.1])) s1.channels }).retireNotices [x.part]
      7 (5 * x.array + e.1) (dieOf x.core)
  else s1.retireCore x.core

/-- Counts the events of a command's outcomes (R276): per corrected channel, and one where an element mismatched, which
retires the core where it makes that source lasting, in degraded mode too. DESIGN CHOICE, unsafe: log entry 90. -/
def State.countOutcomes (x : Ctx) (u : BitVec 5) (t : Tally) (s : State) : State :=
  let full := (channelsOf u).length == 5
  let per := (List.range 5).filterMap (fun c =>
    let n := (t.corrected.filter (· == c)).length; if n = 0 then none else some (c, n))
  let s1 := per.foldl (State.channelEvents x full) s
  if t.mis then
    let (last, s2) := s1.sourceEvents 8 x.array (dieOf x.core) 1 [x.part] false
    if last then s2.retireCore x.core else s2
  else s1

/-! ### Conversions (R270, R273-R275) -/

/-- Ends a conversion: its status word last, its result, its fault's details, its events. -/
def State.endConv (k : Nat) (c : Cmd) (x : Ctx) (cswAt : Nat) (u : BitVec 5) (os : List (Nat × RnsOutcome)) (wrotePsn : Bool)
    (ranges : List (Spot × List (Byte × Bool))) (s : State) : State :=
  let t := tally os
  let slot := match c.ring with | some r => r.slot | none => 0
  let s1 := s.writeRanges k x.core (ranges ++
    [(Spot.window c.ctx cswAt, (leBytes 4 (t.status u)).map (fun b => (b, false)))])
  let code := s1.codeOr k (t.code (bit (c.w 0) 2))
  let flagged := (s1.slot x.array (2 * c.pair)).poisoned
  let s2 := s1.modCmd k (fun y => { y with data := convDetails os code u slot })
  let s3 := s2.post (.commandCompletion k)
  let s4 := s3.countOutcomes x u t
  let r := rnsResult (wrotePsn || t.psn || t.mis || flagged) t.ovf t.mis (s4.slotFlags x.array) (s4.liveChannels x) code
  s4.modCmd k (fun y => { y with err := code != 0, code := code, result := r })

/-- The outcome of element e. -/
def outcomeAt (os : List (Nat × RnsOutcome)) (e : Nat) : RnsOutcome := (nthOr (0, .psn) os e).2

/-- RREV (R273): s32 elements. -/
def State.doRrev (k : Nat) (c : Cmd) (x : Ctx) (s : State) : State :=
  let os := s.outcomes c x
  let elem := fun e => match (outcomeAt os e).value with
    | some v => (leBytes 4 (wrap 32 (clamp (-(2 ^ 31)) (2 ^ 31 - 1) v))).map (fun b => (b, false))
    | none => (leBytes 4 0).map (fun b => (b, true))
  let rows := (List.range x.rows).map (fun i =>
    (Spot.window c.ctx (c.w 1 + 256 * i), (List.range 64).flatMap (fun j => elem (64 * i + j))))
  s.endConv k c x (bits (c.w 2) 18 0) (s.usedChannels x c.pair) os false rows

/-- sat(round(X * scale, RND)) (R264); X = 0 and a negative scale give -0. DESIGN CHOICE, unsafe: log entry 88. -/
def scaled (f : Fmt) (rnd : Nat) (sat : Bool) (v : Int) (scale : Nat) : Nat :=
  if fp32.isNan scale then f.nan
  else if fp32.isInf scale then (if v = 0 then f.nan else f.inf (fp32.sign scale ^^ decide (v < 0)))
  else f.roundFin rnd sat (Fin2.mul { neg := decide (v < 0), mant := v.natAbs, exp := 0 } (fp32.value scale))

/-- RSCL (R274): scaled FP32 or BF16 elements. -/
def State.doRscl (k : Nat) (c : Cmd) (x : Ctx) (s : State) : State :=
  let os := s.outcomes c x
  let narrow := bit (c.w 1) 30
  let f := if narrow then bf16 else fp32
  let n := if narrow then 2 else 4
  let scl := fun j => x.winBytes (bits (c.w 3) 18 0 + 4 * j) 4
  let scale := fun j => ofLeBytes ((scl j).map (·.1))
  let sclBad := fun j => (scl j).any (·.2) || fp32.isPoison (scale j)
  let bad := fun e => sclBad (e % 64) || (outcomeAt os e).value.isNone
  let elem := fun e =>
    let out := match (outcomeAt os e).value with
      | some v => if sclBad (e % 64) then f.poison else scaled f (bits (c.w 1) 29 27) (bit (c.w 1) 26) v (scale (e % 64))
      | none => f.poison
    (leBytes n out).map (fun b => (b, bad e))
  let base := if narrow then 8192 * bits (c.w 2) 31 26 else c.w 2
  let rows := (List.range x.rows).map (fun i =>
    (Spot.window c.ctx (base + 64 * n * i), (List.range 64).flatMap (fun j => elem (64 * i + j))))
  let psn := (List.range (64 * x.rows)).any bad
  let status := if narrow then
      [(Spot.window c.ctx (bits (c.w 2) 18 0), (leBytes 4 (2 ^ 29 * ofBool psn)).map (fun b => (b, false)))]
    else []
  s.endConv k c x (bits (c.w 4) 18 0) (s.usedChannels x c.pair) os psn (rows ++ status)

/-- RCHK (R275): corrected residues replace wrong ones, a mismatch sets the pair's flags. -/
def State.doRchk (k : Nat) (c : Cmd) (x : Ctx) (s : State) : State :=
  let os := s.outcomes c x
  let u := s.usedChannels x c.pair
  let p := c.pair
  let lo := s.slot x.array (2 * p)
  let hi := s.slot x.array (2 * p + 1)
  let t := tally os
  let res := fun i j ch => match outcomeAt os (64 * i + j) with
    | .corrected c v => if c = ch then (v % (modulus c : Int)).toNat else residueAt lo hi i j ch
    | _ => residueAt lo hi i j ch
  let cells := residueCells x.rows res
  let flag := lo.poisoned || t.mis
  let s1 := if t.corrected = [] && !t.mis then s
    else (s.putSlot x.array (2 * p) (fun a => { a with cells := cells.1, poisoned := flag })).putSlot x.array (2 * p + 1)
      (fun a => { a with cells := cells.2, poisoned := flag })
  s1.endConv k c x (bits (c.w 1) 18 0) u os false []

/-- An RNS command is accepted and takes effect, or is rejected (R268). -/
def State.startRns (k : Nat) (c : Cmd) (x : Ctx) (s : State) : State :=
  let code := s.rnsCode c x
  if code != 0 then s.endCmd k code (rnsResult (s.ownPsn c x) false false (s.ownFlags c.ctx x) (s.liveChannels x) code)
  else
    let s1 := s.claimArray x.array c.ctx
    match c.op with
    | 0 => s1.doRfwd k c x
    | 1 => s1.doRmma k c x
    | 2 => s1.doRrev k c x
    | 3 => s1.doRchk k c x
    | _ => s1.doRscl k c x

end Sys2Proof.Machine
end

