-- ==== Sys2Proof/Machine/Walker.lean ====
section
/-! DEFINITION. The life of a context: placing workgroups, dispatch from the ready pool with aging and pre-emption
(R392-R395), operating points (R397), pre-emption, the drain and the seal (R216, R219-R221), resume (R222), retirement
and termination (R25, R27). -/

namespace Sys2Proof.Machine

/-! ### Operating points (R397) -/

/-- The operating point that a context asks for: hint 0 is the partition's setting, or level 7. -/
def State.hint (s : State) (x : Ctx) : Nat :=
  if x.oppoint != 0 then x.oppoint
  else match s.part x.part with
    | some p => if p.record.oppoint = 0 then 7 else p.record.oppoint
    | none => 7

/-- The operating point that a die's contexts ask for, within what the power limit allows. -/
def State.wantedPoint (s : State) (die : Nat) : Nat :=
  Nat.min (nthOr 7 s.allowed die)
    (((s.ctxs.filter (fun e => dieOf e.2.core == die && e.2.resident)).map (fun e => s.hint e.2)).foldl Nat.max 0)

/-- Lowering never waits: a die's point falls to what is asked for. -/
def State.lowerPoint (die : Nat) (s : State) : State :=
  let w := s.wantedPoint die
  if w < nthOr 0 s.points die then { s with points := mapNth die (fun _ => w) s.points } else s

/-- A context that has been placed runs at once where its die's point is high enough, and is held otherwise until the
new point is stable. DEDUCED, unsafe: log entry 57. -/
def State.startOrHold (c die : Nat) (s : State) : State :=
  let w := s.wantedPoint die
  if w ≤ nthOr 0 s.points die then s.modCtx c (fun x => { x with run := .running })
  else { s with rising := mapNth die (fun _ => some w) s.rising }.post (.operatingPointStable die)

/-- OPERATING_POINT_STABLE (R397): a raised point is stable, and the workgroups held for it start. -/
def execOperatingPointStable (die : Nat) (s : State) : Result :=
  .next (match nthOr none s.rising die with
  | none => s
  | some _ =>
    { s with
      points := mapNth die (fun _ => s.wantedPoint die) s.points
      rising := mapNth die (fun _ => none) s.rising
      ctxs := s.ctxs.map (fun e => (e.1,
        if e.2.run == .placed && dieOf e.2.core == die then { e.2 with run := .running } else e.2)) })

/-! ### Starting a workgroup (R93, R97, R199) -/

/-- A place for a workgroup: core, half, first unit, base of its window. -/
structure Site where
  core : Nat
  half : Option Bool
  unit : Nat
  base : Nat
  deriving DecidableEq, Repr

/-- A gang at its start (R93). -/
def newGang (entry unit : Nat) : Gang := { slices := List.replicate 8 { pc := entry, hdr := entry }, unit := unit }

/-- Gives gangs, each with its SIMD unit, the lowest gang slots that are free there (R96): used lists the units and slots
taken. DESIGN CHOICE, safe: log entry 66. -/
def takeSlots (used : List (Nat × Nat)) : List (Gang × Nat) → List Gang
  | [] => []
  | (g, u) :: t =>
    let k := ((List.range Config.gangSlots).find? (fun i => !used.contains (u, i))).getD 0
    { g with unit := u, slot := k } :: takeSlots ((u, k) :: used) t

/-- The SIMD units and gang slots that gangs hold on a core. -/
def State.slotsUsed (s : State) (core : Nat) : List (Nat × Nat) :=
  (s.residents core).flatMap (fun x => (x.gangs.filter Gang.holds).map (fun g => (g.unit, g.slot)))

/-- A window takes its banks: one that no other window lies in has the tag of a unit allocated now, in any other the new
window's bytes are a write (R326, R328). -/
def State.takeBanks (us : List UnitName) (fresh : Tag) (s : State) : State :=
  us.foldl (fun t u => if (t.unitPart u).isSome then t.beforeWrite u else t.setTag fresh u) s

/-- Puts a context on its site: what its partition's record now says (R382), units and slots of its gangs, fresh tags of its on-chip units (Table 13-4), the acquire of
its lanes, the bridge of a kernel start or a resume to the CONST path (Table 2-4, R175), and its start at the die's
operating point. -/
def State.placeCtx (c : Nat) (x : Ctx) (p : Site) (acq : Nat) (s : State) : State :=
  let us := gangUnits p.half x.gangsN p.unit
  let y := { x with
    core := p.core, half := p.half, base := p.base, order := s.dispatches, run := .placed, tags := [],
    wdcap := s.wdogCap x.part, preempt := (s.part x.part).any (·.record.preempt),
    tag0 := (s.epochOf x.part (dieOf p.core)).fresh,
    gangs := takeSlots (s.slotsUsed p.core) ((List.range x.gangs.length).map (fun i => (x.gang i, nthOr 0 us i))) }
  let s0 := s.takeBanks y.bankUnits y.tag0
  let s1 := { s0 with ctxs := Tab.set c y s0.ctxs, dispatches := s0.dispatches + 1 }
  ((s1.acquire p.core acq).dropConst p.core).startOrHold c (dieOf p.core)

/-- Ids of workgroup i of a launch (R392). -/
def groupIds (nwg : List Nat) (i : Nat) : List Nat :=
  let x := Nat.max 1 (nthOr 1 nwg 0)
  let y := Nat.max 1 (nthOr 1 nwg 1)
  [i % x, i / x % y, i / (x * y)]

/-- Starts workgroup i of a launch on a site. DEDUCED, unsafe: log entry 30. -/
def State.startGroupOf (l : Launch) (i : Nat) (p : Site) (s : State) : State :=
  let x := { l.tmpl with
    wgid := groupIds l.tmpl.nwg i, wdog := s.wdogCap l.tmpl.part,
    gangs := List.replicate l.tmpl.gangsN (newGang l.tmpl.codeBase 0) }
  { s with nextCtx := s.nextCtx + 1 }.placeCtx s.nextCtx x p l.acq

/-! ### Sites -/

/-- Aligned groups of P cores that a partition reserves whole (Table 9-4). -/
def alignedGroups (cs : List CoreShare) (p : Nat) : List (List CoreShare) :=
  (cs.filter (fun c => c.half.isNone && c.core % p == 0)).filterMap (fun c =>
    let g := (List.range p).map (fun i => c.core + i)
    if g.all (fun k => cs.any (fun d => d.core == k && d.half.isNone)) then
      some (g.map (fun k => { core := k, half := none }))
    else none)

/-- Cores in ascending number. -/
def sortShares (cs : List CoreShare) : List CoreShare :=
  cs.foldr (fun c acc => acc.takeWhile (fun d => d.core < c.core) ++ c :: acc.dropWhile (fun d => d.core < c.core)) []

/-- What a workgroup or saved context needs of a core. -/
structure NeedOf where
  gangs : Nat
  regs : Nat
  nbar : Nat
  scratch : Nat
  /-- its array must be unclaimed, and the channels that must be live (R226, R278) -/
  array : Bool := false
  channels : BitVec 5 := 0
  deriving DecidableEq, Repr

/-- What a context needs: live channels that include the VCH of each of its pairs, unless all of them hold five (R278). -/
def Ctx.needs (x : Ctx) : NeedOf :=
  let holds := x.heldArray
  { gangs := x.gangsN, regs := x.regsN, nbar := x.nbar, scratch := x.scratch, array := holds.isSome,
    channels := match holds with
      | some a =>
        let vs := ((List.range 2).filter (fun i =>
          (nthOr {} a.slots (2 * i)).rns || (nthOr {} a.slots (2 * i + 1)).rns)).map (fun i => (nthOr {} a.pairs i).vch)
        if vs.all (· == 0b11111) then 0 else vs.foldl (· ||| ·) 0
      | none => 0 }

/-- Live channels of an array (R277). -/
def liveEnough (live need : BitVec 5) : Bool :=
  need &&& live == need && 4 ≤ (maskBits 5 live.toNat).length

/-- Whether a core's array is free for a context, once the contexts of a list have left it. -/
def State.arrayFree (s : State) (c : CoreShare) (gone : List Nat) : Bool :=
  match (s.array (2 * c.core + ofBool (c.half == some true))).claim with
  | some k => gone.contains k
  | none => true

/-- Where a need fits on a core, once the contexts of a list have left it. -/
def State.siteOn (s : State) (n : NeedOf) (c : CoreShare) (gone : List Nat) : Option Site :=
  let xs := (s.ctxs.filter (fun e => e.2.core == c.core && e.2.resident && !gone.contains e.1)).map (·.2)
  match roomAt xs c.half n.gangs n.regs n.nbar n.scratch with
  | some (u, b) =>
    if n.array && !(s.arrayFree c gone && liveEnough (Tab.read 31 (2 * c.core + ofBool (c.half == some true)) s.channels) n.channels) then none
    else some { core := c.core, half := c.half, unit := u, base := b }
  | none => none

/-- The cores of a list on which a list of needs fits, each on its own. -/
def State.sitesOn (s : State) : List (NeedOf × CoreShare) → List Nat → Option (List Site)
  | [], _ => some []
  | (n, c) :: t, gone =>
    match s.siteOn n c gone, s.sitesOn t gone with
    | some p, some ps => some (p :: ps)
    | _, _ => none

/-- The candidate groups of cores of a pool node's next workgroups, with what goes on each, in order of preference
(R392). Of a span-aligned launch every core of the group has room and an unclaimed array, however many workgroups are
left. -/
def State.candidates (s : State) (w : Work) : List (List (NeedOf × CoreShare)) :=
  match w with
  | .command _ | .entry _ _ _ => []
  | .launch n =>
    match Tab.find n s.launches with
    | none => []
    | some l =>
      let cs := (sortShares (s.shares l.tmpl.part)).filter (fun c => mayPlace l.within l.place c.core)
      let need := l.tmpl.needs
      if l.tmpl.cbase = 0 then []
      else if bits l.place 7 6 = 2 then
        (alignedGroups cs (2 ^ bits l.place 1 0)).map (fun g => g.map (fun c => ({ need with array := true }, c)))
      else cs.map (fun c => [(need, c)])
  | .saved [c] =>
    match s.ctxOf c with
    | none => []
    | some x => (sortShares (s.shares x.part)).map (fun k => [(x.needs, k)])
  | .saved cs =>
    match cs.mapM s.ctxOf with
    | some (x :: xs) => (alignedGroups (sortShares (s.shares x.part)) cs.length).map (fun g => ((x :: xs).map Ctx.needs).zip g)
    | _ => []

/-! ### Aging (R393) -/

/-- The oldest node of each level of a list takes its boost. -/
def boostAll (ageb : List Nat) : List Nat → List PoolNode → List PoolNode
  | _, [] => []
  | ls, n :: t =>
    if ls.contains n.eff then { n with eff := Nat.min 23 (n.eff + nthOr 0 ageb n.eff) } :: boostAll ageb (ls.erase n.eff) t
    else n :: boostAll ageb ls t

/-- Puts the pool in order. -/
def sortPool (ns : List PoolNode) : List PoolNode := ns.foldl (fun acc n => poolInsert n acc) []

/-- The levels below an effective priority that hold a ready node: those at which a dispatch counts (R393). -/
def State.passedLevels (s : State) (at_ : Nat) : List Nat :=
  (List.range 24).filter (fun l => l < at_ && s.pool.any (fun n => n.eff == l))

/-- Whether one dispatch more makes BYP of a level reach AGEN, where aging is on. -/
def State.agesNow (s : State) (l : Nat) : Bool := nthOr 0 s.agen l != 0 && nthOr 0 s.agen l ≤ nthOr 0 s.bypass l + 1

/-- A dispatch at an effective priority counts at every level below it that holds a ready node then (R393). -/
def State.countDispatch (at_ : Nat) (s : State) : State :=
  let passed := s.passedLevels at_
  let aged := passed.filter s.agesNow
  { s with
    bypass := (List.range 24).map (fun l =>
      if aged.contains l then 0 else nthOr 0 s.bypass l + ofBool (passed.contains l))
    pool := sortPool (boostAll s.ageb aged s.pool) }.settleBypass

/-! ### Resume (R222) -/

/-- A slice as it goes on after a resume: a barrier wait is evaluated again at its word, and a stall at a full ring slot
is over (R220). -/
def Slice.resumed (sl : Slice) : Slice :=
  { sl with
    ringStall := none,
    st := match sl.st with
      | .waiting (.barrier _ _ _ _) => .runnable
      | st => st }

/-- A gang as it goes on after a resume: its staging buffer is empty. -/
def Gang.resumed (g : Gang) : Gang := { g with staging := [], slices := g.slices.map Slice.resumed }.choose

/-- The slices of one sub-gang that wait in MWAIT go on, with their watches disarmed (R194, R220). -/
def State.resumeMwait (c g sub : Nat) (s : State) : State :=
  let t := s.asIssuing c g sub Slice.inMwait
  if t.issuing = [] then s else { t.disarm.resumeWord with issue := s.issue }

/-- Every pending MWAIT of a context returns, and its slices' watches are disarmed; any other watch has fired (R193, R220).
-/
def State.resumeMwaits (c : Nat) (s : State) : State :=
  let x := (s.ctxOf c).getD {}
  let s1 := (List.range x.gangs.length).foldl (fun t g => (List.range 8).foldl (fun u sub => u.resumeMwait c g sub) t) s
  s1.modCtx c (fun y => { y with gangs := y.gangs.map (fun g => { g with slices := g.slices.map (fun sl =>
    { sl with watch := sl.watch.map (fun w => { w with fired := true }) }) }) })

/-- The gatherings in force on the units that the gangs now have, begun now. -/
def Ctx.regather (now : Nat) (x : Ctx) : Ctx :=
  let ps := x.gangs.flatMap (fun g => g.slices.filterMap (fun sl =>
    match sl.st with | .waiting (.gathering p) => some (g.unit, p) | _ => none))
  { x with gatherings := ps.eraseDups.map (fun p => { unit := p.1, point := p.2, since := now }) }

/-- Commands of a context that have not completed, by number. -/
def State.cmdsOf (s : State) (c : Nat) : List (Nat × Cmd) :=
  s.cmds.filter (fun e => e.2.ctx == c && e.2.ring.isSome && e.2.state != .completed)

/-- Commands of a context that have not completed or have an arrival still to make, by number (R285). -/
def State.cmdsOut (s : State) (c : Nat) : List (Nat × Cmd) :=
  s.cmds.filter (fun e => e.2.ctx == c && e.2.ring.isSome && !e.2.cancelled &&
    (e.2.state != .completed || e.2.destArr || e.2.remoteArr))

/-- What the recorded commands of a resumed context wait for: the start of those unstarted, the rest of those whose
progress was recorded (R26). -/
def State.repostCmds (c : Nat) (s : State) : State :=
  { s with agenda := s.agenda ++ (s.cmdsOut c).map (fun e =>
      if e.2.state == .published then Instr.engineCommandStart e.1 else .commandCompletion e.1) }

/-- The commands of a context that has come to another core are issued from there (R26, R308). -/
def State.moveCmds (c core : Nat) (s : State) : State :=
  { s with cmds := s.cmds.map (fun e => if e.2.ctx == c && e.2.ring.isSome then (e.1, { e.2 with core := core }) else e) }

/-- A saved context resumes on a site: sections restored, npre one higher, watchdogs from zero, the acquire of R57, its
array, its recorded commands (R222, R250, R307); a group start or frame close that failed is attempted again (R112). -/
def State.resumeCtx (c : Nat) (p : Site) (s : State) : State :=
  match s.ctxOf c with
  | none => s
  | some x =>
    let y := { x with npre := x.npre + 1, cause := .none, fault := none, watches := [], heldArray := none,
                      gangs := x.gangs.map Gang.resumed }
    let s1 := s.placeCtx c y p 4
    let s2 := s1.dropL1 p.core
    let s3 := s2.modCtx c (Ctx.regather (s2.cycle (dieOf p.core)))
    let s4 := match x.heldArray with
      | some a =>
        let tag := (s3.epochOf x.part (dieOf p.core)).fresh
        s3.modArray (2 * p.core + ofBool (p.half == some true)) (fun _ => { a with claim := some c, tags := List.replicate 4 tag })
      | none => s3
    (((s4.resumeMwaits c).moveCmds c p.core).repostCmds c).settleCtx c

/-! ### Dispatch (R392) -/

/-- Removes the i-th node of the pool. -/
def State.dropNode (i : Nat) (s : State) : State := { s with pool := s.pool.eraseIdx i }

/-- A dispatch on the cores for which a waiting node had contexts pre-empted: that node looks again (R395). -/
def PoolNode.roomTaken (cores : List Nat) (n : PoolNode) : PoolNode :=
  if n.room.any (fun c => cores.contains c) then { n with looked := false, room := [] } else n

/-- The workgroups of a dispatched node start, or resume, on sites; a node with no more to start leaves the pool. -/
def State.startNode (i : Nat) (n : PoolNode) (ps : List Site) (s : State) : State :=
  match n.work with
  | .command _ | .entry _ _ _ => s
  | .launch k =>
    match Tab.find k s.launches with
    | none => s.dropNode i
    | some l =>
      let t := (List.range ps.length).foldl (fun u j =>
        u.startGroupOf l (l.next + j) (nthOr { core := 0, half := none, unit := 0, base := 0 } ps j)) s
      let t := { t with launches := Tab.set k { l with next := l.next + ps.length } t.launches }
      if l.total ≤ l.next + ps.length then t.dropNode i
      else { t with pool := mapNth i (fun m => { m with victims := [], looked := false, room := [] }) t.pool }
  | .saved cs => ((cs.zip ps).foldl (fun u e => u.resumeCtx e.1 e.2) s).dropNode i

/-- Dispatches the i-th node's next workgroups on sites. DEDUCED, unsafe: log entry 31. -/
def State.dispatchAt (i : Nat) (n : PoolNode) (ps : List Site) (s : State) : State :=
  let t := s.startNode i n ps
  (List.range ps.length).foldl (fun u _ => u.countDispatch n.eff)
    { t with pool := t.pool.map (PoolNode.roomTaken (ps.map (fun p => p.core))) }

/-- What starts a chain entry of a kind (Table 15-6). -/
def startOf (v c n kind : Nat) : Instr :=
  match kind with
  | 1 => .engine v c n
  | 2 => .chainLaunch v c n
  | 3 => .gload v c n
  | 4 => .gunload v c n
  | 5 => .chainRun v c n
  | 6 => .restore v c n
  | 7 => .tinv v c n
  | _ => .cntr v c n

/-- KIND of a chain entry that firmware has taken. -/
def State.kindOf (s : State) (v c n : Nat) : Nat :=
  match Tab.find n (Tab.read {} (4 * v + c) s.chains : Chain).entries with
  | some e => ofLeBytes (e.bytes.take 1)
  | none => 0

/-- A command of the pool goes to its engine; the action of a chain entry is done. -/
def State.dispatchCmd (i : Nat) (n : PoolNode) (s : State) : State :=
  let t := (s.dropNode i).countDispatch n.eff
  match n.work with
  | .command k => t.post (.engineCommandStart k)
  | .entry v c m => t.post (startOf v c m (s.kindOf v c m))
  | _ => t

/-- The sites of a group on which a node's next workgroups start: of a launch no more than it has left. -/
def State.sitesUsed (s : State) (w : Work) (ps : List Site) : List Site :=
  match w with
  | .launch k => match Tab.find k s.launches with | some l => ps.take (l.total - l.next) | none => ps
  | .command _ | .entry _ _ _ | .saved _ => ps

/-- The first node of the pool, from number i on, that can be dispatched now, with its sites. DEDUCED, unsafe: log
entry 31. -/
def State.firstReady (s : State) : List PoolNode → Nat → Option (Nat × PoolNode × List Site)
  | [], _ => none
  | n :: t, i =>
    match n.work with
    | .command _ | .entry _ _ _ => some (i, n, [])
    | w =>
      match (s.candidates w).findSome? (fun g => s.sitesOn g []) with
      | some ps => some (i, n, s.sitesUsed w ps)
      | none => s.firstReady t (i + 1)

/-! ### Pre-emption by the walker (R395) -/

/-- Whether a context may be pre-empted for a node. DEDUCED, unsafe: log entry 57. -/
def Ctx.eligible (n : PoolNode) (x : Ctx) : Bool :=
  (x.run == .running || x.run == .placed) && !x.svc && x.prio < n.prio &&
  (x.part == n.part || x.preempt)

/-- Orders victims: ascending base priority, then most recent dispatch first. -/
def victimBefore (a b : Nat × Ctx) : Bool := a.2.prio < b.2.prio || (a.2.prio == b.2.prio && b.2.order < a.2.order)

/-- Inserts a victim in that order. -/
def victimInsert (a : Nat × Ctx) : List (Nat × Ctx) → List (Nat × Ctx)
  | [] => [a]
  | b :: t => if victimBefore a b then a :: b :: t else b :: victimInsert a t

/-- The shortest prefix of victims that leaves room, tried from length i on; f bounds the tries. -/
def State.shortest (s : State) (need : NeedOf) (c : CoreShare) (vs : List (Nat × Ctx)) : Nat → Nat → Option (List (Nat × Ctx))
  | 0, _ => none
  | f + 1, i =>
    if vs.length < i then none
    else if (s.siteOn need c ((vs.take i).map (·.1))).isSome then some (vs.take i)
    else s.shortest need c vs f (i + 1)

/-- The required victims of a core. -/
def State.victimsOn (s : State) (n : PoolNode) (need : NeedOf) (c : CoreShare) : Option (List (Nat × Ctx)) :=
  let vs := (s.ctxs.filter (fun e => e.2.core == c.core && e.2.half == c.half && e.2.eligible n)).foldl
    (fun acc e => victimInsert e acc) []
  s.shortest need c vs (vs.length + 1) 0

/-- The required victims of a group of cores. -/
def State.victimsOf (s : State) (n : PoolNode) : List (NeedOf × CoreShare) → Option (List (Nat × Ctx))
  | [] => some []
  | (need, c) :: t =>
    match s.victimsOn n need c, s.victimsOf n t with
    | some vs, some ws => some (vs ++ ws)
    | _, _ => none

/-- Highest base priority and latest dispatch among victims. -/
def victimRank (vs : List (Nat × Ctx)) : Nat × Nat :=
  ((vs.map (fun e => e.2.prio)).foldl Nat.max 0, (vs.map (fun e => e.2.order)).foldl Nat.max 0)

/-- Whether victims are preferred to others of a lower-numbered core. -/
def rankBetter (a b : List (Nat × Ctx)) : Bool :=
  let ra := victimRank a
  let rb := victimRank b
  ra.1 < rb.1 || (ra.1 == rb.1 && rb.2 < ra.2)

/-- The victims that the walker pre-empts for a node. -/
def State.chooseVictims (s : State) (n : PoolNode) : Option (List (Nat × Ctx)) :=
  ((s.candidates n.work).filterMap (s.victimsOf n)).foldl (fun best vs =>
    if vs = [] then best
    else match best with
      | none => some vs
      | some b => if rankBetter vs b then some vs else some b) none

/-- The members of a context's span, itself among them (R250). -/
def State.spanOf (s : State) (c : Nat) : List Nat :=
  match s.ctxOf c with
  | none => []
  | some x => s.spanAll c x

/-- Whether a pre-emption is in progress for a node. -/
def State.preempting (s : State) (n : PoolNode) : Bool :=
  n.victims.any (fun c => match s.ctxOf c with | some x => x.run == .placed || x.run == .running || x.run == .stopping | none => false)

/-- The first node for which contexts are to be pre-empted: its number and its victims. -/
def State.firstPreempt (s : State) : List PoolNode → Nat → Option (Nat × List Nat)
  | [], _ => none
  | n :: t, i =>
    if n.looked || s.preempting n then s.firstPreempt t (i + 1)
    else
      match s.chooseVictims n with
      | some vs => some (i, (vs.flatMap (fun e => s.spanOf e.1)).eraseDups)
      | none => s.firstPreempt t (i + 1)

/-- The walker has looked for the nodes before number i. DEDUCED, unsafe: log entry 20. -/
def State.lookedBefore (i : Nat) (s : State) : State :=
  { s with pool := (s.pool.take i).map (fun n => { n with looked := true }) ++ s.pool.drop i }

/-- The walker asks for the pre-emption of a node's victims, and looks for the nodes after it. DEDUCED, unsafe: log
entry 20. -/
def State.askPreempt (i : Nat) (vs : List Nat) (s : State) : State :=
  let cores := vs.filterMap (fun c => (s.ctxOf c).map (fun x => x.core))
  { s with pool := mapNth i (fun n => { n with victims := vs, looked := true, room := cores }) s.pool,
           agenda := s.agenda ++ vs.map Instr.preemptionRequest ++ [.nodeDispatch] }

/-- NODE_DISPATCH (R392, R393, R395): the first node that a unit can take is dispatched; where none can be, the walker
pre-empts for the first node that has victims. It looks once for each waiting workgroup (Table 15-12), and again where
another node took the room that it had made. DEDUCED, unsafe: log entry 31. -/
def execNodeDispatch (s0 : State) : Result :=
  let s := s0.giveSlots
  .next (match s.firstReady s.pool 0 with
  | some (i, n, ps) =>
    let t := match n.work with
      | .command _ | .entry _ _ _ => s.dispatchCmd i n
      | _ => s.dispatchAt i n ps
    if t.pool = [] then t else t.post .nodeDispatch
  | none =>
    match s.firstPreempt s.pool 0 with
    | some (i, vs) => (s.lookedBefore i).askPreempt i vs
    | none => s.lookedBefore s.pool.length)

/-! ### The end of a context (R25, R27, R328) -/

/-- The on-chip units of a context (R326). -/
def State.chipUnits (s : State) (c : Nat) (x : Ctx) : List UnitName :=
  x.bankUnits ++
  (List.range x.gangs.length).flatMap (fun g => (List.range (x.regsN / 8)).map (UnitName.regs c g)) ++
  (if (s.array x.array).claim = some c then (List.range 4).map (UnitName.slot x.array) else [])

/-- A launch of a number has one workgroup less to wait for; once all have ended its origin goes on (R386). -/
def State.endOf (terminated : Bool) (s : State) (n : Nat) : State :=
  match Tab.find n s.launches with
  | none => s
  | some l =>
    let l1 := { l with ended := l.ended + 1, terminated := l.terminated || terminated }
    if l1.total ≤ l1.ended then
      let s1 := { s with launches := Tab.drop n s.launches }
      match l.origin with
      | .device => s1
      | .chain v c e =>
        let s2 := { s1 with chains := Tab.update (4 * v + c) (fun k => { k with entries := Tab.update e (fun y =>
            { y with err := l1.terminated, code := if l1.terminated then 0xF107 else 0 }) k.entries }) s1.chains }
        s2.post (.chainEntryCompletion v c e)
      | .graph h d =>
        let s2 := if l1.terminated then { s1 with graphs := Tab.update h (fun g =>
            { g with run := g.run.map (fun r => { r with states := mapNth d (fun _ => .failed) r.states }) }) s1.graphs } else s1
        s2.post (.chunkCompletion h d)
    else { s with launches := Tab.set n l1 s.launches }

/-- A sealed victim enters the pool as a saved-context node at its base priority (R395); the members of a span enter
together, once the last is sealed and none of them waits for a policy's decision (R250). -/
def State.saveToPool (c : Nat) (s : State) : State :=
  match s.ctxOf c with
  | none => s
  | some x =>
    let ms := s.spanAll c x
    if ms.any (fun m => (s.ctxOf m).any (fun y => y.run != .sealed || y.cause == .fault)) then s
    else s.enqueue { work := .saved ms, part := x.part, prio := x.prio, eff := x.prio, since := 0, cls := 2, key := c }

/-- The other members of a dissolved span go on, each on its own: those that wait in the pool or for the rest (R237). -/
def State.partSpan (ms : List Nat) (s : State) : State :=
  let t := { s with pool := s.pool.filter (fun n => match n.work with | .saved cs => !cs.any ms.contains | _ => true) }
  (ms.filter (fun m => (t.ctxOf m).any (fun y => y.run == .sealed && y.cause != .fault))).foldl (fun u m => u.saveToPool m) t

/-- What the end of a context frees: its units, which a live colour may still have to save, its array, its scope
barriers; its launches are told and the walker looks again. DEDUCED, unsafe: log entry 32. -/
def State.endCtx (c : Nat) (terminated : Bool) (s : State) : State :=
  match s.ctxOf c with
  | none => s
  | some x =>
    let s1 := if x.resident then s.beforeWrites (s.chipUnits c x) else s
    let s2 := s1.dropClaim c
    let s3 := { s2 with scopeBars := s2.scopeBars.filter (fun b => b.ctx != c), ctxs := Tab.drop c s2.ctxs }
    let s4 := ((([x.launch] ++ x.also.toList).foldl (State.endOf terminated) s3).lowerPoint (dieOf x.core)).partSpan
      (if (s.spanPart c x).isSome then (s.spanAll c x).filter (· != c) else [])
    if s4.pool = [] then s4 else s4.post .nodeDispatch

/-- Whether commands of a terminated context still run on its window, array or registers (R27); runs of graphs and
snapshot requests belong to the package. -/
def State.runsOn (s : State) (c : Nat) : Bool :=
  s.cmds.any (fun e => e.2.ctx == c && e.2.ring.isSome && e.2.state == .started && e.2.eng != 4 && e.2.eng != 5)

/-- WORKGROUP_RETIRE (R25); of a context that has been terminated, its end, once its started commands have reached their
stop points (R27). -/
def execWorkgroupRetire (ctx : Nat) (s : State) : Result :=
  .next (match s.ctxOf ctx with
  | some x =>
    if x.run == .running && s.mayRetire ctx x then s.endCtx ctx false
    else if x.run == .terminated && !s.runsOn ctx then s.endCtx ctx true else s
  | none => s)

/-- Cancels the commands of a terminated context: those unstarted vanish, those started run to their stop point and
are not delivered (R27). In a sealed image a copy that is recorded as progress has moved nothing and runs no more
(R26). -/
def State.cancelCmds (c : Nat) (x : Ctx) (s : State) : State :=
  let mine := fun (k : Cmd) => k.ctx == c && k.ring.isSome
  let gone := fun (k : Cmd) => mine k && (k.state == .published || (k.state == .started && k.eng == 2 && !x.resident))
  { s with cmds := (s.cmds.filter (fun e => !gone e.2)).map (fun e =>
      (e.1, if mine e.2 && e.2.state == .started then { e.2 with cancelled := true } else e.2)) }

/-- Terminates a context (R27): its window, array and core stay its own until its started commands have reached their
stop points. DEDUCED, unsafe: log entry 32. -/
def State.terminate (c : Nat) (s : State) : State :=
  match s.ctxOf c with
  | none => s
  | some x =>
    let t := s.cancelCmds c x
    if x.resident && t.runsOn c then t.modCtx c (fun y => { y.dissolveAll with run := .terminated }) else t.endCtx c true

/-! ### Pre-emption, drain and seal (R216, R219) -/

/-- A context stops at word boundaries: its issue groups dissolve (R118). -/
def Ctx.stop (cause : StopCause) (x : Ctx) : Ctx := { x.dissolveAll with run := .stopping, cause := cause }

/-- The contexts of a list that run stop for a pre-emption. -/
def State.stopAll (cs : List Nat) (s : State) : State :=
  cs.foldl (fun t c => t.modCtx c (fun y => if y.run == .running || y.run == .placed then y.stop .preempted else y)) s

/-- PREEMPTION_REQUEST (R219): every gang stops at its next word boundary, with the other members of a span (R250). A
context that has not yet started goes back as it stands. -/
def execPreemptionRequest (ctx : Nat) (s : State) : Result :=
  .next (match s.ctxOf ctx with
  | none => s
  | some x =>
    if x.svc then s
    else if x.run == .running || x.run == .placed then
      { s with agenda := s.agenda.erase (.preemptionRequest ctx) }.stopAll (s.spanOf ctx)
    else s)

/-- Whether a copy has an endpoint at a peer, or a destination workgroup in another package (R307). -/
def State.copyAfar (s : State) (c : Cmd) : Bool :=
  (c.dwg && c.drem) || (c.sources.flatten ++ c.targets.flatten).any (fun a => (s.lieOf c {} a).any (fun e => e.2.1.away))

/-- Whether a started command keeps its context from being sealed (R26): copies whose every endpoint is in the package
are recorded as progress, runs and snapshot requests belong to the package, everything else completes first. -/
def State.holdsSeal (s : State) (c : Cmd) : Bool :=
  c.state == .started &&
  (match c.eng with
   | 2 => c.pos != 0 || !c.settled || c.remote != [] || s.copyAfar c
   | 4 | 5 => false
   | _ => true)

/-- Whether a context is drained (R219 steps 2 to 4). -/
def State.drained (s : State) (c : Nat) (x : Ctx) : Bool :=
  x.gangs.all (fun g => g.accesses.all (fun a => a.2.done)) &&
  !s.launchAsks.any (fun k => k.2.ctx == c) &&
  !(s.cmdsOf c).any (fun e => s.holdsSeal e.2) &&
  !s.cmds.any (fun e => e.2.ctx == c && e.2.ring.isSome && !e.2.cancelled && e.2.state == .completed && e.2.remoteArr)

/-- The first loss that the gangs of a context have not taken: the gang and the loss (R197, R219). -/
def Ctx.firstLoss (x : Ctx) : Option (Nat × LostWrite) :=
  (List.range x.gangs.length).findSome? (fun g => match (x.gang g).lost with | w :: _ => some (g, w) | [] => none)

/-- The record of a loss that a drain reports: the word at which the gang stopped (R219, R420). -/
def State.lossRecord (s : State) (c : Nat) (x : Ctx) (g : Nat) (w : LostWrite) : FaultRec :=
  let i := leastOr 0 ((x.gang g).which Slice.live)
  let sl := (x.gang g).slice i
  let t := { s with issue := { ctx := c, gang := g, slices := 2 ^ i, hdr := sl.hdr, pc := sl.pc, widx := sl.widx } }
  t.faultRecord { code := fRemoteWriteLost, lanes := w.lanes, addr := w.addr, detail0 := ofBool w.clobber } sl.hdr sl.pc sl.widx

/-- The image of a context is sealed (R219 step 5, R221): its on-chip units are freed, its array travels with it, and its
counter takes the energy of its work since its die's last period, which is free (R403). DESIGN CHOICE, safe: log entry
49. -/
def State.sealImage (c : Nat) (x : Ctx) (s : State) : State :=
  let (due, s0) := s.free
  let s1 := s0.beforeWrites (s0.chipUnits c x)
  let held := if (s1.array x.array).claim = some c then some (s1.array x.array) else none
  let s2 := match held with | some _ => { s1 with arrays := Tab.drop x.array s1.arrays } | none => s1
  (s2.modCtx c (fun y => { y.dissolveAll with
    run := .sealed, heldArray := held, watches := [], tags := [], acq := none, ccount := y.ccount + due })).lowerPoint
    (dieOf x.core)

/-- The policy for a fault record that is ready: the plug-in's FAULT hook, or the default, report (R216, R381). -/
def State.faultPolicy (c : Nat) (x : Ctx) (s : State) : State :=
  if s.hasPlugin x.part then s.callHook (.fault c) else s.modCtx c (fun y => { y with run := .reported })

/-- A sealed context's fault record goes to the queue, and once it is there the policy decides; while it waits for room
the context stays sealed (R387). -/
def State.reportFault (c : Nat) (x : Ctx) (r : FaultRec) (s : State) : State :=
  let t := s.faultNotice c r
  if t.recordWaits r.part c then t else t.faultPolicy c x

/-- The records of a partition that wait enter the queue as it has room, and the policy decides on their contexts (R216,
R387). -/
def State.takeRecords (p : Nat) (s : State) : State :=
  match s.part p with
  | none => s
  | some x =>
    let t := s.drainRecords p x.waiting.length
    (x.waiting.map (·.1)).foldl (fun u c => match u.ctxOf c with
      | some y => if y.run == .sealed && y.cause == .fault && !u.recordWaits p c then u.faultPolicy c y else u
      | none => u) t

/-- A fault that leaves no resumable image (R216). -/
def FaultRec.fatal (r : FaultRec) : Bool := r.code == fBarrierTimeout || r.code == fRemoteWriteLost

/-- The other members of a context's span that have not stopped; a service context is never pre-empted (R250, R396). -/
def State.spanRuns (s : State) (c : Nat) (x : Ctx) : List Nat :=
  if x.svc then [] else (s.spanOf c).filter (fun m => m != c &&
    (s.ctxOf m).any (fun y => y.run == .running || y.run == .placed))

/-- Whether another member of a context's span is still being drained: its commands may write the arrays of all. -/
def State.spanDrains (s : State) (c : Nat) (x : Ctx) : Bool :=
  !x.svc && (s.spanOf c).any (fun m => m != c && (s.ctxOf m).any (fun y => y.run == .stopping && !s.drained m y))

/-- Whether a stopped context ends without an image: a loss that it has not taken, or a fatal fault (R216, R219). -/
def Ctx.endsAtSeal (x : Ctx) : Bool := x.firstLoss.isSome || x.fault.any FaultRec.fatal

/-- Whether the seal of a stopping context has something to do: its drain has ended, and the members of its span have all
been drained or have not been asked to stop yet (R250). -/
def State.sealDue (s : State) (c : Nat) (x : Ctx) : Bool :=
  s.drained c x && (x.endsAtSeal || s.spanRuns c x != [] || !s.spanDrains c x)

/-- IMAGE_SEAL (R219, R216): once the drain has ended, a loss or a fatal fault terminates the context; otherwise its
image is sealed, and it goes back to the pool or its record goes to the fault queue and the policy. The members of a
formed span stop and are sealed together: none is sealed before all have been drained (R250). -/
def execImageSeal (ctx : Nat) (s : State) : Result :=
  .next (match s.ctxOf ctx with
  | none => s
  | some x =>
    if x.run == .stopping && s.drained ctx x then
      let t := match x.firstLoss with
        | some (g, w) => (s.faultNotice ctx (s.lossRecord ctx x g w)).terminate ctx
        | none =>
          match x.fault with
          | some r =>
            if r.fatal then (s.faultNotice ctx r).terminate ctx
            else if s.spanRuns ctx x != [] then s.stopAll (s.spanRuns ctx x)
            else if s.spanDrains ctx x then s
            else (s.sealImage ctx x).reportFault ctx x r
          | none =>
            if s.spanRuns ctx x != [] then s.stopAll (s.spanRuns ctx x)
            else if s.spanDrains ctx x then s
            else (s.sealImage ctx x).saveToPool ctx
      if t.pool = [] then t else t.post .nodeDispatch
    else s)

/-- The policy's decision on a sealed context: 0 resume, 1 terminate, 2 report (R216, Table 15-1). -/
def State.decideFault (c answer : Nat) (s : State) : State :=
  match s.ctxOf c with
  | none => s
  | some x =>
    if x.run != .sealed then s
    else
      match answer with
      | 0 => (s.modCtx c (fun y => { y with cause := .preempted })).saveToPool c
      | 1 => s.terminate c
      | _ => s.modCtx c (fun y => { y with run := .reported })

/-- The host asks for the resume or the termination of a context that its partition's policy has reported (R216). The
spec names no request for it but RESTORE. DESIGN CHOICE, safe: log entry 67. -/
def State.hostAsks (c : Nat) (resume : Bool) (s : State) : State :=
  match s.ctxOf c with
  | some x =>
    if x.run != .reported then s
    else if resume then (s.modCtx c (fun y => { y with run := .sealed, cause := .preempted })).saveToPool c
    else s.terminate c
  | none => s

end Sys2Proof.Machine
end

