-- ==== Sys2Proof/Machine/Snapshot.lean ====
section
/-! DEFINITION. The snapshot engine (R322-R349): SNAP, SNAPQ and SNAPREL, the allocator, the die record, markers,
the sweep and the staging buffer, failures and releases. -/

namespace Sys2Proof.Machine

/-! ### Completion of commands -/

/-- A command completes with what it holds: in its ring, or at the entry or node that it came from (R22, R386). -/
def State.completeCmd (k : Nat) (s : State) : State :=
  match s.cmd k with
  | none => s
  | some c =>
    match c.ring with
    | some r => s.finishRing k r c true
    | none => let t := s.modCmd k (fun y => { y with state := .completed }); { t with agenda := t.agenda ++ c.follow }

/-! ### Issue (R343-R346) -/

/-- SNAP's table (Table 13-10, R344). -/
def snapBad (ws : List Nat) : List (Nat × Bool) :=
  let w := fun k => nthOr 0 ws k
  let inc := bit (w 0) 1
  [(0, bits (w 0) 7 4 != 0), (1, !inc && w 1 != 0), (2, if inc then bits (w 2) 31 16 != 0 else w 2 != 0)] ++ zeroFrom 4 ws

/-- SNAPQ's table (R345). -/
def snapqBad (ws : List Nat) : List (Nat × Bool) :=
  let w := nthOr 0 ws 1
  [(0, bits (nthOr 0 ws 0) 7 1 != 0),
   (1, bits w 30 19 != 0 || (if bit w 31 then w % 8 != 0 else bits w 18 0 != 0))] ++ zeroFrom 2 ws

/-- SNAPREL's table (R346). -/
def snaprelBad (ws : List Nat) : List (Nat × Bool) :=
  [(0, bits (nthOr 0 ws 0) 7 1 != 0), (2, bits (nthOr 0 ws 2) 31 16 != 0)] ++ zeroFrom 3 ws

/-- What a snapshot instruction fixes. -/
def snapSpec (op : Nat) (bad : List Nat → List (Nat × Bool)) : EngSpec :=
  { eng := 4, op := op, flagKind := true, check := tableCheck bad }

/-- SNAP (R344). -/
def execSnap (l : Bool) (d a : BitVec 8) (b : BitVec 5) (s : State) : Result :=
  .next (s.issueEngine (snapSpec 0 snapBad) l d a b)
/-- SNAPQ (R345). -/
def execSnapq (l : Bool) (d a : BitVec 8) (b : BitVec 5) (s : State) : Result :=
  .next (s.issueEngine (snapSpec 1 snapqBad) l d a b)
/-- SNAPREL (R346). -/
def execSnaprel (l : Bool) (d a : BitVec 8) (b : BitVec 5) (s : State) : Result :=
  .next (s.issueEngine (snapSpec 2 snaprelBad) l d a b)

/-! ### Domains (R322-R325) -/

/-- A snapshot domain. -/
def State.domain (s : State) (dom : Nat) : Option Domain := Tab.find dom s.domains

/-- Changes a domain. -/
def State.modDomain (dom : Nat) (f : Domain → Domain) (s : State) : State := { s with domains := Tab.update dom f s.domains }

/-- The allocator's state of a colour. -/
def Domain.col (d : Domain) (c : Bool) : AllocColour := if c then d.col1 else d.col0

/-- Changes the allocator's state of a colour. -/
def Domain.setCol (c : Bool) (f : AllocColour → AllocColour) (d : Domain) : Domain :=
  if c then { d with col1 := f d.col1 } else { d with col0 := f d.col0 }

/-- Dies of this package that a domain has: those of its partition's cores, DRAM units and ports, and die 0; every die
where the domain has other packages, whose messages come on every port (R322). -/
def State.domDies (s : State) (d : Domain) : List Nat :=
  match s.part d.part with
  | none => [0]
  | some p =>
    let ports := p.record.vfs.foldl (fun m v => m ||| (s.vf v.vf).ports) 0
    (List.range 4).filter (fun k => k == 0 || k == d.allocDie || d.others != [] || p.record.cores.any (fun c => dieOf c.core == k) ||
      p.record.dram.any (fun u => homeDie (2 ^ 29 * u.2) == k) || (maskBits 64 ports).any (fun q => q / 16 == k))

/-- All dies of a domain: those of other packages have numbers from 4 on. -/
def State.allDies (s : State) (d : Domain) : List Nat :=
  s.domDies d ++ (List.range (4 * d.others.length)).map (4 + ·)

/-- Number of an allocator state (R345). -/
def AllocState.code : AllocState → Nat
  | .free => 0
  | .recording => 1
  | .draining => 2
  | .complete => 3
  | .failed => 4
  | .releasing => 5

/-- Number of a die's state (R345). -/
def DieState.code : DieState → Nat
  | .idle => 0
  | .hold => 1
  | .opened => 2
  | .closed => 3
  | .drained => 4
  | .resetting => 5

/-- A die's state changes, and the change is reported to the allocator (R325). -/
def State.setDie (dom die : Nat) (col : Bool) (st : DieState) (s : State) : State :=
  let k := colKey dom die col
  let t := s.modDieCol dom die col (fun d => { d with st := st })
  { t with reportsDue := Tab.set k (Tab.read [] k t.reportsDue ++ [st]) t.reportsDue }.post (.dieStateReport dom die col)

/-- A die gives up what it holds of a released snapshot. -/
def DieColour.cleared (d : DieColour) : DieColour :=
  { lastSsn := d.lastSsn, stale := d.stale, st := d.st }

/-- SNPEND returns to 0 once no host channel of the domain is open (R384). -/
def State.settlePend (dom : Nat) (s : State) : State :=
  if (s.dieCol dom 0 false).hostOpen == [] && (s.dieCol dom 0 true).hostOpen == [] then
    match s.domain dom with
    | some d => (match s.part d.part with | some p => p.record.vfs | none => []).foldl (fun (t : State) (v : VfRecord) =>
        t.setPage v.vf 0x10B 1 0) s
    | none => s
  else s

/-- A die learns that the snapshot of an SSN is being released: from DRAINED of a complete snapshot it is IDLE at once,
from IDLE it stays so and says so, its later markers being stale; otherwise its tags are to be reset (Table 13-2). -/
def State.releaseDie (dom die ssn : Nat) (col complete : Bool) (s : State) : State :=
  let d := s.dieCol dom die col
  if d.st == .resetting then s
  else if d.st == .idle then
    (s.modDieCol dom die col (fun y => { y with lastSsn := Nat.max y.lastSsn ssn })).setDie dom die col .idle
  else
    let t := s.modDieCol dom die col DieColour.cleared
    let u := if die = 0 then t.settlePend dom else t
    if complete && d.st == .drained then u.setDie dom die col .idle
    else (u.setDie dom die col .resetting).post (.tagResetDone dom die col)

/-- The allocator's colour changes state: its own die knows at once, the others by notices (R324, R345). As it enters
RELEASING it awaits new reports of every die. -/
def State.setAlloc (dom : Nat) (col : Bool) (st : AllocState) (s : State) : State :=
  match s.domain dom with
  | none => s
  | some d =>
    let old := (d.col col).st
    let s1 := s.modDomain dom (Domain.setCol col (fun a =>
      { a with st := st, reports := if st == .releasing then [] else a.reports }))
    let s2 := (s.domDies d).foldl (fun t die =>
      if die = d.allocDie then t
      else
        let k := colKey dom die col
        { t with noticesDue := Tab.set k (Tab.read [] k t.noticesDue ++ [st]) t.noticesDue }.post
          (.allocatorStateNotice dom die col)) s1
    if st == .releasing && d.allocDie < 4 then s2.releaseDie dom d.allocDie (d.col col).ssn col (old == .complete) else s2

/-- ALLOCATOR_STATE_NOTICE (R345): a die hears the allocator's next state, in order. -/
def execAllocatorStateNotice (dom die : Nat) (col : Bool) (s : State) : Result :=
  let k := colKey dom die col
  .next (match Tab.read [] k s.noticesDue with
  | [] => s
  | st :: rest =>
    let old := Tab.read AllocState.free k s.notices
    let t := { s with noticesDue := Tab.write [] k rest s.noticesDue, notices := Tab.write .free k st s.notices }
    let ssn := match s.domain dom with | some d => (d.col col).ssn | none => 0
    if st == .releasing then t.releaseDie dom die ssn col (old == .complete) else t)

/-! ### Failures (R341) -/

/-- Body of a snapshot notice (Table 15-5). -/
def snapNotice (ssn dom : Nat) (col : Bool) (st cause : Nat) : List Byte :=
  leBytes 8 ssn ++ leBytes 2 dom ++ leBytes 1 (ofBool col) ++ leBytes 1 st ++ leBytes 4 cause

/-- A snapshot that has not completed fails for one of the causes of R341, 1 to 5; the fault queue is told. -/
def State.failSnap (dom : Nat) (col : Bool) (cause : Nat) (s : State) : State :=
  match s.domain dom with
  | none => s
  | some d =>
    let a := d.col col
    if a.st == .recording || a.st == .draining then
      (s.setAlloc dom col .failed).notice d.part 2 (snapNotice a.ssn dom col AllocState.failed.code cause)
    else s

/-- TIER_WRITE_FAILURE (R341). -/
def execTierWriteFailure (dom : Nat) (col : Bool) (s : State) : Result := .next (s.failSnap dom col 1)

/-- Whether a domain's colour has reached the channel-close limit before DRAINING: of an allocator on another package
the cycles are not this package's to count. -/
def State.closeLate (s : State) (dom : Nat) (col : Bool) : Bool :=
  match s.domain dom with
  | some d => (d.col col).st == .recording && (4 ≤ d.allocDie || (d.col col).since + d.limit ≤ s.cycle d.allocDie)
  | none => false

/-- Whether the channel-close limit falls due by itself. -/
def State.closesLate (s : State) (dom : Nat) (col : Bool) : Bool :=
  s.closeLate dom col && (s.domain dom).any (fun d => d.allocDie < 4)

/-- CHANNEL_CLOSE_LIMIT (R341). -/
def execChannelCloseLimit (dom : Nat) (col : Bool) (s : State) : Result :=
  .next (if s.closeLate dom col then s.failSnap dom col 5 else s)

/-- Bytes of a message log that a die may hold for a colour (Table 13-3). -/
def logLimit : Nat := 2 ^ 25

/-- Whether a channel of a die is open for a colour: its marker is due, or the host has not answered. -/
def DieColour.openOn (d : DieColour) (ch : Channel) : Bool :=
  d.st == .opened && (match ch with | .host v => NatSet.has v d.hostOpen | c => d.due.contains c)

/-- Logs a message received on a channel for one colour (R335). -/
def State.logFor (dom die : Nat) (ch : Channel) (port : Nat) (f : Flit) (s : State) (col : Bool) : State :=
  let d := s.dieCol dom die col
  if d.openOn ch then
    let t := s.modDieCol dom die col (fun y => { y with log := y.log ++ [{ chan := ch, flit := f, port := port }] })
    if logLimit < 256 * (d.log.length + 1) then t.failSnap dom col 4 else t
  else s

/-- Logs a message received on a channel by a partition's domain, for both colours but those of a mask, whose records
have discarded the request that it answers (R335). -/
def State.logMessage (part die : Nat) (ch : Channel) (port : Nat) (f : Flit) (s : State) (cut : Nat := 0) : State :=
  let dom := s.domOf part
  if dom = 0 then s else ([false, true].filter (fun c => !bit cut (ofBool c))).foldl (State.logFor dom die ch port f) s

/-! ### Start requests (R323, R340, Table 13-11) -/

def codeNoColour : Nat := 0xE001
def codeChainInvalid : Nat := 0xE002
def codeTargetInvalid : Nat := 0xE003
def codeNotDomain : Nat := 0xE004
def codeSsnMismatch : Nat := 0xE005

/-- Result word of SNAP (R344). -/
def snapResult (col : Bool) (ssn code : Nat) : Word :=
  BitVec.ofNat 32 (2 ^ 31 * ofBool (code != 0) + 2 ^ 30 * ofBool col + 2 ^ 16 * (if code = 0 then ssn % 2 ^ 14 else 0) + code)

/-- The die on which a command was issued: its core's, or die 0 for the package-level units (R322). -/
def Cmd.issueDie (c : Cmd) : Nat := if c.ring.isSome then dieOf c.core else 0

/-- A SNAP starts: a partition of no domain is rejected, any other request goes to the allocator. -/
def State.startSnap (k : Nat) (c : Cmd) (s : State) : State :=
  let dom := s.domOf c.part
  let col := bit (c.w 0) 0
  if dom = 0 then s.endCmd k codeNotDomain (snapResult col 0 codeNotDomain)
  else
    let ask : SnapAsk := { cmd := some k, die := c.issueDie, col := col, inc := bit (c.w 0) 1, base := c.dword 1,
                           tgt := bits (c.w 0) 3 2, tag := c.w 3 }
    (s.modDomain dom (fun d => { d with asks := d.asks ++ [ask] })).post (.snapshotStartRequest dom)

/-- The base of an incremental snapshot among those remembered (R340). -/
def Domain.baseOf (d : Domain) (ssn : Nat) : Option PastSnap := d.past.find? (fun p => p.ssn == ssn && p.complete)

/-- Whether every die of this package can be incremental on a base: the distance of epochs is nonzero. -/
def State.chainOk (s : State) (d : Domain) (ssn : Nat) : Bool :=
  match d.baseOf ssn with
  | none => false
  | some b => (s.domDies d).all (fun die =>
      ((s.epochOf d.part die).ep + 1 + 2 ^ 14 - Tab.read 0 die b.epochs) % 2 ^ 14 != 0)

/-- The allocator's judgement of a request, in the order of Table 13-11; far: a die of another package finds that the base
fails. -/
def State.requestCode (s : State) (d : Domain) (a : SnapAsk) (far : Bool) : Nat :=
  if !nthOr false d.targets a.tgt then codeTargetInvalid
  else if a.inc && (far || !s.chainOk d a.base) then codeChainInvalid
  else if (d.col a.col).st != .free then codeNoColour
  else 0

/-- Whether a die of another package finds that an incremental request's base fails (R340): its epochs are not this
package's, so that is a free value. DESIGN CHOICE, unsafe: log entry 24. -/
def State.farBase (d : Domain) (a : SnapAsk) (s : State) : Bool × State :=
  if a.inc && d.others != [] then
    let (n, t) := s.free
    (n % 2 == 1, t)
  else (false, s)

/-- SNAPSHOT_START_REQUEST (R323): the allocator decides the oldest request that has reached it. -/
def execSnapshotStartRequest (dom : Nat) (s : State) : Result :=
  .next (match s.domain dom with
  | none => s
  | some d =>
    match d.asks with
    | [] => s
    | a :: rest =>
      let (far, s0) := s.farBase d a
      let s1 := s0.modDomain dom (fun y => { y with asks := rest })
      let code := s.requestCode d a far
      if code != 0 then (match a.cmd with | some k => s1.endCmd k code (snapResult a.col 0 code) | none => s1)
      else
        let n := (d.ssn + 1) % 2 ^ 48
        let s2 := s1.modDomain dom (fun y => { y with ssn := n })
        let s3 := s2.modDomain dom (Domain.setCol a.col (fun x =>
          { x with ssn := n, inc := a.inc, base := a.base, tgt := a.tgt, tag := a.tag, since := s.cycle d.allocDie,
                   baseEpochs := match d.baseOf a.base with | some b => b.epochs | none => [],
                   reports := [], planes := [], cmd := a.cmd }))
        let s4 := s3.setAlloc dom a.col .recording
        if a.die < 4 then s4.post (.colourGrant dom a.die a.col) else s4)

/-- Firmware names a die of a domain as its allocator, while no colour is in use (R323). -/
def State.nameAllocator (dom die : Nat) (s : State) : State :=
  match s.domain dom with
  | none => s
  | some d =>
    if (s.allDies d).contains die && d.col0.st == .free && d.col1.st == .free && d.asks = [] then
      s.modDomain dom (fun y => { y with allocDie := die })
    else s

/-- A start request of another package's die reaches the allocator (R323). -/
def State.takeAsk (dom : Nat) (a : SnapAsk) (s : State) : State :=
  match s.domain dom with
  | none => s
  | some d =>
    if 4 ≤ a.die && (s.allDies d).contains a.die then
      (s.modDomain dom (fun y => { y with asks := y.asks ++ [{ a with cmd := none }] })).post (.snapshotStartRequest dom)
    else s

/-! ### The die record (R329, R330) -/

/-- Virtual channels that carry markers (R354). -/
def markerVcs : List Nat := [0, 1, 2, 3]

/-- Ports of this package that are in service (R334). -/
def State.livePorts (s : State) : List Nat := (List.range 64).filter (fun p => !(s.port p).down)

/-- Ports that carry a domain's messages: with other packages, every port in service, since a package's messages come on
the planes that its own functions use (R334). DESIGN CHOICE, unsafe: log entry 24. -/
def State.domPorts (s : State) (d : Domain) : List Nat := if d.others = [] then [] else s.livePorts

/-- Incoming channels of a die whose markers it awaits: from every other die, and from every other package on every
plane of the die's ports that the package's LIVEPORTS names, once a marker of it has come (R332, R334). -/
def State.channelsOf (s : State) (d : Domain) (col : Bool) (die : Nat) : List Channel :=
  (((s.domDies d).filter (· != die)).flatMap (fun k => markerVcs.map (Channel.diePath k))) ++
  d.others.flatMap (fun q =>
    let pod := (s.podOf d.part q).getD q
    let named := fun (p : Nat) => match Tab.find pod (d.col col).planes with | some l => l.getLsbD p | none => true
    ((s.domPorts d).filter (fun p => p / 16 == die && named p)).flatMap (fun p => markerVcs.map (Channel.fabric pod p)))

/-- Payload of a marker (Table 13-6). -/
def markerPayload (m : Marker) : List Byte :=
  leBytes 8 m.ssn ++ leBytes 2 m.domain ++ leBytes 1 (ofBool m.colour) ++ leBytes 1 m.sdie ++ leBytes 2 m.spkg ++
  leBytes 2 0 ++ leBytes 8 m.liveports.toNat

/-- The marker that a flit carries (Table 13-6). -/
def markerIn (f : Flit) : Marker :=
  let at_ := fun (o n : Nat) => ofLeBytes ((f.payload.drop o).take n)
  { ssn := at_ 0 8 % 2 ^ 48, domain := at_ 8 2 % 2 ^ 12, colour := bit (at_ 0x0A 1) 0, sdie := at_ 0x0B 1 % 4,
    spkg := at_ 0x0C 2 % 2 ^ 9, liveports := BitVec.ofNat 64 (at_ 0x10 8) }

/-- The logical number of this package in a partition's package map. -/
def State.logicalOf (s : State) (part : Nat) : Nat :=
  match s.part part with
  | some p => ((p.record.pmap.find? (fun e => e.2 == s.podPos)).map (·.1)).getD 0
  | none => 0

/-- The marker that a die sends. -/
def State.markerOf (s : State) (dom : Nat) (d : Domain) (die ssn : Nat) (col : Bool) : Marker :=
  { ssn := ssn, domain := dom, colour := col, sdie := die, spkg := s.logicalOf d.part,
    liveports := BitVec.ofNat 64 (maskOf s.livePorts) }

/-- Sends a die's markers: on its die paths, and on its ports where the domain has other packages (R330 step 7). -/
def State.sendMarkers (dom : Nat) (d : Domain) (die ssn : Nat) (col : Bool) (s : State) : State :=
  let f := fun (vc : Nat) => ({ spkg := s.podPos, dpkg := s.podPos, vf := (s.vfOf d.part).getD 0, vc := vc, tk := 8, payload := markerPayload (s.markerOf dom d die ssn col) } : Flit)
  let s1 := { s with agenda := s.agenda ++ ((s.domDies d).filter (· != die)).flatMap (fun k =>
    markerVcs.map (fun vc => Instr.snapshotMarker k (.diePath die vc) (f vc))) }
  ((s.domPorts d).filter (fun p => p / 16 == die)).foldl (fun t p => markerVcs.foldl (fun u vc => u.queueFlit p (f vc)) t) s1

/-- Granules of a partition that a die homes, in ascending partition address: how many, and the n-th (R339). -/
def State.dieUnits (s : State) (part die : Nat) : List Nat :=
  match s.part part with
  | some p => ((p.record.dram.foldl (fun (acc : Tab Nat) u => Tab.set u.1 u.2 acc) []).map (·.2)).filter (fun u =>
      homeDie (2 ^ 29 * u) == die)
  | none => []

/-- The contexts of a partition that a die records: those on its cores; die 0 also those whose images are held (R322). -/
def State.recorded (s : State) (part die : Nat) : List (Nat × Ctx) :=
  s.ctxs.filter (fun e => e.2.part == part && !e.2.svc &&
    (if e.2.resident then dieOf e.2.core == die else die == 0))

/-- A command as if it had not started: its own words, and nothing of what it has asked for (R331). -/
def Cmd.unstarted (c : Cmd) : Cmd :=
  { c with state := .published, words := c.words.take 8, err := false, code := 0, result := 0, pos := 0, data := [],
           remote := [], toRead := [], toWrite := [], destArr := false, remoteArr := false, wrote := [] }

/-- Whether an image holds a started command unstarted (Table 13-5): a matrix or RNS command in progress, a pair that has
not formed, a copy that has moved nothing, a row command before its first frame, a
request that the allocator still holds. -/
def State.undone (s : State) (k : Nat) (c : Cmd) : Bool :=
  c.state == .started &&
  (match c.eng with
   | 0 => !c.settled || c.op == 1 || s.arrays.any (fun e => e.2.asking.any (fun q => q.cmd == k || q.more.contains k))
   | 1 => !c.settled
   | 2 => c.op ≤ 3 && c.pos == 0
   | 3 => c.op ≤ 5 && !c.err
   | 4 => s.domains.any (fun d => d.2.asks.any (fun a => a.cmd == some k) || d.2.col0.cmd == some k || d.2.col1.cmd == some k ||
       NatSet.has k d.2.col0.releasers || NatSet.has k d.2.col1.releasers)
   | _ => false)

/-- A command as an image holds it (Table 13-5). DESIGN CHOICE, unsafe: log entry 24. -/
def State.asCaptured (s : State) (e : Nat × Cmd) : Nat × Cmd := (e.1, if s.undone e.1 e.2 then e.2.unstarted else e.2)

/-- Captures one context, with its commands and its requests to the walker; registers, window and slots of a context on
a core are units of their own (R330 step 5). -/
def State.captureCtx (dom die : Nat) (col : Bool) (s : State) (e : Nat × Ctx) : State :=
  let n := s.nextImageCtx
  let x := e.2
  let y := if x.resident then
      { x with window := [], gangs := x.gangs.map (fun g => { g with regs := [] }),
               heldArray := if (s.array x.array).claim = some e.1 then
                 some { s.array x.array with slots := List.replicate 4 {}, asking := none } else none }
    else x
  { s with
    nextImageCtx := n + 1
    imageCtxs := Tab.set n { y with origin := e.1 } s.imageCtxs
    imageCmds := Tab.set n ((s.cmdsOut e.1).map s.asCaptured) s.imageCmds
    imageAsks := Tab.set n ((s.launchAsks.filter (fun (k : Nat × LaunchAsk) => k.2.ctx == e.1)).map (fun (k : Nat × LaunchAsk) => k.2)) s.imageAsks }.modDieCol
    dom die col (fun d => { d with contexts := d.contexts ++ [n] })

/-- Whether a launch is of a service context, which never joins a snapshot domain (R396). -/
def State.svcLaunch (s : State) (l : Nat) : Bool := (Tab.find l s.launches).any (fun y => y.tmpl.svc)

/-- Whether a command is a service context's (R396). -/
def State.svcCmd (s : State) (c : Cmd) : Bool := c.ring.isSome && (s.ctxOf c.ctx).any (·.svc)

/-- Whether a node of the pool works for a service context (R396). -/
def State.svcNode (s : State) (n : PoolNode) : Bool :=
  match n.work with
  | .launch l => s.svcLaunch l
  | .saved cs => cs.any (fun c => (s.ctxOf c).any (·.svc))
  | .command k => (s.cmd k).any s.svcCmd
  | .entry _ _ _ => false

/-- Whether an outstanding request works for a service context (R396). -/
def State.svcUse (s : State) (u : TagUse) : Bool :=
  match u with
  | .lanes c _ _ => (s.ctxOf c).any (·.svc)
  | .command k => (s.cmd k).any s.svcCmd
  | .chunk _ _ | .code _ _ _ _ | .front | .frontRead _ => false

/-- Whether a command stands for a graph's run alone, whose nodes are looked at themselves. -/
def Cmd.isRun (c : Cmd) : Bool := c.eng == 5 && c.ring.isNone

/-- Whether a domain is quiescent at a die's record (R349): no live context, no command in progress but the request that
this record grants, no node in the pool, and of its runs' nodes none ready or running. -/
def State.quiet (s : State) (part : Nat) (grant : Option Nat) : Bool :=
  !s.ctxs.any (fun e => e.2.part == part && !e.2.svc) &&
  !s.cmds.any (fun e => e.2.part == part && some e.1 != grant && !s.svcCmd e.2 && !e.2.isRun &&
    (e.2.state != .completed || e.2.destArr || e.2.remoteArr)) &&
  !s.pool.any (fun n => n.part == part && !s.svcNode n) &&
  !s.graphs.any (fun g => g.2.part == part && g.2.run.any (fun r => r.choosing || r.states.any (fun st => st == .ready || st == .running)))

/-- The image of a snapshot on its target, begun where it is not there yet. -/
def State.openImage (dom : Nat) (d : Domain) (a : AllocColour) (s : State) : State :=
  if s.images.any (fun i => i.dom == dom && i.ssn == a.ssn) then s
  else
    { s with images := s.images ++ [{ dom := dom, ssn := a.ssn, base := a.base, inc := a.inc, part := d.part, tgt := a.tgt,
                                      dram := match s.part d.part with | some p => p.record.dram | none => [],
                                      logical := s.logicalOf d.part }] }

/-- A part of the package state that die 0 records for a domain's partition (Table 13-9, kind 0x0A). -/
def State.capturePackage (part : Nat) (s : State) (i : Image) : Image :=
  { i with
    packages := match s.part part with | some p => p.record.pmap.length | none => 0
    graphs := s.graphs.filter (fun g => g.2.part == part)
    launches := s.launches.filter (fun l => l.2.tmpl.part == part && !l.2.tmpl.svc)
    pool := s.pool.filter (fun n => n.part == part && !s.svcNode n)
    pendings := s.pendings.filter (fun e => (s.vf (e.1 / 4096)).part == part && !s.svcUse e.2.use &&
      (match e.2.use with | .command k => !(s.cmd k).any (fun c => c.gathers || s.undone k c) | _ => true))
    unsent := s.unsent.filter (fun m => m.part == part && m.use.isEngine && !s.svcUse m.use)
    nodeCmds := (s.cmds.filter (fun e => e.2.part == part && e.2.ring.isNone && !e.2.gathers &&
      (e.2.state != .completed || e.2.destArr || e.2.remoteArr))).map s.asCaptured
    bars := s.scopeBars.filter (fun b => match s.ctxOf b.ctx with | some x => x.part == part && !x.svc | none => false) }

/-- Changes the image of a snapshot. -/
def State.modImage (dom ssn : Nat) (f : Image → Image) (s : State) : State :=
  { s with images := s.images.map (fun i => if i.dom == dom && i.ssn == ssn then f i else i) }

/-- Writes the snapshot notice into the page of each function of the domain's partition (R336). -/
def State.snapPages (dom : Nat) (col : Bool) (ssn : Nat) (vs : List Nat) (s : State) : State :=
  vs.foldl (fun t v => (((t.setPage v 0x100 8 ssn).setPage v 0x108 2 dom).setPage v 0x10A 1 (ofBool col)).setPage v 0x10B 1 1) s

/-- The energy capture of die 0: one report of the partition, with the new SSN, signed; and the mirror (R409). -/
def State.captureEnergy (dom : Nat) (d : Domain) (col : Bool) (ssn : Nat) (s : State) : State :=
  let s1 := s.modAudit d.part (fun a => { a with ssn := ssn })
  let (r, s2) := s1.signReading d.part true (List.replicate 32 0)
  (s2.modDieCol dom 0 col (fun y => { y with readings := y.readings ++ [r] })).writeMirror

/-- A die whose channels are all closed is CLOSED. -/
def State.tryClose (dom die : Nat) (col : Bool) (s : State) : State :=
  let d := s.dieCol dom die col
  if d.st == .opened && d.due == [] && d.hostOpen == [] then s.setDie dom die col .closed else s

/-- On-chip units in the order of the sweep: scratchpad banks, register granules, accumulator slots (R339 step 3). -/
def inSweepOrder (us : List UnitName) : List UnitName :=
  (us.filter (fun u => match u with | .bank _ _ => true | _ => false)).eraseDups ++
  us.filter (fun u => match u with | .regs _ _ _ => true | _ => false) ++
  us.filter (fun u => match u with | .slot _ _ => true | _ => false)

/-- Whether a started matrix or RNS command has done its work, so that the array's next command boundary ends it. -/
def State.arrayDone (s : State) (part die k : Nat) (c : Cmd) : Bool :=
  c.ring.isSome && c.part == part && dieOf c.core == die && c.state == .started && c.eng ≤ 1 && c.settled &&
  !s.arrays.any (fun e => e.2.asking.any (fun q => q.cmd == k || q.more.contains k))

/-- A conversion that completes with RANGE_OVERFLOW or RESIDUE_MISMATCH leaves its fault to its gang (R266). -/
def State.noteConv (c : Cmd) (s : State) : State :=
  match c.ring with
  | some r =>
    if c.eng = 1 && (c.code = 0x40 || c.code = 0x41) && !c.cancelled then
      s.modGang r.ctx r.gang (fun g => { g with faulted := g.faulted ++
        [{ flag := c.cn, seq := r.seq, code := c.code, detail0 := nthOr 0 c.data 0, detail1 := nthOr 0 c.data 1 }] })
    else s
  | none => s

/-- A matrix or RNS command that has done its work completes. -/
def State.endArrayCmd (s : State) (k : Nat) : State :=
  match s.cmd k with
  | none => s
  | some c =>
    let t := if c.eng = 0 then s.lateMatrix k c ((s.ctxOf c.ctx).getD {}) else s
    (t.noteConv ((t.cmd k).getD c)).completeCmd k

/-- The arrays of a die reach the command boundary at which they record (Table 13-5). -/
def State.settleArrays (part die : Nat) (s : State) : State :=
  ((s.cmds.filter (fun e => s.arrayDone part die e.1 e.2)).map (·.1)).foldl State.endArrayCmd s

/-- The host channels that a die opens as it records: those of the domain's functions, on die 0 (R336). -/
def State.hostsOf (s : State) (d : Domain) (die : Nat) : List Nat :=
  if die = 0 then (match s.part d.part with | some p => p.record.vfs.map (·.vf) | none => []) else []

/-- The flip of a die (R330 step 4): E of the colour is inverted, EP counts the record, and the die holds the snapshot. -/
def State.flip (dom : Nat) (d : Domain) (col : Bool) (die : Nat) (grant : Option Nat) (s : State) : State :=
  let a := d.col col
  let e := s.epochOf d.part die
  let ep := (e.ep + 1) % 2 ^ 14
  let e1 : DieEpoch := if col then { e with e1 := !e.e1, ep := ep } else { e with e0 := !e.e0, ep := ep }
  let chips := inSweepOrder ((s.recorded d.part die).flatMap (fun k => if k.2.resident then s.chipUnits k.1 k.2 else []))
  ({ s with epochs := Tab.write {} (4 * d.part + die) e1 s.epochs }.modDieCol dom die col (fun y =>
    { lastSsn := a.ssn, stale := y.stale, st := y.st, ssn := a.ssn, inc := a.inc, base := a.base,
      baseEpoch := if a.inc then Tab.read 0 die a.baseEpochs else 0,
      epoch := ep, tgt := a.tgt, tag := a.tag, due := s.channelsOf d col die, hostOpen := s.hostsOf d die,
      chips := chips, sweepTotal := 131072 * (s.dieUnits d.part die).length + chips.length,
      quiescent := s.quiet d.part (grant.orElse (fun _ => (d.col col).cmd)) })).openImage dom d a

/-- The answers to requests of commands that a die's record holds unstarted are not part of the snapshot (R335). -/
def State.cutRequests (part die : Nat) (col : Bool) (s : State) : State :=
  { s with pendings := s.pendings.map (fun (e : Nat × Pending) =>
      match e.2.use with
      | .command k =>
        if (s.cmd k).any (fun c => c.part == part && c.issueDie == die) then
          (e.1, { e.2 with cut := maskOf ([0, 1].filter (fun b =>
            if b = ofBool col then (s.cmd k).any (fun c => c.gathers || s.undone k c) else bit e.2.cut b)) })
        else e
      | _ => e) }

/-- The granted request of a die completes at step 6 of its record (R330, R344). -/
def State.grantCmd (dom k : Nat) (col : Bool) (ssn : Nat) (s : State) : State :=
  ((s.modCmd k (fun c => { c with code := 0, result := snapResult col ssn 0 })).completeCmd k).modDomain dom
    (Domain.setCol col (fun y => { y with cmd := none }))

/-- What die 0 records for the package and its host (R330 step 5, R336). -/
def State.capturePart (dom : Nat) (d : Domain) (col : Bool) (s : State) : State :=
  let ssn := (d.col col).ssn
  (((s.modImage dom ssn (s.capturePackage d.part)).captureEnergy dom d col ssn)).snapPages dom col ssn (s.hostsOf d 0)

/-- One die records a colour (R330): its arrays reach their command boundary, the flip, the completion of a request that
was granted to it, the capture, the markers. No write is on its way to a home of the die between steps, so the hold lasts
no longer than this one. DESIGN CHOICE, unsafe: log entry 24. -/
def State.recordDie (dom : Nat) (col : Bool) (grant : Option Nat) (die : Nat) (s : State) : State :=
  match s.domain dom with
  | none => s
  | some d =>
    let ssn := (d.col col).ssn
    if (s.dieCol dom die col).st != .idle then s
    else
      let s1 := ((s.settleArrays d.part die).setDie dom die col .hold).flip dom d col die grant
      let s2 := match grant with | some k => s1.grantCmd dom k col ssn | none => s1
      let s3 := ((s2.recorded d.part die).foldl (State.captureCtx dom die col) s2).cutRequests d.part die col
      let s4 := if die = 0 then s3.capturePart dom d col else s3
      ((s4.sendMarkers dom d die ssn col).setDie dom die col .opened).tryClose dom die col

/-- The grant of a colour reaches the die that asked for it, which leaves IDLE and records (R325, R330). -/
def State.takeGrant (dom die : Nat) (col : Bool) (s : State) : State :=
  match s.domain dom with
  | none => s
  | some d => match (d.col col).cmd with | none => s | some k => s.recordDie dom col (some k) die

/-- COLOUR_GRANT (R325, R330); a die that a marker has made record before has the request complete. -/
def execColourGrant (dom die : Nat) (col : Bool) (s : State) : Result :=
  .next (if (s.dieCol dom die col).st == .idle then s.takeGrant dom die col
  else
    match s.domain dom with
    | none => s
    | some d => match (d.col col).cmd with | some k => s.grantCmd dom k col (d.col col).ssn | none => s)

/-- The grant of a colour that has not reached its die reaches it before a release of the colour does. DESIGN CHOICE,
unsafe: log entry 24. -/
def State.grantFirst (dom : Nat) (col : Bool) (s : State) : State :=
  match s.domain dom with
  | none => s
  | some d =>
    match ((d.col col).cmd).bind s.cmd with
    | some c => s.takeGrant dom c.issueDie col
    | none => s

/-! ### Markers (R333) -/

/-- Whether a channel stays expected once a marker of a pod position has named the planes in service there. -/
def liveChannel (pod : Nat) (m : Marker) (ch : Channel) : Bool :=
  match ch with
  | .fabric p plane _ => p != pod || m.liveports.getLsbD plane
  | _ => true

/-- The planes that a package's marker names are the only channels from it on any die of the domain (R334). -/
def State.namePlanes (d : Domain) (pod : Nat) (m : Marker) (s : State) : State :=
  (s.domDies d).foldl (fun t die =>
    if (t.dieCol m.domain die m.colour).ssn != m.ssn then t
    else (t.modDieCol m.domain die m.colour (fun y => { y with due := y.due.filter (liveChannel pod m) })).tryClose
      m.domain die m.colour)
    (s.modDomain m.domain (Domain.setCol m.colour (fun a => { a with planes := Tab.set pod m.liveports a.planes })))

/-- A marker closes its channel of a die that has recorded its snapshot: the place in the log is noted (Table 13-9). -/
def State.closeChannel (die : Nat) (ch : Channel) (m : Marker) (s : State) : State :=
  if (s.dieCol m.domain die m.colour).ssn != m.ssn then s
  else
    (s.modDieCol m.domain die m.colour (fun y =>
      { y with due := y.due.filter (· != ch),
               closedAt := if y.due.contains ch then y.closedAt ++ [(ch, y.log.length)] else y.closedAt })).tryClose
      m.domain die m.colour

/-- A marker is taken on a channel of a die: one of a colour that is FREE is discarded and counted, and so is a stale one;
the first one makes the die record, and each closes its channel (R325, R333). -/
def State.takeMarker (die : Nat) (ch : Channel) (m : Marker) (s : State) : State :=
  match s.domain m.domain with
  | none => { s with discards := s.discards + 1 }
  | some d =>
    let a := d.col m.colour
    let y := s.dieCol m.domain die m.colour
    if a.st == .free || a.ssn != m.ssn then { s with discards := s.discards + 1 }
    else if y.st == .idle && m.ssn ≤ y.lastSsn then s.modDieCol m.domain die m.colour (fun z => { z with stale := z.stale + 1 })
    else
      let s1 := match ch with | .fabric pod _ _ => s.namePlanes d pod m | _ => s
      let s2 := if y.st == .idle then s1.recordDie m.domain m.colour none die else s1
      s2.closeChannel die ch m

/-- The host's answer closes the host channels of a domain whose SSN is at or below it; SNPEND returns to 0 once none
is open (R336, R384). DESIGN CHOICE, unsafe: log entry 24. -/
def State.answerSnapshot (dom ans : Nat) (s : State) : State :=
  let close := fun (t : State) (col : Bool) =>
    let d := t.dieCol dom 0 col
    if d.st == .opened && d.hostOpen != [] && d.ssn ≤ ans then
      (t.modDieCol dom 0 col (fun y => { y with hostOpen := [] })).tryClose dom 0 col
    else t
  ([false, true].foldl close s).settlePend dom

/-! ### Records of an image (R342) -/

/-- KIND of a record (Table 13-9). -/
def Record.kind : Record → Nat
  | .header _ _ _ _ _ _ => 0x01
  | .unit v => match v.name with | .granule _ => 0x02 | .bank _ _ => 0x03 | .regs _ _ _ => 0x04 | .slot _ _ => 0x05
  | .context _ => 0x06
  | .message _ _ => 0x07
  | .close _ _ => 0x08
  | .energy _ => 0x09
  | .package _ _ => 0x0A
  | .trailer _ _ => 0x0B

/-- A channel as a number of a record's key or payload. DESIGN CHOICE, unsafe: log entry 79. -/
def channelCode : Channel → Nat
  | .diePath k vc => 8 * k + vc
  | .fabric p plane vc => 2 ^ 16 + 2 ^ 18 * p + 8 * plane + vc
  | .host v => 2 ^ 17 + v

/-- Bits of a set as bytes. -/
def markBytes (n : Nat) (ms : List Nat) : List Byte := leBytes (n / 8) (maskOf ms)

/-- The payload of a saved unit (Table 13-9). DESIGN CHOICE, unsafe: log entry 79. -/
def Saved.payload (v : Saved) : List Byte :=
  match v.name, v.data with
  | .granule _, .bytes bs ms => bs ++ markBytes 128 ms
  | .bank _ _, .bytes bs ms => bs ++ markBytes 4096 ms
  | .regs _ _ k, .lanes vs =>
    let at_ := fun (i : Nat) => (Tab.read {} (256 * k + i) vs : LaneVal)
    (List.range 256).flatMap (fun i => leBytes 4 (at_ i).val.toNat) ++ markBytes 256 ((List.range 256).filter (fun i => (at_ i).p))
  | .slot _ _, .acc a p =>
    (List.range 4096).flatMap (fun i => leBytes 4 (Tab.read 0 i a.cells : BitVec 32).toNat) ++ leBytes 1 (ofBool a.poisoned) ++
    leBytes 1 (ofBool a.rns) ++ leBytes 2 p.vch.toNat ++ leBytes 4 p.bound.toNat
  | _, _ => []

/-- A message as received: 32 bytes of header fields and its payload. DESIGN CHOICE, unsafe: log entry 79. -/
def messageBytes (f : Flit) : List Byte :=
  sized 32 (leBytes 2 f.spkg ++ leBytes 2 f.dpkg ++ leBytes 2 f.vf ++ leBytes 1 f.vc ++ leBytes 1 f.tk.toNat ++ leBytes 2 f.tag.toNat) ++
  sized 224 f.payload

/-- The payload of a record (Table 13-9). DESIGN CHOICE, unsafe: log entry 79. -/
def Record.payload : Record → List Byte
  | .header dom epoch base tag quiet part =>
    leBytes 2 dom ++ leBytes 2 epoch ++ leBytes 4 tag ++ leBytes 8 base ++ leBytes 1 (ofBool quiet) ++ leBytes 1 part
  | .unit v => v.payload
  | .context n => Config.contextBytes n
  | .message _ l => messageBytes l.flit
  | .close _ place => leBytes 8 place
  | .energy r => r
  | .package dom ssn => Config.packageBytes (2 ^ 48 * dom + ssn)
  | .trailer counts hash => counts.flatMap (leBytes 4) ++ sized 64 hash

/-- The context that an image's slot record belongs to: the captured one whose array it is. -/
def State.slotCtx (s : State) (d : DieColour) (a : Nat) : Nat :=
  ((d.contexts.map (fun n => Tab.read ({} : Ctx) n s.imageCtxs)).find? (fun x => x.array == a && x.heldArray.isSome)).elim 0 (·.origin)

/-- The numbers of a record's KEY (Table 13-9). DESIGN CHOICE, unsafe: log entry 79. -/
def State.recordKey (s : State) (i : Image) (col : Bool) (die : Nat) : Record → List Nat
  | .header _ _ _ _ _ _ | .trailer _ _ => [i.logical, die]
  | .unit v =>
    (match v.name with
     | .granule g => [i.logical, ((i.dram.find? (fun u => u.2 == g / 131072)).map (·.1)).getD 0, g % 131072]
     | .bank k b => [i.logical, die, k % Config.coresPerDie, b]
     | .regs c g k => [c, g, k]
     | .slot a t => [s.slotCtx (s.dieCol i.dom die col) a, a, t])
  | .context n => [(Tab.read ({} : Ctx) n s.imageCtxs).origin]
  | .message place l => [die, channelCode l.chan, place]
  | .close ch _ => [die, channelCode ch]
  | .energy _ | .package _ _ => [i.logical]

/-- The 32-byte header of a record (Table 13-8). -/
def State.recordHeader (s : State) (i : Image) (col : Bool) (die : Nat) (r : Record) : List Byte :=
  leBytes 1 r.kind ++ leBytes 1 (ofBool col + 2 * ofBool i.inc) ++ leBytes 2 0 ++ leBytes 4 r.payload.length ++
  leBytes 8 (i.ssn % 2 ^ 48) ++ sized 16 ((s.recordKey i col die r).flatMap (leBytes 4))

/-- A record as it stands on the tier target (R342). -/
def State.recordBytes (s : State) (i : Image) (col : Bool) (die : Nat) (r : Record) : List Byte :=
  s.recordHeader i col die r ++ r.payload

/-- The saved units of an image. -/
def Image.units (i : Image) : List Saved := i.records.filterMap (fun e => match e.2 with | .unit v => some v | _ => none)

/-- The captured contexts of an image. -/
def Image.contexts (i : Image) : List Nat := i.records.filterMap (fun e => match e.2 with | .context n => some n | _ => none)

/-- The logged messages of an image, each with its die. -/
def Image.logs (i : Image) : List (Nat × Logged) :=
  i.records.filterMap (fun e => match e.2 with | .message _ l => some (e.1, l) | _ => none)

/-! ### The Col (R339, R342) -/

/-- A unit's record is written to the tier: its header of 32 bytes and its payload. -/
def DieColour.write (v : Saved) (d : DieColour) : DieColour :=
  { d with records := d.records ++ [v], bytes := d.bytes + 32 + v.name.size }

/-- Whether the sweep of a die has passed every unit. -/
def State.swept (s : State) (dom die : Nat) (col : Bool) : Bool :=
  match s.domain dom with
  | some d =>
    let k := s.dieCol dom die col
    131072 * (s.dieUnits d.part die).length ≤ k.sweepAt && k.chips == []
  | none => true

/-- The records of a die besides those of units: its header, contexts, logged messages, channel closes, readings, and the
package state of die 0 (Table 13-9). They are written with the trailer, in an order that R342 leaves open. DESIGN CHOICE,
unsafe: log entry 79. -/
def DieColour.late (dom part die : Nat) (d : DieColour) : List Record :=
  [.header dom d.epoch d.base d.tag (d.quiescent && d.log == []) part] ++ d.contexts.map Record.context ++
  (List.range d.log.length).filterMap (fun i => (d.log[i]?).map (Record.message i)) ++
  d.closedAt.map (fun e => Record.close e.1 e.2) ++ d.readings.map Record.energy ++
  (if die = 0 then [.package dom d.ssn] else [])

/-- The trailer of a stream of a die's records: how many of each kind, and the SHA-512 of their bytes in order. -/
def State.trailerOf (s : State) (i : Image) (col : Bool) (die : Nat) (rs : List Record) : Record :=
  .trailer ((List.range 11).map (fun k => (rs.filter (fun r => r.kind == k + 1)).length))
    (sha512 (rs.flatMap (s.recordBytes i col die)))

/-- The trailer: a die that is CLOSED, swept and drained has written its records, and is DRAINED (R339 step 4, R342). -/
def State.tryTrailer (dom die : Nat) (col : Bool) (s : State) : State :=
  let d := s.dieCol dom die col
  if d.st == .closed && s.swept dom die col && d.staged == [] then
    let part := match s.domain dom with | some x => x.part | none => 0
    let late := d.late dom part die
    let rs := d.records.map Record.unit ++ late
    let size := fun (r : Record) => 32 + r.payload.length
    ((s.modImage dom d.ssn (fun i =>
      { i with records := i.records ++ (rs ++ [s.trailerOf i col die rs]).map (fun r => (die, r)),
               quiescent := i.quiescent && d.quiescent && d.log == [] })).modDieCol dom die col (fun y =>
        { y with bytes := y.bytes + (late.map size).foldl (· + ·) 0 + 140 })).setDie dom die col .drained
  else s

/-- Whether a swept unit still exists. -/
def State.unitLives (s : State) : UnitName → Bool
  | .granule _ => true
  | .bank k b => (s.bankCtxs k b) != []
  | .regs c _ _ => match s.ctxOf c with | some x => x.resident | none => false
  | .slot a _ => (s.array a).claim.isSome

/-- The sweep visits one unit: where the snapshot needs it, it is saved, and its tag says so (R339 step 3). -/
def State.visit (dom die part : Nat) (col : Bool) (u : UnitName) (s : State) : State :=
  let d := s.dieCol dom die col
  let e := (s.epochOf part die).e col
  let t := s.tagOf u
  if !s.unitLives u || t.g col == e then s
  else
    let s1 := if !d.inc || d.inWindow t.wep then
        s.modDieCol dom die col (DieColour.write { name := u, data := s.unitData u }) else s
    s1.setTag (t.setG col e) u

/-- The next unit of a die's sweep: granules first, then the on-chip units. -/
def State.nextUnit (s : State) (dom die : Nat) (col : Bool) : Option UnitName :=
  match s.domain dom with
  | none => none
  | some d =>
    let k := s.dieCol dom die col
    let us := s.dieUnits d.part die
    if k.sweepAt < 131072 * us.length then some (.granule (131072 * nthOr 0 us (k.sweepAt / 131072) + k.sweepAt % 131072))
    else k.chips.head?

/-- The first colour of a die with a staged unit: its domain and colour. DESIGN CHOICE, unsafe: log entry 58. -/
def State.firstStaged (s : State) (die : Nat) : Option (Nat × Bool) :=
  (s.colours.find? (fun e => e.1 / 2 % 4 == die && e.2.staged != [])).map (fun e => (e.1 / 8, e.1 % 2 == 1))

/-- COL_SWEEP_UNIT (R339): while units are staged on the die, the Col drains them first. -/
def execColSweepUnit (dom die : Nat) (col : Bool) (s : State) : Result :=
  let k := s.dieCol dom die col
  .next (if (k.st == .opened || k.st == .closed) && (s.firstStaged die).isNone then
    match s.domain dom, s.nextUnit dom die col with
    | some d, some u =>
      let s1 := s.modDieCol dom die col (fun y => match u with
        | .granule _ => { y with sweepAt := y.sweepAt + 1 }
        | _ => { y with chips := y.chips.tail })
      (s1.visit dom die d.part col u).tryTrailer dom die col
    | _, _ => s.tryTrailer dom die col
  else s)

/-- The Col moves the oldest staged unit of a die to the tier. -/
def State.drainStaged (die : Nat) (s : State) : State :=
  match s.firstStaged die with
  | none => s
  | some (dom, col) =>
    (s.modDieCol dom die col (fun d => match d.staged with
      | u :: t => { d.write u with staged := t }
      | [] => d)).tryTrailer dom die col

/-- COL_STAGING_DRAIN (R339). -/
def execColStagingDrain (die : Nat) (s : State) : Result := .next (s.drainStaged die)

/-- Bytes that a die's staging buffer holds (Table 13-3). -/
def State.stagedBytes (s : State) (die : Nat) : Nat :=
  ((s.colours.filter (fun e => e.1 / 2 % 4 == die)).flatMap (fun e => e.2.staged.map (fun u => u.name.size))).foldl (· + ·) 0

/-- STAGING_BUFFER_ROOM (R339): the wait of a write for room is time only, so the write has proceeded; a buffer at its
limit gives up its oldest unit. -/
def execStagingBufferRoom (die : Nat) (s : State) : Result :=
  .next (if 2 ^ 28 ≤ s.stagedBytes die then s.drainStaged die else s)

/-! ### Reports (R324) -/

/-- The state that a die of another package reports next. -/
def nextReport (a : AllocColour) (old : DieState) : DieState :=
  match a.st, old with
  | .releasing, _ => .idle
  | _, .idle => .hold
  | _, .hold => .opened
  | _, .opened => .closed
  | _, .closed => .drained
  | _, st => st

/-- Snapshots that a die remembers (Table 13-3). -/
def pastLimit : Nat := 64

/-- The allocator completes a snapshot: it is remembered, and its image is whole. -/
def State.completeSnap (dom : Nat) (d : Domain) (a : AllocColour) (col : Bool) (s : State) : State :=
  let es := (s.domDies d).foldl (fun (t : Tab Nat) die => Tab.set die (s.dieCol dom die col).epoch t) []
  ((s.modDomain dom (fun y =>
    { y with past := ({ ssn := a.ssn, epochs := es, complete := true } :: y.past).take pastLimit })).modImage dom a.ssn
    (fun i => { i with complete := true })).setAlloc dom col .complete

/-- A colour is FREE: what an aborted or failed snapshot left on its tier is gone, and the commands that wait for it
complete (R346). -/
def State.freeColour (dom : Nat) (a : AllocColour) (col : Bool) (s : State) : State :=
  let s0 := { s with images := s.images.filter (fun i => !(i.dom == dom && i.ssn == a.ssn && !i.complete)) }
  let s1 := (s0.modDomain dom (Domain.setCol col (fun y =>
    { y with releasers := [], reports := [], planes := [], ssn := 0, cmd := none }))).setAlloc dom col .free
  a.releasers.foldl (fun t k => t.post (.commandCompletion k)) s1

/-- What the allocator's colour goes to after a report (Table 13-1). -/
def State.judgeReports (dom : Nat) (col : Bool) (s : State) : State :=
  match s.domain dom with
  | none => s
  | some d =>
    let a := d.col col
    let all := fun (t : DieState → Bool) => (s.allDies d).all (fun k => (Tab.find k a.reports).any t)
    match a.st with
    | .recording =>
      if all (fun st => st == .closed || st == .drained) then
        let t := s.setAlloc dom col .draining
        if all (· == .drained) then t.completeSnap dom d a col else t
      else s
    | .draining => if all (· == .drained) then s.completeSnap dom d a col else s
    | .releasing => if all (· == .idle) then s.freeColour dom a col else s
    | .free | .complete | .failed => s

/-- DIE_STATE_REPORT (R325): the allocator takes a die's next report. -/
def execDieStateReport (dom die : Nat) (col : Bool) (s : State) : Result :=
  let k := colKey dom die col
  .next (match s.domain dom with
  | none => s
  | some d =>
    if die < 4 then
      match Tab.read [] k s.reportsDue with
      | [] => s
      | st :: rest =>
        ({ s with reportsDue := Tab.write [] k rest s.reportsDue }.modDomain dom (Domain.setCol col (fun a =>
          { a with reports := Tab.set die st a.reports }))).judgeReports dom col
    else if (s.allDies d).contains die then
      (s.modDomain dom (Domain.setCol col (fun a =>
        { a with reports := Tab.set die (nextReport a (Tab.read .idle die a.reports)) a.reports }))).judgeReports dom col
    else s)

/-! ### Reset of tags (R325) -/

/-- Clears the generation bit of a colour. -/
def Tag.clearG (col : Bool) (t : Tag) : Tag := t.setG col false

/-- TAG_RESET_DONE (R325): every tag of the domain on the die equals the die's generation bit of the colour again; the
model makes both 0. DESIGN CHOICE, unsafe: log entry 24. -/
def execTagResetDone (dom die : Nat) (col : Bool) (s : State) : Result :=
  .next (match s.domain dom with
  | none => s
  | some d =>
    if (s.dieCol dom die col).st != .resetting then s
    else
      let mine := fun (x : Ctx) => x.part == d.part && x.resident && dieOf x.core == die
      let e := s.epochOf d.part die
      let s1 := { s with
        cores := (s.cores.map (fun (k : Nat × Core) =>
          (k.1, { k.2 with bankTags := (k.2.bankTags.map (fun (t : Nat × Tag) =>
            if (s.bankCtxs k.1 t.1).any (fun x => mine x.2) then (t.1, t.2.clearG col) else t)).filter (fun (t : Nat × Tag) => t.2 != ({} : Tag)) }))).filter
          (fun (k : Nat × Core) => k.2 != ({} : Core))
        epochs := Tab.write {} (4 * d.part + die) (if col then { e with e1 := false } else { e with e0 := false }) s.epochs
        tags := (s.tags.map (fun (t : Nat × Tag) =>
          if (s.dieUnits d.part die).contains (t.1 / 131072) then (t.1, t.2.clearG col) else t)).filter (fun (t : Nat × Tag) => t.2 != ({} : Tag))
        arrays := s.arrays.map (fun (a : Nat × MArray) =>
          if (match a.2.claim with | some c => (s.ctxOf c).any mine | none => false) then
            (a.1, { a.2 with tags := a.2.tags.map (Tag.clearG col) }) else a)
        ctxs := s.ctxs.map (fun (e : Nat × Ctx) =>
          if mine e.2 then (e.1, { e.2 with tag0 := e.2.tag0.clearG col, tags := e.2.tags.map (fun (t : Nat × Tag) => (t.1, t.2.clearG col)) })
          else e) }
      (s1.setDie dom die col .idle))

/-! ### SNAPREL and SNAPQ (R345, R346) -/

/-- A SNAPREL starts: the allocator begins the release of the colour that holds its SSN, and the command waits for
FREE. Its result word is not stated and is free. DESIGN CHOICE, unsafe: log entry 24. -/
def State.startSnaprel (k : Nat) (c : Cmd) (s : State) : State :=
  let dom := s.domOf c.part
  let col := bit (c.w 0) 0
  let (n, s0) := s.free
  let w := BitVec.ofNat 32 n
  match s.domain dom with
  | none => s0.endCmd k codeNotDomain w
  | some d =>
    let a := d.col col
    if a.st == .free || a.ssn != c.dword 1 then s0.endCmd k codeSsnMismatch w
    else
      let s1 := (s0.modCmd k (fun y => { y with result := w })).modDomain dom (Domain.setCol col (fun y =>
        { y with releasers := NatSet.add k y.releasers }))
      if a.st == .releasing then s1
      else
        (s1.grantFirst dom col).setAlloc dom col .releasing

/-- The allocator's state as a die knows it (R345). -/
def State.heardState (s : State) (dom : Nat) (d : Domain) (die : Nat) (col : Bool) : AllocState :=
  if die = d.allocDie then (d.col col).st else Tab.read .free (colKey dom die col) s.notices

/-- Units that a die's sweep has passed. -/
def State.progress (s : State) (dom : Nat) (d : Domain) (die : Nat) (col : Bool) : Nat :=
  let k := s.dieCol dom die col
  if k.sweepTotal = 0 then 0
  else
    let left := 131072 * (s.dieUnits d.part die).length - k.sweepAt + k.chips.length
    Nat.min 255 (256 * (k.sweepTotal - left) / k.sweepTotal)

/-- A SNAPQ starts: the result word, and with WR the report of 32 bytes (R345, Table 13-12); no request gives TAG and
TGT of a colour that is FREE, so they are free values then. On a die whose CST lags, SSN, INC, BASE, TAG and TGT are those
of the allocator's present snapshot. DESIGN CHOICE, unsafe: log entry 24. -/
def State.startSnapq (k : Nat) (c : Cmd) (s : State) : State :=
  let dom := s.domOf c.part
  let col := bit (c.w 0) 0
  match s.domain dom with
  | none => s.endCmd k codeNotDomain (BitVec.ofNat 32 (2 ^ 31 + codeNotDomain))
  | some d =>
    let die := c.issueDie
    let y := s.dieCol dom die col
    let a := d.col col
    let cst := s.heardState dom d die col
    let word := fun (code : Nat) => BitVec.ofNat 32 (2 ^ 31 * ofBool (code != 0) + 2 ^ 28 * cst.code + 2 ^ 25 * y.st.code +
      2 ^ 24 * ofBool (cst != .free && a.inc) + 2 ^ 16 * s.progress dom d die col + code)
    if !bit (c.w 1) 31 then s.endCmd k 0 (word 0)
    else
      match c.ring, s.ctxOf c.ctx with
      | some _, some x =>
        let o := bits (c.w 1) 18 0
        if x.scratch < o + 32 then s.endCmd k 0xA001 (word 0xA001)
        else
          let live := cst != .free
          let (n, s0) := s.free
          let rep := leBytes 8 (if live then a.ssn else 0) ++ leBytes 8 (if live && a.inc then a.base else 0) ++
            leBytes 4 (if live then a.tag else n) ++
            leBytes 4 (cst.code + 2 ^ 8 * y.st.code + 2 ^ 16 * (if live then a.tgt else n / 2 ^ 32 % 4)) ++ leBytes 8 y.bytes
          let t := s0.writeRanges k x.core [(.window c.ctx o, rep.map (fun b => (b, false)))]
          let code := match t.cmd k with | some z => z.code | none => 0
          t.endCmd k code (word code)
      | _, _ => s.endCmd k 0 (word 0)

end Sys2Proof.Machine
end

