-- ==== Sys2Proof/Machine/Graphs.lean ====
section
/-! DEFINITION. Loaded graphs and their runs (R370-R372, R388, R389): the fields of nodes, and a node that fails. -/

namespace Sys2Proof.Machine

/-- A loaded graph of a handle. -/
def State.graph (s : State) (h : Nat) : Option Graph := Tab.find h s.graphs

/-- Changes a loaded graph. -/
def State.modGraph (h : Nat) (f : Graph → Graph) (s : State) : State := { s with graphs := Tab.update h f s.graphs }

/-- Changes the run in progress of a graph. -/
def State.modRun (h : Nat) (f : Run → Run) (s : State) : State := s.modGraph h (fun g => { g with run := g.run.map f })

/-- The variant that a run takes. -/
def Graph.variantOf (g : Graph) (v : Nat) : Variant := nthOr { fallback := none, planes := 0, ops := [] } g.variants v

/-- The nodes of a graph's run: those of the walker graph, or the operations of the run's variant (R370, R388). -/
def Graph.nodesOf (g : Graph) (r : Run) : List (List Byte) := if g.collective then (g.variantOf r.variant).ops else g.nodes

/-- A node of a run. -/
def Graph.node (g : Graph) (r : Run) (n : Nat) : List Byte := nthOr [] (g.nodesOf r) n

/-- The successors of a node: of a chunk operation up to the first 0xFFFF, of a walker node the first NSUCC. -/
def nodeSuccs (coll : Bool) (b : List Byte) : List Nat :=
  if coll then ((List.range 15).map (fun i => fieldOf b (0x22 + 2 * i) 2)).takeWhile (· != 0xFFFF)
  else (List.range (fieldOf b 0x04 1)).map (fun i => fieldOf b (0x10 + 2 * i) 2)

/-- NPRED of a node. -/
def nodePreds (b : List Byte) : Nat := fieldOf b 0x02 2

/-- KIND of a node. -/
def nodeKind (b : List Byte) : Nat := fieldOf b 0x00 1

/-- The chunk operation of a node (Table 14-7): itself, or what a walker node of kind 3 holds (Table 15-10); none for
another node. -/
def chunkOf (coll : Bool) (b : List Byte) : Option (List Byte) :=
  if coll then some b else if nodeKind b = 3 then some ((b.drop 0x20).take 32) else none

/-- Whether a node is an SWRED. -/
def isSwred (coll : Bool) (b : List Byte) : Bool := coll && nodeKind b == 3

/-- Steps of an SWRED: a contribution carries at most 192 bytes (Table 14-3). DEDUCED, unsafe: log entry 36. -/
def swredSteps (b : List Byte) : Nat := (fieldOf b 0x04 4 + 191) / 192

/-- The STEP of an SWRED node's first step: the nodes of a variant count their steps one after the other. DEDUCED,
unsafe: log entry 36. -/
def stepBase (ops : List (List Byte)) (n : Nat) : Nat :=
  ((ops.take n).filter (isSwred true)).foldl (fun a b => a + swredSteps b) 0

/-- The planes on which a variant needs a slot. -/
def Variant.slots (v : Variant) : List Nat := maskBits 64 v.planes

/-- The plane of a step of a run: the steps take the variant's planes in turn. DEDUCED, unsafe: log entry 36. -/
def Variant.planeOf (v : Variant) (step : Nat) : Option Nat :=
  match v.slots with
  | [] => none
  | ps => some (nthOr 0 ps (step % ps.length))

/-- The state of a node. -/
def Run.stateOf (r : Run) (n : Nat) : NodeState := nthOr .finished r.states n

/-- Sets the state of a node. -/
def Run.setState (n : Nat) (st : NodeState) (r : Run) : Run := { r with states := mapNth n (fun _ => st) r.states }

/-- A node completes with an error (R372). -/
def State.failNode (h n : Nat) (s : State) : State := (s.modRun h (Run.setState n .failed)).post (.chunkCompletion h n)

/-- The SWRED nodes of a run that are under way on a plane. -/
def Graph.onPlane (g : Graph) (p : Nat) : List Nat :=
  match g.run with
  | none => []
  | some r =>
    if !g.collective then []
    else
      let ops := g.nodesOf r
      (List.range ops.length).filter (fun n =>
        r.stateOf n == .running && isSwred true (nthOr [] ops n) &&
        (g.variantOf r.variant).planeOf (stepBase ops n + Tab.read 0 n r.steps) == some p)

/-- A plane is gone: the SWRED nodes whose step it carries fail (R352, R372), and a request for a slot on it is looked at
again. -/
def State.failPlane (p : Nat) (s : State) : State :=
  let s1 := (s.graphs.flatMap (fun e => (e.2.onPlane p).map (fun n => (e.1, n)))).foldl (fun t e => t.failNode e.1 e.2) s
  { s1 with agenda := s1.agenda ++ (s1.graphs.filter (fun e => e.2.run.any (·.choosing))).map (fun e => Instr.slotRetry e.1 0) }

/-- The tile operands of a walker node (Table 15-10). -/
def tilesOf (b : List Byte) : List (List Byte) :=
  (List.range (fieldOf b 0x05 1)).map (fun i => (b.drop (0x40 + 0x20 * i)).take 32)

end Sys2Proof.Machine
end

