-- ==== Sys2Proof/Machine/Port.lean ====
section
/-! DEFINITION. A port of Thamer Link (R350-R369): receiving a flit with its checks, acknowledgements and NAKs, retrain
and port down, credits, sending, key slots, and the teardown of a virtual function. -/

namespace Sys2Proof.Machine

/-! ### Lost messages (R352, R358, R367) -/

/-- What a request was for ends as lost: lanes as R197 gives, commands as R288 and R234 give, code as a marked sector,
the write of a switch reduction's result as R372 gives. -/
def State.loseUse (use : TagUse) (port tag : Nat) (s : State) : State :=
  match use with
  | .lanes c g a => s.losePart c g a port tag
  | .command k => s.loseCmdPart k port tag
  | .code core loc hold fresh =>
    if fresh then (s.takeCode core loc hold { bytes := List.replicate 32 0, mark := true }).settleCore core
    else s.settleCore core
  | .front => { s with lostCount := s.lostCount + 1 }
  | .frontRead loc => { s with lostCount := s.lostCount + 1 }.takeFront loc []
  | .chunk h n => { s with lostCount := s.lostCount + 1 }.failNode h n

/-- An outstanding request completes as lost. -/
def State.loseRequest (key : Nat) (s : State) : State :=
  match Tab.find key s.pendings with
  | none => s
  | some p => { s with pendings := Tab.drop key s.pendings }.loseUse p.use p.port (key % 4096)

/-- A request that waited for a tag is sent, waits on, or is lost where no route is left (R352, R354). -/
def State.retryUnsent (s : State) (m : Unsent) : State :=
  match s.routeOf m.part m.loc with
  | some r => s.requestOrWait r m
  | none => s.loseUse m.use 64 0

/-- Tags have come free: the requests and commands that wait for one go on (R354), and the pages show what has been
performed. -/
def State.tagsFree (s : State) : State := (s.unsent.foldl State.retryUnsent { s with unsent := [] }).pumpAll.showAll

/-- The outstanding requests that a test names complete as lost; the commands that wait for tags go on. -/
def State.loseRequests (test : Nat → Pending → Bool) (s : State) : State :=
  (((s.pendings.filter (fun e => test e.1 e.2)).map (·.1)).foldl (fun t k => t.loseRequest k) s).tagsFree

/-- The port that a waiting flit takes when its own is down: by its address, or the lowest of the set (R352). -/
def State.rerouted (s : State) (f : Flit) : Option Nat :=
  let part := (s.vf f.vf).part
  let q := match s.part part with
    | some p => ((p.record.pmap.find? (fun e => e.2 == f.dpkg)).map (·.1)).getD 0
    | none => 0
  if [1, 2, 4, 15].contains f.tk.toNat then s.portFor f.vf q (fieldIn f 0 8) else s.lowPort f.vf

/-- Whether a flit is a request, whose tag an outstanding request holds: writes, reads, atomics, barrier arrivals. -/
def isRequest (f : Flit) : Bool := [1, 2, 4, 7, 15].contains f.tk.toNat

/-- A flit that had not been sent takes another port; with none left it is lost. DESIGN CHOICE, safe: log entry 34. -/
def State.moveFlit (s : State) (f : Flit) : State :=
  let key := pendKey f.vf f.tag.toNat
  match s.rerouted f with
  | some p =>
    (if isRequest f then { s with pendings := Tab.update key (fun q => { q with via := some p }) s.pendings } else s).queueFlit p f
  | none => if isRequest f then s.loseRequest key else { s with lostCount := s.lostCount + 1 }

/-- Whether a flit waiting at a port may take another one: responses return on the plane of their request, and markers
belong to their port. -/
def movable (f : Flit) : Bool := [1, 2, 4, 7, 10, 15].contains f.tk.toNat

/-- Whether a port that goes down takes a channel of a domain's colour with it whose marker has not been taken (R341): one
that a recorded die awaits, one on which this package's own markers are still on their way, or one of a die that has not
recorded though another die's markers, here or at a peer, have named the port as in service. -/
def State.losesChannel (s : State) (p dom : Nat) (col : Bool) : Bool :=
  match s.domain dom with
  | none => false
  | some d =>
    let y := s.dieCol dom (p / 16) col
    let a := d.col col
    let own := fun (f : Flit) =>
      let m := markerIn f
      f.tk == 8 && m.domain == dom && m.colour == col && m.ssn == a.ssn
    y.due.any (fun c => match c with | .fabric _ q _ => q == p | .diePath _ _ | .host _ => false) ||
    ((s.port p).waiting ++ (s.port p).replay).any own ||
    (y.st == .idle && (s.domPorts d).contains p && (a.planes.any (fun e => e.2.getLsbD p) ||
      (s.domDies d).any (fun k => (s.dieCol dom k col).st != .idle && (s.dieCol dom k col).ssn == a.ssn)))

/-- A port that goes down is retired (R358): it leaves every port set, what its replay buffer holds and what waits for
an answer on it is lost, what was not sent takes another port, snapshots whose channels it carried fail (R341). -/
def State.portDown (p : Nat) (s : State) : State :=
  if (s.port p).down then s
  else
    let moved := (s.port p).waiting.filter movable
    let keys := (moved.filter isRequest).map (fun f => pendKey f.vf f.tag.toNat)
    let s1 := s.modPort p (fun x => { x with down := true, waiting := [], replay := [], retraining := false })
    let s2 := { s1 with vfs := s1.vfs.map (fun (e : Nat × Vf) => (e.1, { e.2 with ports := maskOf ((maskBits 64 e.2.ports).filter (· != p)) })) }
    let s3 := s2.loseRequests (fun k q => q.carrier == p && !keys.contains k)
    let s4 := moved.foldl State.moveFlit s3
    let s5 := (s.domains.flatMap (fun d => [(d.1, false), (d.1, true)])).foldl (fun t e =>
      if s.losesChannel p e.1 e.2 then t.failSnap e.1 e.2 2 else t) s4
    (s5.failPlane p).retireNotices (s.partsOnPort p) 5 p (p / 16)

/-- One event of a port (class 5); a lasting port is retired (R358). -/
def State.portEvent (p : Nat) (s : State) : State :=
  let (last, s1) := s.sourceEvents 5 p (p / 16) 1 (s.partsOnPort p) false
  if last then s1.portDown p else s1

/-! ### Receiving (R356, R360, R361) -/

/-- The counter of a flit: its low bits, and the high bits that bring it nearest to the last taken (R360). -/
def counterOf (taken : Option Nat) (low : Nat) : Nat :=
  match taken with
  | none => low
  | some t =>
    let base := t / 2 ^ 32 * 2 ^ 32 + low
    let far := fun (a : Nat) => if a < t then t - a else a - t
    let best := fun (a b : Nat) => if far b < far a then b else a
    best (best base (base + 2 ^ 32)) (if 2 ^ 32 ≤ base then base - 2 ^ 32 else base)

/-- Whether a slot takes a counter (R360). -/
def KeySlot.takes (k : KeySlot) (low : Nat) : Bool :=
  match k.taken with
  | none => low == 0
  | some t => decide (t < counterOf (some t) low)

/-- A receiving key slot. -/
def Port.rx (x : Port) (ks : Bool) : KeySlot := if ks then x.rx1 else x.rx0
/-- A sending key slot. -/
def Port.tx (x : Port) (ks : Bool) : KeySlot := if ks then x.tx1 else x.tx0
/-- Changes a receiving key slot. -/
def Port.setRx (ks : Bool) (f : KeySlot → KeySlot) (x : Port) : Port :=
  if ks then { x with rx1 := f x.rx1 } else { x with rx0 := f x.rx0 }
/-- Changes a sending key slot. -/
def Port.setTx (ks : Bool) (f : KeySlot → KeySlot) (x : Port) : Port :=
  if ks then { x with tx1 := f x.tx1 } else { x with tx0 := f x.tx0 }

/-- Virtual channels that a transport kind uses (Table 14-3). -/
def kindVcs (tk : Nat) : List Nat :=
  match tk with
  | 1 | 15 => [0, 3]
  | 2 | 4 => [0]
  | 3 | 5 => [1]
  | 6 | 7 | 10 => [2]
  | 8 | 9 => [0, 1, 2, 3]
  | 11 | 12 | 13 | 14 => [3]
  | _ => []

/-- Whether the expected flit passes the checks of R356 and R353: CRC, tag, counter, slot, and no reserved value.
PRESUMED, unsafe: log entry 10. -/
def Port.passes (x : Port) (f : Flit) : Bool :=
  f.crcOk && f.tagOk && (x.rx f.ks).valid && x.rclosed != some f.ks && (x.rx f.ks).takes f.ctrlo.toNat &&
  (if f.lk == 1 then (kindVcs f.tk.toNat).contains f.vc else (f.lk == 2 || f.lk == 3) && f.tk == 0 && f.vc < 4)

/-- Returns credits to a sender: count, pool, channel and function of a CR field (R353, R365). -/
def Port.credit (cr : Nat) (x : Port) : Port :=
  let n := bits cr 15 12
  let vc := bits cr 10 8
  if bit cr 11 then
    let k := 8 * bits cr 7 0 + vc
    { x with reservedUsed := Tab.write 0 k (Tab.read 0 k x.reservedUsed - n) x.reservedUsed }
  else { x with sharedUsed := Tab.write 0 vc (Tab.read 0 vc x.sharedUsed - n) x.sharedUsed }

/-- A received transport flit holds a slot of the input buffer: the reserved one of its function and channel where it is
free, a shared one otherwise; the slot is then to be returned. -/
def Port.hold (v vc : Nat) (x : Port) : Port :=
  let k := 8 * v + vc
  if NatSet.has k x.rxReserved then { x with owed := x.owed ++ [(v, vc)] }
  else { x with owed := x.owed ++ [(v, 8 + vc)], rxReserved := NatSet.add k x.rxReserved }

/-- A flit is taken: the next LSEQ is expected, its counter is the last taken, its credits return. -/
def Port.take (f : Flit) (x : Port) : Port :=
  let y := ({ x with expect := (x.expect + 1) % 4096, nakSent := false }.setRx f.ks (fun k =>
    { k with taken := some (counterOf k.taken f.ctrlo.toNat) })).credit f.cr.toNat
  if f.lk == 1 then y.hold f.vf f.vc else y

/-- A channel on which a torn-down function's flits are dropped: source package, port and virtual channel (R367). -/
def tornKey (p : Nat) (f : Flit) : Nat := f.spkg + 512 * (8 * p + f.vc)

/-- A flit reaches a port (R356): one that is not the expected is discarded without a NAK; the expected one that fails
a check is an event of the port and is answered with a NAK; otherwise it is taken, its slot's credit is to be returned
(R365), and it acts where its function has not been torn down. DEDUCED, unsafe: log entry 46. -/
def State.takeFlit (p : Nat) (f : Flit) (kind : Bool) (act : State → State) (s : State) : State :=
  let x := s.port p
  if x.down || !x.ren || f.lseq.toNat != x.expect then s
  else if !x.passes f then (s.modPort p (fun y => { y with nakSent := true })).portEvent p
  else
    let s1 := (s.modPort p (Port.take f)).post (.flitSend p)
    if !kind then s1
    else if s.tornDown.contains (tornKey p f, f.vf) then s1.modPort p (fun y => { y with dropped := y.dropped + 1 })
    else act s1

/-- A transport flit of a kind reaches a port. -/
def State.takeKind (p tk : Nat) (f : Flit) (act : State → State) (s : State) : State :=
  s.takeFlit p f (f.lk == 1 && f.tk.toNat == tk) act

/-- The channel on which a flit reaches a port (R332). -/
def chanOf (p : Nat) (f : Flit) : Channel := .fabric f.spkg p f.vc

/-- Logs a message that reaches a port, for the domain of a partition (R335). -/
def State.logFlit (p : Nat) (f : Flit) (part : Option Nat) (s : State) (cut : Nat := 0) : State :=
  match part with
  | some q => s.logMessage q (p / 16) (chanOf p f) p f cut
  | none => s

/-- SNAPSHOT_MARKER (R333): a posted one of a die path, or a flit that reaches a port. -/
def execSnapshotMarker (die : Nat) (chan : Channel) (f : Flit) (s : State) : Result :=
  .next (match chan with
  | .fabric _ p _ => s.takeKind p 8 f (fun t => t.takeMarker (p / 16) (chanOf p f) (markerIn f))
  | .diePath _ _ => { s with agenda := s.agenda.erase (.snapshotMarker die chan f) }.takeMarker die chan (markerIn f)
  | .host _ => s)

/-! ### Acknowledgements, NAKs, retrain (R356-R358, R361) -/

/-- The copies that an ACKSEQ frees, and those that stay. -/
def freed (seq : Nat) : List Flit → Option (List Flit × List Flit)
  | [] => none
  | f :: t =>
    if f.lseq.toNat = seq then some ([f], t)
    else (freed seq t).map (fun e => (f :: e.1, e.2))

/-- A cumulative acknowledgement: copies are freed, an acknowledged key switch clears the old slot's key, a flit sent
after the last retrain sets the retrain count to zero (R356, R358, R361). -/
def Port.ack (seq : Nat) (x : Port) : Port :=
  match freed seq x.replay with
  | none => x
  | some (out, rest) =>
    let has := fun (n : Option Nat) => match n with | some k => out.any (fun f => f.lseq.toNat == k) | none => false
    let y := { x with replay := rest, resends := x.resends.drop out.length }
    let y := if has x.fresh then { y with retrains := 0, fresh := none } else y
    if has x.switchSeq then
      ({ y with switchSeq := none, ret := false }.setTx (!x.act) (fun k => { k with key := 0, valid := false }))
    else y

/-- LINK_ACKNOWLEDGEMENT (R356). -/
def execLinkAcknowledgement (port : Nat) (ackSeq : BitVec 12) (s : State) : Result :=
  .next ((s.modPort port (Port.ack ackSeq.toNat)).post (.flitSend port))

/-- Every flit of the replay buffer is sent again, and counts it (R356, R358). -/
def Port.resend (x : Port) : Port :=
  { x with resends := (List.range x.replay.length).map (fun i => nthOr 0 x.resends i + 1) }

/-- Resends of one flit before a retrain, and retrains before the port is down (Table 14-1). -/
def resendLimit : Nat := 8
def retrainLimit : Nat := 3

/-- Whether some flit has been sent again as often as it may be before a retrain: the count belongs to its LSEQ (R358).
-/
def Port.wornOut (x : Port) : Bool := x.resends.any (fun n => resendLimit ≤ n)

/-- LINK_NAK (R356-R358): copies up to ACKSEQ are freed and every later one is sent again, bit-identical; past the
limit of resends the port retrains. The flit that failed at the far end is one event of the port of its hop. DEDUCED,
unsafe: log entry 29. DEDUCED, unsafe: log entry 46. -/
def execLinkNak (port : Nat) (ackSeq : BitVec 12) (s : State) : Result :=
  let u := s.modPort port (Port.ack ackSeq.toNat)
  let t := if (u.port port).replay = [] || (u.port port).down then u else u.portEvent port
  .next (if (t.port port).replay = [] || (t.port port).down then t
  else if (t.port port).wornOut then t.post (.retrain port)
  else t.modPort port Port.resend)

/-- RETRAIN (R358): the lane retrains, or after the limit of retrains the port is down. -/
def execRetrain (port : Nat) (s : State) : Result :=
  let x := s.port port
  .next (if x.down || x.retraining || x.replay = [] || !x.wornOut then s
  else if retrainLimit ≤ x.retrains then s.portDown port
  else (s.modPort port (fun y => { y with retraining := true, retrains := y.retrains + 1 })).post (.retrainComplete port))

/-- RETRAIN_COMPLETE (R358): sending resumes after ACKSEQ, with sequence and key state as they were. DEDUCED, unsafe:
log entry 29. -/
def execRetrainComplete (port : Nat) (s : State) : Result :=
  .next (if (s.port port).retraining then
    (s.modPort port (fun x =>
      { x with retraining := false, resends := [], fresh := some (match x.replay with | f :: _ => f.lseq.toNat | [] => x.seq) })).post
      (.flitSend port)
  else s)

/-! ### Key switch and credits (R361, R365) -/

/-- KEY_SWITCH (R361): the receiver takes the switch flit, and from then on only the new slot. -/
def execKeySwitch (port : Nat) (f : Flit) (s : State) : Result :=
  let next := bit (fieldIn f 0 1) 0
  let t := s.takeFlit port f false id
  .next (if (t.port port).expect = (s.port port).expect || f.lk != 2 then t
  else t.modPort port (fun x => { x with ract := next, rclosed := some (!next) }))

/-- CREDIT (R365): a credit flit returns up to 112 entries. -/
def execCredit (port : Nat) (f : Flit) (s : State) : Result :=
  let t := s.takeFlit port f false id
  .next (if (t.port port).expect = (s.port port).expect || f.lk != 3 then t
  else ((List.range 112).foldl (fun u i => u.modPort port (Port.credit (fieldIn f (2 * i) 2))) t).post (.flitSend port))

/-- The counter at which a direction stops for want of a key (R361). -/
def counterStop : Nat := 0xFFFFFFFF00000000

/-- Whether the sender must first switch keys, or set KREQ: the active slot's counter is at or above THR, or where a
direction stops (R361). -/
def Port.atThreshold (x : Port) : Bool := x.thr ≤ (x.tx x.act).count || counterStop ≤ (x.tx x.act).count

/-- Whether the other slot can be switched to. -/
def Port.canSwitch (x : Port) : Bool := (x.tx (!x.act)).valid && !x.ret

/-- Whether a direction may send a key-switch flit: it is enabled, up, not in a retrain, has replay room and a key. -/
def Port.mayPush (x : Port) : Bool :=
  x.en && !x.down && !x.retraining && x.replay.length < 512 && (x.tx x.act).valid

/-- Whether a direction may send any other flit now: its counter has not reached its end either (R361). -/
def Port.maySend (x : Port) : Bool := x.mayPush && (x.tx x.act).count < counterStop

/-- Gives a flit its link fields and puts it into the replay buffer (R353, R356, R360). DESIGN CHOICE, safe: log entry
59. -/
def Port.push (f : Flit) (x : Port) : Port :=
  let g := { f with lseq := BitVec.ofNat 12 x.seq, ks := x.act, ctrlo := BitVec.ofNat 32 (x.tx x.act).count }
  { x with seq := (x.seq + 1) % 4096, replay := x.replay ++ [g] }.setTx x.act (fun k => { k with count := k.count + 1 })

/-- KEY_SWITCH_SEND (R361): before a new flit the sender switches to the other slot by a switch flit under the active
one, or sets KREQ where no slot can be switched to. -/
def execKeySwitchSend (port : Nat) (s : State) : Result :=
  let x := s.port port
  .next (if !x.atThreshold || !x.en || x.down then s
  else if x.canSwitch then
    if x.mayPush then
      (s.modPort port (fun y =>
        let z := y.push { lk := 2, payload := [BitVec.ofNat 8 (ofBool (!y.act))] }
        { z with act := !y.act, ret := true, switchSeq := some y.seq })).post (.flitSend port)
    else s
  else (s.modPort port (fun y => { y with kreq := true })).post (.flitSend port))

/-! ### Sending (R351, R363, R365, R366) -/

/-- Whether a flit is a response or an acknowledgement. -/
def isReply (f : Flit) : Bool := f.tk == 3 || f.tk == 5 || f.tk == 6

/-- The credit that a flit may take: a reserved one of its function and channel, else a shared one of its channel. -/
def Port.creditFor (x : Port) (v vc : Nat) : Option Bool :=
  if Tab.read 0 (8 * v + vc) x.reservedUsed < 1 then some true
  else if Tab.read 0 vc x.sharedUsed < Config.sharedCredits vc then some false
  else none

/-- Reads and atomics of a function that hold reply reservations at a port (Table 14-1: 32). -/
def State.replies (s : State) (v p : Nat) : Nat :=
  (s.pendings.filter (fun e => e.1 / 4096 == v && e.2.carrier == p && e.2.sent && (e.2.kind == 2 || e.2.kind == 4))).length

/-- Whether a flit is a marker: no flit of its virtual channel passes it, and it passes none (R330, R351, R369). -/
def isMarker (f : Flit) : Bool := f.tk == 8 || f.tk == 9

/-- The queue of a function at a port in which a flit waits (R364): lane accesses, copy commands, collective chunks;
replies have none. -/
def queueOf (f : Flit) : Nat :=
  if isReply f then 3 else if f.vc == 3 || f.tk == 10 then 2 else if f.engine then 1 else 0

/-- Whether a flit must leave a port before a later one: a queue keeps its order on a virtual channel, and markers keep
it for all (R351). -/
def leavesFirst (g f : Flit) : Bool :=
  g.vc == f.vc && ((g.vf == f.vf && queueOf g == queueOf f) || isMarker g || isMarker f)

/-- The flits that no earlier one of a port's must leave before. DESIGN CHOICE, safe: log entry 34. -/
def inOrder : List Flit → List Flit → List Flit
  | _, [] => []
  | earlier, f :: t => if earlier.any (fun g => leavesFirst g f) then inOrder (earlier ++ [f]) t else f :: inOrder (earlier ++ [f]) t

/-- Whether a waiting flit may be sent now. -/
def State.sendable (s : State) (p : Nat) (f : Flit) : Bool :=
  ((s.port p).creditFor f.vf f.vc).isSome && (!(f.tk == 2 || f.tk == 4) || s.replies f.vf p < 32)

/-- The visits of the deficit round robin to the functions with a sendable request, from one on (R374, R366): which is
served, and the deficits then. n bounds the visits. DESIGN CHOICE, safe: log entry 35. -/
def visitFrom (weight : Nat → Nat) (vs : List Nat) : Nat → Nat → Tab Nat → Option (Nat × Tab Nat)
  | 0, _, _ => none
  | n + 1, v, ds =>
    match (vs.filter (fun k => v ≤ k)) ++ vs with
    | [] => none
    | k :: _ =>
      let d := Tab.read 0 k ds + weight k
      if 256 ≤ d then some (k, Tab.write 0 k (d - 256) ds) else visitFrom weight vs n (k + 1) (Tab.write 0 k d ds)

/-- The function that the round robin serves next: the one of the last visit while its deficit covers a flit, else the
next that is visited. -/
def drr (weight : Nat → Nat) (vs : List Nat) (v : Nat) (ds : Tab Nat) : Option (Nat × Tab Nat) :=
  let d := Tab.read 0 v ds
  if vs.contains v && 256 ≤ d then some (v, Tab.write 0 v (d - 256) ds)
  else visitFrom weight vs (257 * vs.length) (v + 1) ds

/-- The flit that a port sends next: a response before any request; a marker; else the round robin serves a function, and
of its queues the one whose first flit has waited longest. DESIGN CHOICE, safe: log entry 34. -/
def State.nextFlit (s : State) (p : Nat) : Option (Flit × Port) :=
  let x := s.port p
  let ok := (inOrder [] x.waiting).filter (s.sendable p)
  match (ok.find? isReply).orElse (fun _ => ok.find? isMarker) with
  | some f => some (f, x)
  | none =>
    let vs := (ok.foldl (fun (t : NatSet) f => NatSet.add f.vf t) [])
    match drr (fun v => (s.vf v).weight) vs (Tab.read 0 p s.visits) x.deficits with
    | none => none
    | some (v, ds) =>
      let left := (x.waiting.filter (fun f => f.vf == v && !isReply f && !isMarker f)).length
      (ok.find? (fun f => f.vf == v)).map (fun f => (f, { x with deficits := if left ≤ 1 then Tab.drop v ds else ds }))

/-- The CR field that returns the oldest owed slot, and the port without it. -/
def Port.payCredit (x : Port) : Nat × Port :=
  match x.owed with
  | [] => (0, x)
  | (v, k) :: t =>
    (2 ^ 12 + 2 ^ 11 * (k / 8) + 2 ^ 8 * (k % 8) + v % 256,
      { x with owed := t, rxReserved := if k / 8 = 1 then NatSet.drop (8 * v + k % 8) x.rxReserved else x.rxReserved })

/-- What a Spire does with a flit of the reduction slots that a port sends to it. -/
def spireOf (p : Nat) (f : Flit) : List Instr :=
  match f.tk.toNat with
  | 11 => [.slotRequest p f]
  | 13 => [.slotRelease p f]
  | 14 => [.contribution p f]
  | _ => []

/-- A flit leaves a port (R363): into the replay buffer, with its credit and its credit return; a command whose writes
have all left goes on. -/
def State.sendFlit (p : Nat) (f : Flit) (x : Port) (s : State) : State :=
  let pool := (x.creditFor f.vf f.vc).getD true
  let x1 := { x with waiting := x.waiting.erase f,
                     reservedUsed := if pool then Tab.write 0 (8 * f.vf + f.vc) (Tab.read 0 (8 * f.vf + f.vc) x.reservedUsed + 1) x.reservedUsed else x.reservedUsed,
                     sharedUsed := if pool then x.sharedUsed else Tab.write 0 f.vc (Tab.read 0 f.vc x.sharedUsed + 1) x.sharedUsed }
  let (cr, x2) := x1.payCredit
  let key := pendKey f.vf f.tag.toNat
  let mine := isRequest f && (Tab.find key s.pendings).isSome
  let s1 := (s.modPort p (fun _ => x2.push { f with cr := BitVec.ofNat 16 cr }))
  let s2 := if mine then { s1 with pendings := Tab.update key (fun q => { q with sent := true }) s1.pendings } else s1
  let s3 := { s2 with agenda := s2.agenda ++ spireOf p f,
                      visits := if isReply f || isMarker f then s2.visits else Tab.write 0 p f.vf s2.visits }
  match (if mine then Tab.find key s.pendings else none) with
  | some q => match q.use with | .command k => s3.post (.commandCompletion k) | _ => s3
  | none => s3

/-- Entries of a credit flit (R365). -/
def creditEntries : Nat := 112

/-- A credit flit returns the oldest slots that a port owes (R365). DESIGN CHOICE, safe: log entry 34. -/
def Port.sendCredits (x : Port) : Port :=
  let (cs, y) := (List.range (Nat.min creditEntries x.owed.length)).foldl (fun (acc : List Nat × Port) _ =>
    let (cr, z) := acc.2.payCredit; (acc.1 ++ [cr], z)) ([], x)
  y.push { lk := 3, payload := cs.flatMap (leBytes 2) }

/-- FLIT_SEND (R351, R365, R366): the next waiting flit that has a credit, and for a read or atomic a reply reservation,
is sent; a key switch comes first. A port that can send none and owes credits returns them by a credit flit. -/
def execFlitSend (port : Nat) (s : State) : Result :=
  let x := s.port port
  .next (if !x.mayPush || (x.waiting = [] && x.owed = []) then s
  else if x.atThreshold && (x.canSwitch || !x.kreq) then s.post (.keySwitchSend port)
  else if !x.maySend then s
  else
    match s.nextFlit port with
    | none => if x.owed = [] then s else s.modPort port Port.sendCredits
    | some (f, y) =>
      let t := s.sendFlit port f y
      if (t.port port).waiting = [] then t else t.post (.flitSend port))

/-! ### Teardown of a virtual function (R367, R368, R411) -/

/-- The page of a function after reset: its identity and LIVE (Table 15-3). -/
def State.freshPage (s : State) (vf part : Nat) (live : Bool) : Memory :=
  Memory.putBytes 0x230 (leBytes 8 ((Tab.read {} part s.stored.audit : Audit).rseq))
    (Memory.putBytes 4 (leBytes 4 vf ++ leBytes 4 part ++ leBytes 4 (ofBool live)) [])

/-- The chains of a function are disabled, with HEAD, TAIL and CSEQ zero, and no enable of one still waits. -/
def State.dropChains (vf : Nat) (s : State) : State :=
  { s with agenda := s.agenda.filter (fun i => match i with | .chainEnable v _ => v != vf | _ => true),
           chains := s.chains.map (fun (e : Nat × Chain) =>
      if e.1 / 4 == vf then (e.1, { first := e.2.head, head := e.2.head, cseq := e.2.head }) else e) }

/-- Step 1 of the teardown: issue stops, and VSTAT shows QUAR. -/
def State.beginTeardown (vf : Nat) (flr : Bool) (s : State) : State :=
  if (s.vf vf).st != .live then s
  else
    ((s.modVf vf (fun v => { v with st := .tearing (s.cycle 0), acks := [], flr := flr })).setPage vf 0x00C 4 2).post
      (.teardownWaitExpiry vf)

/-- VF_TEARDOWN (R367). -/
def execVfTeardown (vf : Nat) (s : State) : Result := .next (s.beginTeardown vf false)

/-- VF_FUNCTION_LEVEL_RESET (R411): the teardown, then the page as after reset, with its chains disabled. -/
def execVfFunctionLevelReset (vf : Nat) (s : State) : Result :=
  let t := (s.dropChains vf).beginTeardown vf true
  .next (if (t.vf vf).st == .unassigned || !(t.part (t.vf vf).part).any (fun p => p.record.vfs.any (·.vf == vf)) then t else t.modVf vf (fun v => { v with flr := true }))

/-- The packages whose acknowledgements a teardown awaits: the others of the partition's package map. DEDUCED, unsafe:
log entry 33. -/
def State.ackPackages (s : State) (part : Nat) : List Nat :=
  match s.part part with | some p => ((p.record.pmap.map (·.2)).filter (· != s.podPos)).eraseDups | none => []

/-- The quarantine ends once every package has acknowledged every port's marker; after a function-level reset the
function is live again with a fresh page, otherwise its id is free (R367 step 6, R411). DEDUCED, unsafe: log entry 33.
-/
def State.tryRelease (vf : Nat) (s : State) : State :=
  let v := s.vf vf
  let t := s.dropChains vf
  if v.st == .quarantined && (s.ackPackages v.part).all (fun q => (maskBits 64 v.ports).length ≤ (v.acks.filter (· == q)).length)
  then
    t.modVf vf (fun x =>
      if x.flr then { x with st := .live, page := s.freshPage vf x.part true, acks := [], flr := false, nextTag := 0, tail := 0, ended := none }
      else { x with st := .unassigned, page := [], acks := [], ports := 0, tail := 0, ended := none })
  else s

/-- Markers of a teardown on every port of the set and virtual channels 0 to 3. DEDUCED, unsafe: log entry 33. -/
def State.teardownMarkers (vf : Nat) (s : State) : State :=
  (maskBits 64 (s.vf vf).ports).foldl (fun t p => markerVcs.foldl (fun u vc =>
    u.queueFlit p { spkg := s.podPos, dpkg := s.podPos, vf := vf, vc := vc, tk := 9,
                    payload := leBytes 1 vf ++ leBytes 1 0 ++ leBytes 2 s.podPos }) t) s

/-- Frees the reduction slots of which a function of a package is a member, once it is torn down (R367, R375). -/
def State.freeSlotsOf (pod vf : Nat) (s : State) : State :=
  { s with spires := s.spires.map (fun (e : Nat × List SlotUse) => (e.1, e.2.filter (fun u =>
      !u.members.any (fun m => m.2 == pod && Tab.find m.1 u.vfs == some vf)))) }

/-- What a torn-down function's runs still wait for at the fabric ends: its ready chunks and its switch reductions fail,
and a run that chooses its variant looks again (R367, R372). -/
def State.failChunks (vf : Nat) (s : State) : State :=
  let part := (s.vf vf).part
  let mine := if s.vfOf part == some vf then s.graphs.filter (fun e => e.2.part == part) else []
  let busy := mine.flatMap (fun e => match e.2.run with
    | some r => ((List.range r.states.length).filter (fun n =>
        r.stateOf n == .running && isSwred e.2.collective (e.2.node r n))).map (fun n => (e.1, n))
    | none => [])
  let t := (Tab.read [] vf s.chunks ++ busy).foldl (fun u e => u.failNode e.1 e.2) { s with chunks := Tab.drop vf s.chunks }
  { t with agenda := t.agenda ++ (mine.filter (fun e => e.2.run.any (·.choosing))).map (fun e => Instr.slotRetry e.1 0) }

/-- TEARDOWN_WAIT_EXPIRY (R367 steps 2 to 5): once the bound has passed or nothing is outstanding, what is outstanding
is lost, reservations, credits and slots are released, and the markers go out. -/
def execTeardownWaitExpiry (vf : Nat) (s : State) : Result :=
  .next (match (s.vf vf).st with
  | .tearing since =>
    if since + 2 ^ 24 ≤ s.cycle 0 || s.outOf vf = 0 then
      let s1 := s.loseRequests (fun k _ => k / 4096 == vf)
      let s2 := { s1 with
        ports := s1.ports.map (fun (e : Nat × Port) => (e.1,
          { e.2 with waiting := e.2.waiting.filter (fun f => f.vf != vf || isReply f || isMarker f),
                     reservedUsed := e.2.reservedUsed.filter (fun r => r.1 / 8 != vf),
                     deficits := Tab.drop vf e.2.deficits })) }
      ((((s2.freeSlotsOf s2.podPos vf).failChunks vf).teardownMarkers vf).modVf vf (fun v =>
        { v with st := .quarantined })).tryRelease vf
    else s
  | _ => s)

/-- TEARDOWN_MARKER (R367): later flits of the function are dropped, the slots of which it is a member are free, and the
marker of channel 0 is acknowledged. DEDUCED, unsafe: log entry 33. -/
def execTeardownMarker (port : Nat) (f : Flit) (s : State) : Result :=
  .next (s.takeFlit port f (f.lk == 1 && f.tk == 9 && fieldIn f 1 1 == 0) (fun t =>
    let v := fieldIn f 0 1
    let t1 := { t with tornDown := t.tornDown ++ [(tornKey port f, v)] }.freeSlotsOf f.spkg v
    if f.vc = 0 then
      let ack : Flit := { spkg := t1.podPos, dpkg := f.spkg, vf := v, vc := 2, tk := 9,
                          payload := leBytes 1 v ++ leBytes 1 1 ++ leBytes 2 (fieldIn f 2 2) }
      t1.queueFlit ((t1.lowPort v).getD port) ack
    else t1))

/-- TEARDOWN_ACKNOWLEDGEMENT (R367 step 6). DEDUCED, unsafe: log entry 33. -/
def execTeardownAcknowledgement (port : Nat) (f : Flit) (s : State) : Result :=
  .next (s.takeFlit port f (f.lk == 1 && f.tk == 9 && fieldIn f 1 1 == 1) (fun t =>
    (t.modVf (fieldIn f 0 1) (fun v => { v with acks := v.acks ++ [f.spkg] })).tryRelease (fieldIn f 0 1)))

end Sys2Proof.Machine
end

