-- ==== Sys2Proof/Machine/Remote.lean ====
section
/-! DEFINITION. Requests of peers served at their home, and the answers that requests of this package receive (R184,
R197, R204, R205, R287, R354, R355, R363, R368). -/

namespace Sys2Proof.Machine

/-! ### At the home (R355) -/

/-- An answer to a request, on the plane that carried it (R352, R354). -/
def State.reply (p : Nat) (f : Flit) (tk vc : Nat) (payload : List Byte) (s : State) : State :=
  s.queueFlit p { spkg := s.podPos, dpkg := f.spkg, vf := f.vf, vc := vc, tk := BitVec.ofNat 4 tk, tag := f.tag,
                  payload := payload }

/-- Whether the home's checks refuse a request (STATUS 0x02): an address beyond 39 bits or in no partition's memory, or
a length outside 1 to 208. -/
def State.homeRefuses (s : State) (addr n : Nat) : Bool :=
  2 ^ 39 ≤ addr || n == 0 || 208 < n || (s.ownerOf addr).isNone

/-- Data of a flit with the marks of its PM byte. -/
def markedData (f : Flit) (off n pm : Nat) : List (Byte × Bool) :=
  (List.range n).map (fun i => (nthOr 0 f.payload (off + i), bit pm (i / 32)))

/-- A refused write meets a live barrier word: one of an engine forces the phase, one of a lane does not (R204, R205).
DESIGN CHOICE, safe: log entry 77. -/
def State.refuseWrite (engine : Bool) (addr n : Nat) (s : State) : State :=
  if engine then (s.barrierAt (.loc addr) n).elim s (fun m => s.forceMet m) else s

/-- Applies a write, or with a ROP a reduce write, of marked bytes at the home; the STATUS comes back. engine: an engine
sent it. -/
def State.homeWrite (engine : Bool) (addr : Nat) (rop : Option Nat) (bs : List (Byte × Bool)) (s : State) : Nat × State :=
  if s.homeRefuses addr bs.length then (2, s)
  else if (s.barrierAt (.loc addr) bs.length).isSome then (1, s.refuseWrite engine addr bs.length)
  else
    match rop with
    | some r => (0, s.reduceAt (160 * homeDie addr) r (.loc addr, bs))
    | none => (0, s.writeDram [{ at_ := addr, bytes := bs.map (·.1) }] (poisonedUnits 32 addr bs))

/-- WRITE (R355). -/
def State.serveWrite (port : Nat) (f : Flit) (t : State) : State :=
    let addr := fieldIn f 0 8
    let t1 := t.logFlit port f (t.ownerOf addr)
    let (st, t2) := t1.homeWrite (f.engine || f.vc == 3) addr none (markedData f 16 (fieldIn f 8 2) (fieldIn f 10 1))
    t2.reply port f 6 2 (leBytes 8 st)
/-- WRITE (R355). -/
def execWrite (port : Nat) (f : Flit) (s : State) : Result := .next (s.takeKind port 1 f (State.serveWrite port f))

/-- REDUCE_WRITE (R355, R293). -/
def State.serveReduce (port : Nat) (f : Flit) (t : State) : State :=
    let addr := fieldIn f 0 8
    let t1 := t.logFlit port f (t.ownerOf addr)
    let (st, t2) := t1.homeWrite true addr (some (fieldIn f 11 1)) (markedData f 16 (fieldIn f 8 2) (fieldIn f 10 1))
    t2.reply port f 6 2 (leBytes 8 st)
/-- REDUCE_WRITE (R355, R293). -/
def execReduceWrite (port : Nat) (f : Flit) (s : State) : Result := .next (s.takeKind port 15 f (State.serveReduce port f))

/-- The PM byte of bytes read from a sector boundary on. -/
def State.readMarks (s : State) (addr n : Nat) : Nat :=
  maskOf ((List.range ((n + 31) / 32)).filter (fun i => NatSet.has (sectorOf addr + i) s.dramMarks))

/-- READ_REQUEST (R354): the bytes, and a mark for each poisoned sector; a read that the home cannot make is answered with
poisoned zeros. DESIGN CHOICE, unsafe: log entry 78. -/
def State.serveRead (port : Nat) (f : Flit) (t : State) : State :=
    let addr := fieldIn f 0 8
    let n := fieldIn f 8 2
    let t1 := t.logFlit port f (t.ownerOf addr)
    if t1.homeRefuses addr n then t1.reply port f 3 1 (readPayload 3 (Nat.min n 208) 127 (List.replicate (Nat.min n 208) 0))
    else
      let pm := t1.readMarks addr n
      t1.reply port f 3 1 (readPayload (if pm = 0 then 0 else 3) n pm (t1.dram.bytes addr n))
/-- READ_REQUEST (R354). -/
def execReadRequest (port : Nat) (f : Flit) (s : State) : Result := .next (s.takeKind port 2 f (State.serveRead port f))

/-- ATOMIC (R190, R355): performed once at the home, and answered with the old value; one that the home cannot make is
answered with a poisoned zero. DESIGN CHOICE, unsafe: log entry 78. -/
def State.serveAtomic (port : Nat) (f : Flit) (t : State) : State :=
    let addr := fieldIn f 0 8
    let n := fieldIn f 12 1
    let t1 := t.logFlit port f (t.ownerOf addr)
    if t1.homeRefuses addr n || !(n == 4 || n == 8) || addr % n != 0 then t1.reply port f 5 1 (atomicReply 3 0 1)
    else if (t1.barrierAt (.loc addr) n).isSome then t1.reply port f 5 1 (atomicReply 1 0 0)
    else
      let old := t1.dramNat addr n
      let marked := t1.homeMark addr
      let p := fieldIn f 14 1 != 0
      let opnd := fieldIn f 0x10 8
      let out := if bit (fieldIn f 13 1) 0 then casAt old marked (fieldIn f 0x18 8) opnd p
        else atomAt (fieldIn f 8 4) n old marked opnd p
      let t2 := match out.write with
        | some (v, q) => t1.writeDram [{ at_ := addr, bytes := leBytes n v }] (if q then [sectorOf addr] else [])
        | none => t1
      t2.reply port f 5 1 (atomicReply (if out.oldP then 3 else 0) out.old (ofBool out.oldP))
/-- ATOMIC (R190, R355). -/
def execAtomic (port : Nat) (f : Flit) (s : State) : Result := .next (s.takeKind port 4 f (State.serveAtomic port f))

/-- BARRIER_ARRIVAL (R287, R354): an arrival of an engine on a named barrier, in the core or in a held image; one that
names no barrier is refused. The L1 of the barrier's core, and what its die holds of package memory, lose the lines that
the copy has written, which the flit does not name, with every other (R44 item 5). -/
def State.serveArrival (port : Nat) (f : Flit) (t : State) : State :=
    let c := fieldIn f 0 4
    let b := fieldIn f 4 1
    match t.ctxOf c with
    | some x =>
      let t1 := t.logFlit port f (some x.part)
      if x.takesCompletions && b < x.nbar then
        (((t1.acquire x.core 3).arriveNamed c b none (fieldIn f 5 1 != 0)).askRetire c).reply port f 6 2 (leBytes 8 0)
      else t1.reply port f 6 2 (leBytes 8 2)
    | none => t.reply port f 6 2 (leBytes 8 2)
/-- BARRIER_ARRIVAL (R287, R354). -/
def execBarrierArrival (port : Nat) (f : Flit) (s : State) : Result := .next (s.takeKind port 7 f (State.serveArrival port f))

/-! ### Answers (R354, R363, R368) -/

/-- An answer finds the request that its function and tag name; one that finds none is dropped and counted (R367). -/
def State.answered (p : Nat) (f : Flit) (kinds : List Nat) (act : Pending → State → State) (s : State) : State :=
  let key := pendKey f.vf f.tag.toNat
  match Tab.find key s.pendings with
  | none =>
    let s1 := s.modPort p (fun x => { x with dropped := x.dropped + 1 })
    { s1.modPart (s1.vf f.vf).part (fun x => { x with lateReplies := x.lateReplies + 1 }) with discards := s1.discards + 1 }
  | some q =>
    if kinds.contains q.kind then
      (act q ({ s with pendings := Tab.drop key s.pendings }.logFlit p f (some (s.vf f.vf).part) q.cut)).tagsFree
    else { s with discards := s.discards + 1 }

/-- What a lane takes of a read response: n bytes from an offset, and the mark of their sector. -/
def laneOf (f : Flit) (n lane off : Nat) : LaneResult :=
  { lane := lane, value := ofLeBytes (dataIn f (16 + off) n), p := bit (fieldIn f 10 1) (off / 32) }

/-- The caches that may hold what a load's part brings: whole sectors, where the page and no discard since keep them out
(R172, R184). -/
def State.fillPart (core : Nat) (a : Access) (r : RemotePart) (f : Flit) (s : State) : State :=
  (List.range (r.len / 32)).foldl (fun t i =>
    let x : Sector := { bytes := dataIn f (16 + 32 * i) 32, mark := bit (fieldIn f 10 1) i }
    let loc := r.addr + 32 * i
    if a.const then
      if r.cache = 2 then t else t.modCore core (fun c => { c with consts := Tab.set (sectorOf loc) x c.consts })
    else t.fillSector core loc r.cache x) s

/-- A command's request refused with STATUS 0x02: the home's code is its completion's (R354). -/
def Cmd.refused (c : Cmd) : Cmd := if c.err then c else c.fail (if c.eng = 2 then codeHomeRefused else codeRemoteWriteLost)

/-- READ_RESPONSE (R354): data and marks reach the lanes, the command, or the constant cache that asked. -/
def State.serveData (port : Nat) (f : Flit) (t : State) : State :=
  t.answered port f [2] (fun q u =>
    let tag := f.tag.toNat
    let bad := fieldIn f 0 8 == 2
    match q.use with
    | .lanes c g k =>
      match u.partOf c g k q.port tag with
      | none => u
      | some (a, r) =>
        if bad then u.losePart c g k q.port tag
        else
          let u1 := u.fillPart ((u.ctxOf c).getD {}).core a r f
          u1.answerPart c g k q.port tag (r.lanes.map (fun e => laneOf f a.size e.1 e.2)) false false
    | .command k =>
      if bad then (if (u.cmd k).any (·.eng == 2) then
          u.answerCmd k q.port tag true (fun r y => (y.putBuf r.off r.lost).refused) else u.loseCmdPart k q.port tag)
      else u.answerCmd k q.port tag false (fun r y =>
        let skip := (r.lanes.map (·.2)).foldl Nat.max 0
        y.putBuf r.off ((markedData f 16 r.len (fieldIn f 10 1)).drop skip))
    | .code core loc hold fresh =>
      let x : Sector := if bad then { bytes := List.replicate 32 0, mark := true }
        else { bytes := dataIn f 16 32, mark := bit (fieldIn f 10 1) 0 }
      (if fresh then u.takeCode core loc hold x else u).settleCore core
    | .frontRead loc => u.takeFront loc (if bad then [] else dataIn f 16 32)
    | .chunk _ _ | .front => u)
/-- READ_RESPONSE (R354). -/
def execReadResponse (port : Nat) (f : Flit) (s : State) : Result := .next (s.takeKind port 3 f (State.serveData port f))

/-- What a load or atomic of a gang receives of a sys port is a message of the host's on its channel (R336): it is logged
while that is open. DEDUCED, safe: log entry 44. -/
def State.logSys (c g k : Nat) (s : State) : State :=
  match s.ctxOf c with
  | none => s
  | some x =>
    match Tab.find k (x.gang g).accesses, s.vfOf x.part with
    | some a, some v =>
      let bs := a.results.flatMap (fun r => leBytes a.size r.value)
      if a.home && a.sys && a.kind.loads then
        s.logMessage x.part 0 (.host v) 0 { tk := 3, vf := v, payload := readPayload 0 bs.length 0 bs }
      else s
    | _, _ => s

/-- LOAD_COMPLETION (R69): a load's data arrives. DESIGN CHOICE, unsafe: log entry 9. -/
def execLoadCompletion (ctx gang access : Nat) (s : State) : Result :=
  .next ((s.logSys ctx gang access).homeDone ctx gang access AccKind.loads)

/-- ATOMIC_RESPONSE (R354, R204): the old value reaches the lane; a refusal at a live barrier word is a lost write. -/
def State.serveOld (port : Nat) (f : Flit) (t : State) : State :=
  t.answered port f [4] (fun q u =>
    let st := fieldIn f 0 8
    match q.use with
    | .lanes c g k =>
      match u.partOf c g k q.port f.tag.toNat with
      | none => u
      | some (a, r) =>
        if st = 1 || st = 2 then
          u.answerPart c g k q.port f.tag.toNat (if a.silent then [] else r.lanes.map (fun e => ({ lane := e.1, value := 0, p := true } : LaneResult)))
            true (st == 1)
        else
          u.answerPart c g k q.port f.tag.toNat
            (r.lanes.map (fun e => ({ lane := e.1, value := fieldIn f 8 8 % 2 ^ (8 * a.size), p := fieldIn f 16 1 != 0 } : LaneResult)))
            false false
    | .command _ | .chunk _ _ | .code _ _ _ _ | .front | .frontRead _ => u)
/-- ATOMIC_RESPONSE (R354, R204). -/
def execAtomicResponse (port : Nat) (f : Flit) (s : State) : Result := .next (s.takeKind port 5 f (State.serveOld port f))

/-- WRITE_ACKNOWLEDGEMENT (R355, R363): the remote completion of a write, a reduce write or a barrier arrival. A refusal
at a live barrier word is the clobber cause for a lane and BARRIER_OVERLAP for a command, which then stops. -/
def State.serveAck (port : Nat) (f : Flit) (t : State) : State :=
  t.answered port f [1, 7, 15] (fun q u =>
    let st := fieldIn f 0 8
    match q.use with
    | .lanes c g k => u.answerPart c g k q.port f.tag.toNat [] (st != 0) (st == 1)
    | .command k =>
      u.answerCmd k q.port f.tag.toNat false (fun _ y =>
        if st = 1 then { y.fail codeBarrierOverlap with toRead := [], toWrite := [] } else if st = 2 then y.refused else y)
    | .chunk h n => if st = 0 then u.post (.chunkCompletion h n) else u.failNode h n
    | .code _ _ _ _ | .front | .frontRead _ => u)
/-- WRITE_ACKNOWLEDGEMENT (R355, R363). -/
def execWriteAcknowledgement (port : Nat) (f : Flit) (s : State) : Result := .next (s.takeKind port 6 f (State.serveAck port f))

end Sys2Proof.Machine
end

