-- ==== Sys2Proof/Machine/Collective.lean ====
section
/-! DEFINITION. The collective engine and the runs of graphs (R370-R379, R389-R391): CGRUN and GRUN, ready nodes, chunks
and their dispatch, switch reductions, decrements, and the slots of the Spires. -/

namespace Sys2Proof.Machine

/-! ### Issue (R378) -/

/-- The tables of CGRUN and GRUN. -/
def runBad (coll : Bool) (ws : List Nat) : List (Nat × Bool) :=
  let w := fun k => nthOr 0 ws k
  [(0, bits (w 0) 7 0 != 0), (2, bits (w 2) 31 19 != 0 || w 2 % 8 != 0), (3, bits (w 3) 31 8 != 0),
   (4, if coll then bits (w 4) 31 3 != 0 || (4 ≤ w 4 && w 4 ≤ 6) else w 4 != 0)] ++ zeroFrom 5 ws

/-- What CGRUN (0) and GRUN (1) fix. -/
def runSpec (op : Nat) : EngSpec := { eng := 5, op := op, flagKind := false, check := tableCheck (runBad (op == 0)) }

/-- CGRUN (R379). -/
def execCgrun (l : Bool) (d a : BitVec 8) (b : BitVec 5) (s : State) : Result := .next (s.issueEngine (runSpec 0) l d a b)
/-- GRUN (R379). -/
def execGrun (l : Bool) (d a : BitVec 8) (b : BitVec 5) (s : State) : Result := .next (s.issueEngine (runSpec 1) l d a b)

/-! ### Node commands (R391) -/

/-- The words of a walker node's body with every address of RELOC replaced; none where a sum wraps (R391). -/
def relocated (bases : List Nat) (b : List Byte) : Option (List Nat) :=
  let ws := wordsOf 8 ((b.drop 0x20).take 32)
  (maskBits 7 (fieldOf b 0x07 1)).foldl (fun acc i =>
    match acc with
    | none => none
    | some out =>
      let v := nthOr 0 ws i + 2 ^ 32 * nthOr 0 ws (i + 1)
      let a := nthOr 0 bases (bits v 63 56) + bits v 55 0
      if 2 ^ 64 ≤ a then none
      else some (mapNth (i + 1) (fun _ => a / 2 ^ 32) (mapNth i (fun _ => a % 2 ^ 32) out))) (some ws)

/-- Whether every tile operand of a node has its place: its base and offset do not wrap (R391). -/
def topsFit (bases : List Nat) (b : List Byte) : Bool :=
  (List.range (fieldOf b 0x05 1)).all (fun j =>
    nthOr 0 bases (fieldOf b (0x40 + 0x20 * j) 2) + fieldOf b (0x50 + 0x20 * j) 8 < 2 ^ 64)

/-- The words of a walker node's body as it is dispatched; none where an address of it or of a tile operand wraps (R391).
-/
def dispatched (bases : List Nat) (b : List Byte) : Option (List Nat) :=
  if topsFit bases b then relocated bases b else none

/-- The chunk operation of a node of a run (Table 14-7): itself, or what a walker node of kind 3 holds as it is
dispatched; none for another node (R391). -/
def Graph.chunkAt (g : Graph) (r : Run) (n : Nat) : Option (List Byte) :=
  let b := g.node r n
  if g.collective then some b
  else if nodeKind b = 3 then (dispatched r.bases b).map (fun ws => ws.flatMap (leBytes 4)) else none

/-- An address of a chunk operation: a base and an offset; none where the sum wraps. -/
def chunkAddr (bases : List Nat) (b : List Byte) (bind off : Nat) : Option Nat :=
  let a := nthOr 0 bases (fieldOf b bind 2) + fieldOf b off 8
  if 2 ^ 64 ≤ a then none else some a

/-- Source and destination of a chunk operation. -/
def chunkEnds (bases : List Nat) (b : List Byte) : Option (Nat × Nat) :=
  match chunkAddr bases b 0x08 0x10, chunkAddr bases b 0x0A 0x18 with
  | some x, some y => some (x, y)
  | _, _ => none

/-- A control word with the acquire that a run's sources perform (R379). -/
def withAcquire (acq : Option Nat) (w : Nat) : Nat :=
  match acq with
  | none => w
  | some sc =>
    let own := if bit w 23 || bit w 22 then bits w 21 19 else 0
    w % 2 ^ 19 + 2 ^ 19 * Nat.max own sc + 2 ^ 22 * bits w 22 22 + 2 ^ 23 + w / 2 ^ 24 * 2 ^ 24

/-- The command words of a SEND, RRED or LCOPY: an XCP or XCPR between memory endpoints (R371). -/
def chunkWords (acq : Option Nat) (b : List Byte) (src dst : Nat) : List Nat :=
  let op := if nodeKind b = 2 then 1 else 0
  [withAcquire acq ((if op = 1 then fieldOf b 0x01 1 else 0) + 2 ^ 24 * op + 2 ^ 29), src % 2 ^ 32, src / 2 ^ 32,
   dst % 2 ^ 32, dst / 2 ^ 32, fieldOf b 0x04 4, 0, 0x001F8000]

/-- The first core of the quad that serves a node's copy: the lowest-numbered of the die that homes its source (R392). -/
def State.copyCore (s : State) (part src : Nat) : Nat :=
  match s.translate part src { r := true } with
  | .inr p => if homeOf p.loc = .package then 160 * homeDie p.loc else 0
  | .inl _ => 0

/-- A command of a node, which no ring holds. -/
def nodeCmd (part h n core eng vc : Nat) (ws : List Nat) : Cmd :=
  { origin := .node h n, part := part, ctx := 0, core := core, eng := eng, op := bits (nthOr 0 ws 0) 27 24,
    words := ws.map (BitVec.ofNat 32), vc := vc }

/-- Enters a command into the table; its number comes back. -/
def State.addCmd (c : Cmd) (s : State) : Nat × State :=
  (s.nextCmd, { s with cmds := Tab.set s.nextCmd c s.cmds, nextCmd := s.nextCmd + 1 })

/-- The scope of the acquire that a run's command asks of its sources (R379). -/
def State.runAcquire (s : State) (r : Run) (b : List Byte) : Option Nat :=
  if nodePreds b != 0 then none
  else match s.cmd r.cmd with
    | some c => if c.acq then some c.scope else none
    | none => none

/-- The command of a SEND, RRED or LCOPY; none where an address wraps. -/
def State.chunkCmd (s : State) (part h n : Nat) (r : Run) (b : List Byte) (acq : Option Nat) : Option Cmd :=
  (chunkEnds r.bases b).map (fun e =>
    nodeCmd part h n (s.copyCore part e.1) 2 3 (chunkWords acq b e.1 e.2))

/-! ### Ready nodes (R372, R374, R389, R392) -/

/-- The engine of a walker node's kind; saved contexts go to the front end, as engine 7. -/
def kindEngine (kind : Nat) : Nat :=
  match kind with
  | 2 | 3 => 2
  | 4 => 3
  | 5 => 4
  | _ => 7

/-- The issue-time table of a walker node's command. DEDUCED, unsafe: log entry 38. -/
def bodyBad (kind op : Nat) (ws : List Nat) : List (Nat × Bool) :=
  match kind with
  | 2 => match op with
    | 0 | 1 => xcpBad op ws
    | 2 => xexpBad ws
    | _ => xpackBad ws
  | 4 => rowBad op ws
  | 5 => snapBad ws
  | _ => []

/-- The launch that a walker node asks for. -/
def nodeLaunch (g : Graph) (h n : Nat) (b : List Byte) (ws : List Nat) : LaunchReq :=
  { part := g.part, origin := .graph h n, words := ws,
    prio := some (if fieldOf b 0x01 1 = 0xFF then g.defPrio else fieldOf b 0x01 1),
    place := fieldOf b 0x06 1, cls := if bits (fieldOf b 0x06 1) 7 6 = 1 then .die else .wider }

/-- A ready launch node enters the pool; one whose checks fail completes with an error. DEDUCED, unsafe: log entry 30.
-/
def State.enterLaunch (h n cls : Nat) (q : LaunchReq) (s : State) : State :=
  match s.judgeLaunch q with
  | ((lst, some k), t) =>
    if lst != 0 then t.failNode h n
    else
      let l := t.nextLaunch
      let u := (t.addLaunch q k 0).2
      let mine := (u.pool.filter (fun m => m.work == .launch l)).map (fun m =>
        { m with cls := cls, key := if cls = 0 then 0 else m.key })
      { u with pool := mine.foldl (fun ns m => poolInsert m ns) (u.pool.filter (fun m => m.work != .launch l)) }
  | ((_, none), t) => t.failNode h n

/-- A ready chunk waits for the collective engine, behind those of its function (R374). -/
def State.queueChunk (part h n : Nat) (s : State) : State :=
  let v := (s.vfOf part).getD 0
  { s with chunks := Tab.set v (Tab.read [] v s.chunks ++ [(h, n)]) s.chunks }.post .chunkDispatch

/-- A walker node that runs as a command enters the pool; one of a priority that its partition may not use completes with
an error (R382, Table 15-7). -/
def State.enterCmd (h n cls : Nat) (g : Graph) (c : Cmd) (b : List Byte) (s : State) : State :=
  let (k, t) := s.addCmd c
  let p := if fieldOf b 0x01 1 = 0xFF then g.defPrio else fieldOf b 0x01 1
  let key := if cls = 0 then 0 else 2 ^ 16 * h + n
  if !s.prioOk g.part p then s.failNode h n
  else t.enqueue { work := .command k, part := g.part, prio := p, eff := p, since := 0, cls := cls, key := key }

/-- A node whose count is zero is ready (R372): a chunk waits for the collective engine, any other node for the
walker. -/
def State.enterNode (h cls : Nat) (s : State) (n : Nat) : State :=
  match s.graph h with
  | none => s
  | some g =>
    match g.run with
    | none => s
    | some r =>
      let b := g.node r n
      let s1 := s.modRun h (Run.setState n (if g.collective then .ready else .running))
      let acq := s.runAcquire r b
      if g.collective then s1.queueChunk g.part h n
      else
        match g.chunkAt r n with
        | some ch =>
          match s1.chunkCmd g.part h n r ch acq with
          | none => s1.failNode h n
          | some c => s1.enterCmd h n cls g c b
        | none =>
          match dispatched r.bases b with
          | none => s1.failNode h n
          | some ws =>
            if nodeKind b = 1 then s1.enterLaunch h n cls (nodeLaunch g h n b ws)
            else
              let w0 := nthOr 0 ws 0
              if (bodyBad (nodeKind b) (bits w0 27 24) ws).any (·.2) then s1.failNode h n
              else
                let ws1 := if nodeKind b = 6 then ws else mapNth 0 (withAcquire acq) ws
                let core := if nodeKind b = 2 then s1.copyCore g.part (nthOr 0 ws 1 + 2 ^ 32 * nthOr 0 ws 2) else 0
                s1.enterCmd h n cls g (nodeCmd g.part h n core (kindEngine (nodeKind b)) 0 ws1) b

/-- Every node whose count is zero and that has not been ready enters, in ascending index. -/
def State.enterSources (h : Nat) (s : State) : State :=
  match s.graph h with
  | some g =>
    match g.run with
    | some r =>
      ((List.range r.states.length).filter (fun n => r.stateOf n == .blocked && nthOr 0 r.counts n == 0)).foldl
        (State.enterNode h 1) s
    | none => s
  | none => s

/-- A node's count falls by one; at zero it is ready (R372). -/
def State.decrement (h cls : Nat) (s : State) (n : Nat) : State :=
  let s1 := s.modRun h (fun r => { r with counts := mapNth n (· - 1) r.counts })
  match (s1.graph h).bind (·.run) with
  | some r => if r.stateOf n == .blocked && nthOr 1 r.counts n == 0 then s1.enterNode h cls n else s1
  | none => s1

/-- A decrement from another package: a walker node that it makes ready enters in a happening of its own, since the front
end may have to read at a peer first. -/
def State.decrementFrom (h n : Nat) (g : Graph) (s : State) : State :=
  if g.collective then s.decrement h 0 n
  else
    let s1 := s.modRun h (fun r => { r with counts := mapNth n (· - 1) r.counts })
    match (s1.graph h).bind (·.run) with
    | some r => if r.stateOf n == .blocked && nthOr 1 r.counts n == 0 then (s1.modRun h (Run.setState n .ready)).post (.chunkCompletion h n) else s1
    | none => s1

/-! ### Beginning a run (R372, R373) -/

/-- A run with the counts of its variant. -/
def Run.fresh (g : Graph) (r : Run) : Run :=
  let ns := g.nodesOf r
  { r with counts := ns.map nodePreds, states := ns.map (fun _ => .blocked) }

/-- The variant of a run is settled: counts start, early decrements are applied, and sources enter. -/
def State.openRun (h : Nat) (s : State) : State :=
  match s.graph h with
  | none => s
  | some g =>
    match g.run with
    | none => s
    | some r =>
      let early := r.early
      let s1 := s.modRun h (fun q => { (q.fresh g) with choosing := false, early := [] })
      let s2 := s1.modRun h (fun q => { q with counts := early.foldl (fun cs n => mapNth n (· - 1) cs) q.counts })
      s2.enterSources h

/-- The lowest logical package of a partition's map. DEDUCED, safe: log entry 37. -/
def State.lowMember (s : State) (part : Nat) : Nat :=
  match s.part part with | some p => leastOr 0 (p.record.pmap.map (·.1)) | none => 0

/-- IKEY (R375). DEDUCED, safe: log entry 37. -/
def State.ikey (s : State) (part h number : Nat) : Nat :=
  h % 2 ^ 32 + 2 ^ 32 * (number % 2 ^ 16) + 2 ^ 48 * (s.lowMember part % 2 ^ 9)

/-- Members, this member's index and ROP of a variant: those of its first SWRED. -/
def Variant.members (v : Variant) : Nat × Nat × Nat :=
  match v.ops.find? (isSwred true) with
  | some b => (fieldOf b 0x21 1 + 1, fieldOf b 0x20 1, fieldOf b 0x01 1)
  | none => (1, 0, 0)

/-- The packages of a partition, bit per pod position. -/
def State.livePkgs (s : State) (part : Nat) : Nat :=
  match s.part part with | some p => maskOf (p.record.pmap.map (·.2)) | none => 0

/-- A flit of this package to a Spire's slots, on channel 3. -/
def State.slotFlit (s : State) (v tk : Nat) (payload : List Byte) : Flit :=
  { spkg := s.podPos, dpkg := s.podPos, vf := v, vc := 3, tk := BitVec.ofNat 4 tk, payload := payload }

/-- Asks a plane's Spire for a slot; where the port is not there, the answer is NOSLOT at once. -/
def State.askSlot (h : Nat) (g : Graph) (r : Run) (s : State) (p : Nat) : State :=
  match s.vfOf g.part with
  | none => s.modRun h (fun q => { q with slots := Tab.set p none q.slots })
  | some v =>
    if !bit (s.vf v).ports p || (s.port p).down || (s.vf v).st != .live then s.modRun h (fun q => { q with slots := Tab.set p none q.slots })
    else
      let (n, i, rop) := (g.variantOf r.variant).members
      s.queueFlit p (s.slotFlit v 11 (leBytes 8 (s.ikey g.part h r.number) ++ leBytes 2 n ++ leBytes 2 i ++ leBytes 4 rop ++
        leBytes 64 (s.livePkgs g.part)))

/-- Releases the slots that a run was granted (R373, R375); a teardown of its function releases them itself (R367). -/
def State.releaseSlots (h : Nat) (s : State) : State :=
  match s.graph h with
  | none => s
  | some g =>
    match g.run with
    | none => s
    | some r =>
      let (_, i, _) := (g.variantOf r.variant).members
      let v := (s.vfOf g.part).getD 0
      (r.slots.foldl (fun (t : State) e =>
        match (if (t.vf v).st == .live then e.2 else none) with
        | some k => t.queueFlit e.1 (t.slotFlit v 13 (leBytes 1 k ++ leBytes 1 i))
        | none => t) s).modRun h (fun q => { q with slots := [] })

/-- A run asks for the slots of its variant, or opens where it needs none. -/
def State.chooseVariant (h : Nat) (s : State) : State :=
  match s.graph h with
  | none => s
  | some g =>
    match g.run with
    | none => s
    | some r =>
      let ps := if g.collective then (g.variantOf r.variant).slots else []
      if ps = [] then s.openRun h else ps.foldl (State.askSlot h g r) (s.modRun h (fun q => { q with choosing := true }))

/-- Whether every plane of a run's variant has answered. -/
def Graph.answered (g : Graph) (r : Run) : Bool :=
  (g.variantOf r.variant).slots.all (fun p => (Tab.find p r.slots).isSome)

/-- Once every request is answered (R373): the run opens with every slot granted, or releases them and takes the
fallback; f bounds the fallbacks taken at once. DEDUCED, unsafe: log entry 36. -/
def State.settleSlots (h : Nat) : Nat → State → State
  | 0, s => s
  | f + 1, s =>
    match s.graph h with
    | none => s
    | some g =>
      match g.run with
      | none => s
      | some r =>
        if !r.choosing || !g.answered r then s
        else if r.slots.all (fun e => e.2.isSome) then s.openRun h
        else
          let s1 := (s.releaseSlots h).modRun h (fun q => { q with variant := (g.variantOf r.variant).fallback.getD r.variant })
          State.settleSlots h f (s1.chooseVariant h)

/-- A run begins (R372, R373, R379). -/
def State.beginRun (k h : Nat) (g : Graph) (bases : List Nat) (var : Nat) (s : State) : State :=
  let r : Run := { cmd := k, number := g.runs % 2 ^ 16, variant := var, bases := bases, early := g.held, choosing := true,
                   retried := s.cycle 0 }
  ((s.modGraph h (fun y => { y with runs := y.runs + 1, run := some r, held := [] })).chooseVariant h).settleSlots h 5

/-! ### Starting a run (R379, Table 14-9) -/

/-- The variant that a CGRUN names. -/
def Cmd.variant (c : Cmd) : Nat := if bits (c.w 4) 2 0 = 7 then 0 else bits (c.w 4) 2 0

/-- The graph that a run's command names, of the right kind and with the variant (R379). -/
def State.graphFor (s : State) (c : Cmd) : Option Graph :=
  match s.graph (c.w 1) with
  | some g => if g.part == c.part && g.collective == (c.op == 0) && (c.op != 0 || c.variant < g.variants.length) then some g else none
  | none => none

/-- The 64-bit entries of a binding table. -/
def basesOf (n : Nat) (bs : List Byte) : List Nat := (List.range n).map (fun i => fieldOf bs (8 * i) 8)

/-- The binding table of a run: in the issuing window, or for a chain entry at an address of the partition; or the code
of the failure (R282, R391). -/
def State.readBases (c : Cmd) (n : Nat) (s : State) : (Nat ⊕ List Nat) × State :=
  match c.ring with
  | some _ =>
    let x := (s.ctxOf c.ctx).getD {}
    if x.scratch < c.w 2 + 8 * n then (.inl codeScratchBounds, s) else (.inr (basesOf n (x.window.bytes (c.w 2) (8 * n))), s)
  | none =>
    let va := nthOr 0 c.data 0
    if n = 0 then (.inr [], s)
    else if !extentOk va (8 * n) then (.inl codeAddressRange, s)
    else
      match s.extent c.part va (8 * n) { r := true } with
      | .inl f => (.inl f.code, s)
      | .inr _ =>
        match s.frontRead c.part va (8 * n) { r := true } with
        | (some bs, t) => (.inr (basesOf n bs), t)
        | (none, t) => (.inl codeAddressRange, t)

/-- Whether some node of a graph names a package outside its partition's map (PEER_DENIED). -/
def State.peerDenied (s : State) (g : Graph) : Bool :=
  (g.nodes ++ g.variants.flatMap (·.ops)).any (fun b =>
    match chunkOf g.collective b with
    | some ch => (nodeKind ch == 1 || nodeKind ch == 2) && (s.podOf g.part (fieldOf ch 0x0C 2)).isNone
    | none => false)

/-- The acceptance of a run: its code, or the graph and its bases (Table 14-9). DEDUCED, unsafe: log entry 38. -/
def State.judgeRun (c : Cmd) (s : State) : (Nat ⊕ (Graph × List Nat)) × State :=
  match s.graphFor c with
  | none => (.inl 0xF001, s)
  | some g =>
    if bits (c.w 3) 7 0 != g.nbind then (.inl 0xF002, s)
    else
      match s.readBases c g.nbind with
      | (.inl code, t) => (.inl code, t)
      | (.inr bs, t) =>
        if g.run.isSome then (.inl 0xF003, t)
        else if t.peerDenied g then (.inl 0xF004, t)
        else (.inr (g, bs), t)

/-- PRIO_RANGE (Table 15-7). DEDUCED, unsafe: log entry 38. -/
def codePrioRange : Nat := 0xF103

/-- A run that is accepted begins, or is rejected; a chain's run has its graph's default priority (R386); ADMIT is
asked first (R379, R381). DEDUCED, unsafe: log entry 38. -/
def State.startRun (k : Nat) (c : Cmd) (asked : Bool) (s : State) : State :=
  match s.judgeRun c with
  | (.inl code, t) => t.endCmd k code 0
  | (.inr (g, bs), t) =>
    if c.ring.isNone && !t.prioOk c.part g.defPrio then t.endCmd k codePrioRange 0
    else if !asked && t.hasPlugin c.part then t.callHook (.run k) else t.beginRun k (c.w 1) g bs c.variant

/-! ### Chunks (R371, R374) -/

/-- The flits of a chunk's writes: those of a copy's destination blocks, or one for each step of an SWRED. -/
def chunkFlits (bases : List Nat) (b : List Byte) : Nat :=
  match nodeKind b with
  | 3 => swredSteps b
  | 4 => 0
  | _ =>
    match chunkEnds bases b with
    | some (_, d) => ((piecesOf d (fieldOf b 0x04 4)).map (fun e => if e.2 ≤ 208 then 1 else 2)).foldl (· + ·) 0
    | none => 0

/-- The command of a node, where it has one. -/
def State.cmdOfNode (s : State) (h n : Nat) : Option (Nat × Cmd) := s.cmds.find? (fun e => e.2.origin == .node h n)

/-- A copy of a node starts (R17): the acquire of its command, then acceptance. -/
def State.startNodeCopy (k : Nat) (c : Cmd) (s : State) : State :=
  let s1 := if c.acq then s.acquire c.core c.scope else s
  ((s1.modCmd k (fun y => { y with state := .started })).startCopy k { c with state := .started } { part := c.part })

/-- The pieces of a range with their offsets in it. -/
def offsets (ps : List Piece) : List (Nat × Piece) :=
  (ps.foldl (fun (acc : Nat × List (Nat × Piece)) p => (acc.1 + p.len, acc.2 ++ [(acc.1, p)])) (0, [])).2

/-- Bytes of a memory range with their marks; those at peers have come into the buffer of the command that asked for
them. -/
def State.rangeBytes (s : State) (c : Cmd) (ps : List Piece) : List (Byte × Bool) :=
  (offsets ps).flatMap (fun e =>
    if homeOf e.2.place.loc = .fabric then c.buf e.1 e.2.len else s.spotBytes (.loc e.2.place.loc) e.2.len)

/-- The PREC bits of what a die of a partition sends: the colours that it has recorded (R377). -/
def State.precBits (s : State) (part die : Nat) : Nat :=
  let dom := s.domOf part
  if dom = 0 then 0 else ofBool (s.dieCol dom die false).st.live + 2 * ofBool (s.dieCol dom die true).st.live

/-- Payload of a contribution or a result (Table 14-3). -/
def slotPayload (slot res midx step prec : Nat) (bs : List (Byte × Bool)) : List Byte :=
  leBytes 1 slot ++ leBytes 1 res ++ leBytes 2 midx ++ leBytes 4 step ++ leBytes 1 prec ++ leBytes 1 (pmOf (bs.map (·.2))) ++
  leBytes 2 bs.length ++ leBytes 20 0 ++ bs.map (·.1)

/-- A step of an SWRED that can be contributed: the pieces of its source, its port, slot, member index and number. -/
structure StepAt where
  pieces : List Piece
  port : Nat
  slot : Nat
  midx : Nat
  step : Nat
  deriving DecidableEq, Repr

/-- The step that an SWRED of a run contributes next (R376); none where its bytes cannot be read, nothing leads to its
slot, or its function no longer issues (R367). DEDUCED, unsafe: log entry 36. -/
def State.stepAt (s : State) (g : Graph) (r : Run) (n : Nat) : Option StepAt :=
  let b := g.node r n
  let i := Tab.read 0 n r.steps
  let step := stepBase (g.nodesOf r) n + i
  let m := Nat.min 192 (fieldOf b 0x04 4 - 192 * i)
  match (g.variantOf r.variant).planeOf step, chunkAddr r.bases b 0x08 0x10 with
  | some p, some src =>
    match (Tab.find p r.slots).join, s.extent g.part (src + 192 * i) m { r := true } with
    | some k, .inr ps =>
      if (s.port p).down || !extentOk (src + 192 * i) m || !(s.vfOf g.part).any (fun v => (s.vf v).st == .live) then none
      else some { pieces := ps, port := p, slot := k, midx := fieldOf b 0x20 1, step := step }
    | _, _ => none
  | _, _ => none

/-- The contribution of a step is sent to the plane that serves it (R376). -/
def State.giveStep (part : Nat) (a : StepAt) (c : Cmd) (s : State) : State :=
  s.queueFlit a.port (s.slotFlit ((s.vfOf part).getD 0) 14
    (slotPayload a.slot 0 a.midx a.step (s.precBits part (a.port / 16)) (s.rangeBytes c a.pieces)))

/-- What the collective engine reads at peers for a step, as a command of its own (engine 5, operation 2). -/
def gatherCmd (part h n : Nat) : Cmd := { nodeCmd part h n 0 5 0 [] with op := 2, state := .started }

/-- The next step of an SWRED contributes (R376), once the bytes of its source that lie at peers have come (R371); a node
whose step cannot be contributed fails, and a restored run waits for its slots (R377). -/
def State.contribute (h n : Nat) (s : State) : State :=
  match s.graph h with
  | none => s
  | some g =>
    match g.run with
    | none => s
    | some r =>
      if r.again then s
      else
        match s.stepAt g r n with
        | none => s.failNode h n
        | some a =>
          let c := gatherCmd g.part h n
          let away := (offsets a.pieces).filter (fun e => homeOf e.2.place.loc == .fabric)
          if away = [] then s.giveStep g.part a c
          else
            let (k, t) := s.addCmd c
            let u := t.askReads k (away.flatMap (fun e => AwayRead.parts { loc := e.2.place.loc, len := e.2.len, off := e.1 }))
            if (u.cmd k).all (·.settled) then u.post (.commandCompletion k) else u

/-- The bytes that a step of an SWRED read at peers have come, or were lost, which fails its node (R288, R372). -/
def State.gathered (k : Nat) (c : Cmd) (s : State) : State :=
  let t := { s with cmds := Tab.drop k s.cmds }
  match c.origin with
  | .node h n =>
    match t.graph h with
    | none => t
    | some g =>
      match g.run with
      | none => t
      | some r =>
        if r.stateOf n != .running then t
        else if c.lostAny || c.err then t.failNode h n
        else
          match t.stepAt g r n with
          | none => t.failNode h n
          | some a => t.giveStep g.part a c
  | _ => t

/-- A chunk is sent: an SWRED contributes its first step, any other starts as a copy. -/
def State.startChunk (h n : Nat) (s : State) : State :=
  match s.graph h with
  | none => s
  | some g =>
    match g.run with
    | none => s
    | some r =>
      let b := g.node r n
      let s1 := s.modRun h (Run.setState n .running)
      match s.cmdOfNode h n with
      | some (k, c) => s1.startNodeCopy k c
      | none =>
        if isSwred g.collective b then
          let s2 := match s.runAcquire r b with | some sc => s1.acquire 0 sc | none => s1
          s2.contribute h n
        else
          match s1.chunkCmd g.part h n r b (s.runAcquire r b) with
          | none => s1.failNode h n
          | some c => let (k, t) := s1.addCmd c; t.startNodeCopy k c

/-- The flits of the chunk of a node. -/
def State.flitsOf (s : State) (h n : Nat) : Nat :=
  match s.graph h with
  | some g =>
    match g.run with
    | some r => (match g.chunkAt r n with | some b => chunkFlits r.bases b | none => 0)
    | none => 0
  | none => 0

/-- One visit of a function (R374): chunks are sent as long as the deficit covers the head; f bounds them. DESIGN
CHOICE, safe: log entry 35. -/
def State.visitChunks (v : Nat) : Nat → State → State
  | 0, s => s
  | f + 1, s =>
    match Tab.read [] v s.chunks with
    | [] => { s with chunkDeficits := Tab.drop v s.chunkDeficits }
    | (h, n) :: rest =>
      let d := Tab.read 0 v s.chunkDeficits
      let need := 256 * s.flitsOf h n
      if d < need then s
      else
        State.visitChunks v f ({ s with
          chunks := Tab.write [] v rest s.chunks
          chunkDeficits := Tab.write 0 v (d - need) s.chunkDeficits }.startChunk h n)

/-- CHUNK_DISPATCH (R374): the engine visits the next function that holds a ready chunk. DESIGN CHOICE, safe: log
entry 35. -/
def execChunkDispatch (s : State) : Result :=
  let vs := s.chunks.map (·.1)
  .next (match vs.filter (fun v => s.chunkVisit ≤ v) ++ vs with
  | [] => s
  | v :: _ =>
    let s1 := { s with chunkVisit := v + 1,
                       chunkDeficits := Tab.write 0 v (Tab.read 0 v s.chunkDeficits + (s.vf v).weight) s.chunkDeficits }
    let s2 := s1.visitChunks v ((Tab.read [] v s.chunks).length + 1)
    if s2.chunks = [] then s2 else s2.post .chunkDispatch)

/-! ### The end of a node and of a run (R372, R379) -/

/-- Whether what a node does has ended: its command with its arrivals, its launch, its steps and their
writes. -/
def State.nodeEnded (s : State) (h n : Nat) (g : Graph) (r : Run) : Bool :=
  r.stateOf n == .failed ||
  (r.stateOf n == .running &&
    (match s.cmdOfNode h n with | some (_, c) => c.state == .completed && !c.destArr | none => true) &&
    !s.launches.any (fun l => l.2.origin == .graph h n) &&
    (!isSwred g.collective (g.node r n) || swredSteps (g.node r n) ≤ Tab.read 0 n r.steps) &&
    !s.pendings.any (fun e => e.2.use == .chunk h n) && !s.unsent.any (fun m => m.use == .chunk h n))

/-- The run's command ends (R379): its completion follows the last write of every node. -/
def State.finishRun (h : Nat) (r : Run) (s : State) : State :=
  let bad := r.err || r.states.any (· == .failed)
  let s1 := (s.releaseSlots h).modGraph h (fun g => { g with run := none })
  s1.endCmd r.cmd (if bad then 0xF005 else 0) 0

/-- A run ends when every node has finished, or after an error once no node is ready or running. -/
def Run.over (r : Run) : Bool :=
  !r.choosing && (r.states.all (· == .finished) ||
    (r.states.any (· == .failed) && !r.states.any (fun st => st == .ready || st == .running)))

/-- Sends a graph decrement to a peer's node (R372); lost where no port leads there. -/
def State.sendDecrement (h : Nat) (g : Graph) (r : Run) (b : List Byte) (s : State) : State :=
  if !(nodeKind b == 1 || nodeKind b == 2) || fieldOf b 0x0E 2 = 0xFFFF then s
  else
    match s.arrivalRoute g.part (fieldOf b 0x0C 2) with
    | none => { s with lostCount := s.lostCount + 1 }
    | some q =>
      let f : Flit := { spkg := s.podPos, dpkg := q.pod, vf := q.vf, vc := 2, tk := 10,
                        payload := leBytes 4 h ++ leBytes 2 r.number ++ leBytes 2 (fieldOf b 0x0E 2) }
      s.queueFlit q.port f

/-- CHUNK_COMPLETION (R372): a node finishes and decrements its successors and its remote node, or fails; the run may
end. A walker node that a decrement from another package has made ready enters. -/
def execChunkCompletion (handle node : Nat) (s : State) : Result :=
  .next (match s.graph handle with
  | none => s
  | some g =>
    match g.run with
    | none => s
    | some r =>
      if !g.collective && r.stateOf node == .ready then s.enterNode handle 0 node
      else if !s.nodeEnded handle node g r then s
      else
        let cmd := s.cmdOfNode handle node
        let bad := r.stateOf node == .failed || (match cmd with | some (_, c) => c.err || c.lostAny | none => false)
        let s1 := match cmd with
          | some (k, c) => { s with cmds := Tab.drop k s.cmds }.modCmd r.cmd (fun y =>
              { y with wrote := c.wrote.foldl (fun t w => NatSet.add w t) y.wrote })
          | none => s
        let s2 := s1.modRun handle (fun q => { (q.setState node (if bad then .failed else .finished)) with err := q.err || bad })
        let s3 := if bad then s2
          else
            let t := (nodeSuccs g.collective (g.node r node)).foldl (State.decrement handle 0) s2
            match g.chunkAt r node with
            | some b => t.sendDecrement handle g r b
            | none => t
        match (s3.graph handle).bind (·.run) with
        | some q => if q.over then s3.finishRun handle q else s3
        | none => s3)

/-- A decrement that a package receives (R372): applied, held for the next run, or discarded and counted. -/
def State.serveDecrement (port : Nat) (f : Flit) (s : State) : State :=
  let h := fieldIn f 0 4
  let number := fieldIn f 4 2
  let n := fieldIn f 6 2
  match s.graph h with
  | none => { s with discards := s.discards + 1 }
  | some g =>
    let t := s.logFlit port f (some g.part)
    match g.run with
    | some r =>
      if number = r.number then
        if r.choosing then t.modRun h (fun q => { q with early := q.early ++ [n] }) else t.decrementFrom h n g
      else if number = g.runs % 2 ^ 16 then t.modGraph h (fun y => { y with held := y.held ++ [n] })
      else { t with discards := t.discards + 1 }
    | none =>
      if number = g.runs % 2 ^ 16 then t.modGraph h (fun y => { y with held := y.held ++ [n] })
      else { t with discards := t.discards + 1 }

/-- GRAPH_DECREMENT (R372). -/
def execGraphDecrement (port : Nat) (f : Flit) (s : State) : Result := .next (s.takeKind port 10 f (State.serveDecrement port f))

/-! ### Switch reduction slots at a member (R373, R377) -/

/-- The steps under way are contributed again once a restored run holds its slots (R377). -/
def State.contributeAgain (h : Nat) (s : State) : State :=
  match s.graph h with
  | none => s
  | some g =>
    match g.run with
    | none => s
    | some r =>
      if r.again && g.answered r && r.slots.all (fun e => e.2.isSome) then
        ((List.range r.states.length).filter (fun n => r.stateOf n == .running && isSwred g.collective (g.node r n))).foldl
          (fun t n => t.contribute h n) (s.modRun h (fun q => { q with again := false }))
      else s

/-- Whether a flit is addressed to a function of this package whose teardown has ended the wait for answers (R367 step 3).
-/
def State.deadFlit (s : State) (f : Flit) : Bool := (s.vf f.vf).st == .quarantined

/-- A port drops a flit, and counts it. -/
def State.dropFlit (p : Nat) (s : State) : State := s.modPort p (fun x => { x with dropped := x.dropped + 1 })

/-- SLOT_REPLY (R373): a grant, or NOSLOT, which a restored run asks about again and another answers by its
fallback. -/
def execSlotReply (port : Nat) (f : Flit) (s : State) : Result :=
  .next (s.takeKind port 12 f (fun t =>
    if t.deadFlit f then t.dropFlit port else
    let h := fieldIn f 0 4
    let slot := fieldIn f 8 1
    match (t.graph h).bind (·.run), t.graph h with
    | some r, some g =>
      if fieldIn f 0 8 = t.ikey g.part h r.number && (r.choosing || r.again) && (g.variantOf r.variant).slots.contains port then
        if r.again then
          if slot = 0xFF then t
          else (t.modRun h (fun q => { q with slots := Tab.set port (some slot) q.slots })).contributeAgain h
        else
          (t.modRun h (fun q => { q with slots := Tab.set port (if slot = 0xFF then none else some slot) q.slots })).settleSlots h 5
      else { t with discards := t.discards + 1 }
    | _, _ => { t with discards := t.discards + 1 }))

/-- Die cycles between the requests of a restored member that waits for a slot (R377). -/
def retryPeriod : Nat := 2 ^ 16

/-- SLOT_RETRY (R377): a restored run asks again for the slots that it has not been granted; a run that chooses treats a
plane whose port, or whose function, is gone as NOSLOT. -/
def execSlotRetry (handle node : Nat) (s : State) : Result :=
  .next (match s.graph handle with
  | none => s
  | some g =>
    match g.run with
    | none => s
    | some r =>
      if r.choosing then
        let live := match s.vfOf g.part with | some v => (s.vf v).st == .live | none => false
        let gone := (g.variantOf r.variant).slots.filter (fun p => (Tab.find p r.slots).isNone && ((s.port p).down || !live))
        (gone.foldl (fun (t : State) p => t.modRun handle (fun q => { q with slots := Tab.set p none q.slots })) s).settleSlots
          handle 5
      else if r.again && r.stateOf node == .running && r.retried + retryPeriod ≤ s.cycle 0 then
        ((g.variantOf r.variant).slots.filter (fun p => ((Tab.find p r.slots).join).isNone)).foldl (State.askSlot handle g r)
          (s.modRun handle (fun q => { q with retried := s.cycle 0 }))
      else s)

/-- The run and node that a result belongs to: that which holds the slot of the plane, and whose step it is. -/
def State.resultFor (s : State) (port : Nat) (f : Flit) : Option (Nat × Graph × Run × Nat) :=
  s.graphs.findSome? (fun e =>
    match e.2.run with
    | none => none
    | some r =>
      if (Tab.find port r.slots).join != some (fieldIn f 0 1) then none
      else
        let ops := e.2.nodesOf r
        ((List.range ops.length).find? (fun n =>
          isSwred e.2.collective (nthOr [] ops n) && r.stateOf n == .running &&
          stepBase ops n + Tab.read 0 n r.steps == fieldIn f 4 4)).map (fun n => (e.1, e.2, r, n)))

/-- A result is logged for a colour that its contributions were sent before and the die has recorded (R377). -/
def State.logResult (dom port : Nat) (f : Flit) (s : State) (col : Bool) : State :=
  let die := port / 16
  let d := s.dieCol dom die col
  if (d.st == .opened || d.st == .closed) && !bit (fieldIn f 8 1) (ofBool col) then
    let t := s.modDieCol dom die col (fun y => { y with log := y.log ++ [{ chan := chanOf port f, flit := f, port := port }] })
    if logLimit < 256 * (d.log.length + 1) then t.failSnap dom col 4 else t
  else s

/-- Sends a write of a node's result to a peer, with its marks; the node ends after its acknowledgement. It is lost where
no route is there. -/
def State.sendResult (part h n : Nat) (s : State) (o : Outgoing) : State :=
  match s.routeOf part o.loc with
  | some q =>
    let data := memPayload (peerOf o.loc).2 o.bytes.length (pmOf (o.bytes.map (·.2))) 0 (o.bytes.map (·.1))
    s.requestOrWait q { part := part, loc := o.loc, use := .chunk h n, kind := 1, vc := 3, payload := data }
  | none => { s with lostCount := s.lostCount + 1 }.failNode h n

/-- A node's result is written, bytes with marks, at an address of its partition: none where it does not translate or
meets a live barrier word; bytes at peers are sent. The run's command k has written those lines (R44). -/
def State.writeMarked (k part h n va : Nat) (bs : List (Byte × Bool)) (s : State) : Bool × State :=
  match s.extent part va bs.length { w := true } with
  | .inl _ => (false, s)
  | .inr ps =>
    if !extentOk va bs.length then (false, s)
    else
      let rs : List Range := (ps.foldl (fun (acc : Nat × List Range) p =>
        (acc.1 + p.len, acc.2 ++ [(Spot.loc p.place.loc, (bs.drop acc.1).take p.len)])) (0, [])).2
      let (l, m) := s.clearRanges rs
      let s1 := (s.engWrite 0 (l.filter (fun r => !r.1.away))).modCmd k (Cmd.noteWrote l)
      let s2 := (awayWrites 1 0 (l.filter (fun r => r.1.away))).foldl (State.sendResult part h n) s1
      match m with
      | some b => (false, s2.forceMet b)
      | none => (true, s2)

/-- A result reaches a member (R377): it is applied, logged where it must be, and the next step is contributed or the
node ends. replayed: it is taken from a log, and the next step waits for a slot. -/
def State.serveResult (replayed : Bool) (port : Nat) (f : Flit) (s : State) : State :=
  match s.resultFor port f with
  | none => { s with discards := s.discards + 1 }
  | some (h, g, r, n) =>
    let b := g.node r n
    let dom := s.domOf g.part
    let i := Tab.read 0 n r.steps
    let s1 := if dom = 0 then s else [false, true].foldl (State.logResult dom port f) s
    match chunkAddr r.bases b 0x0A 0x18 with
    | none => s1.failNode h n
    | some dst =>
      let (ok, s2) := s1.writeMarked r.cmd g.part h n (dst + 192 * i) (markedData f 0x20 (fieldIn f 0x0A 2) (fieldIn f 9 1))
      if !ok then s2.failNode h n
      else
        let s3 := s2.modRun h (fun q => { q with steps := Tab.set n (i + 1) q.steps })
        if swredSteps b ≤ i + 1 then s3.post (.chunkCompletion h n) else if replayed then s3 else s3.contribute h n

/-- RESULT (R377). -/
def execResult (port : Nat) (f : Flit) (s : State) : Result :=
  .next (s.takeFlit port f (f.lk == 1 && f.tk == 14 && fieldIn f 1 1 == 1) (fun t =>
    if t.deadFlit f then t.dropFlit port else t.serveResult false port f))

/-! ### Slots at a Spire (R375, R376) -/

/-- Slots of a Spire (Table 14-1). -/
def spireSlots : Nat := 64

/-- What a Spire has for this package waits for its port. -/
def State.spireSend (p : Nat) (f : Flit) (s : State) : State :=
  { s with spireOut := Tab.set p (Tab.read [] p s.spireOut ++ [f]) s.spireOut }

/-- The lowest free slot of a Spire. DEDUCED, safe: log entry 37. -/
def freeSlot (us : List SlotUse) : Option Nat := (List.range spireSlots).find? (fun k => !us.any (fun u => u.slot == some k))

/-- The answer to an instance key that asks (R375): the allocator's decision, and the member noted. -/
def slotAsked (us : List SlotUse) (f : Flit) : SlotUse :=
  let key := fieldIn f 0 8
  let u := match us.find? (fun u => u.ikey == key) with
    | some u => u
    | none => { ikey := key, nmem := fieldIn f 8 2, rop := fieldIn f 0x0C 1, slot := freeSlot us }
  let i := fieldIn f 0x0A 2
  { u with asked := NatSet.add i u.asked, members := Tab.set i f.spkg u.members, vfs := Tab.set i f.vf u.vfs }

/-- SLOT_REQUEST (R375): the allocator of a plane's Spire decides. DEDUCED, safe: log entry 37. -/
def execSlotRequest (plane : Nat) (f : Flit) (s : State) : Result :=
  let us := Tab.read [] plane s.spires
  let u := slotAsked us f
  let rest := us.filter (fun y => y.ikey != u.ikey)
  let kept := if u.slot.isNone && u.nmem ≤ u.asked.length then rest else rest ++ [u]
  let t := { s with spires := Tab.write [] plane kept s.spires }
  .next (if f.spkg = s.podPos then
    t.spireSend plane (s.slotFlit f.vf 12 (leBytes 8 u.ikey ++ leBytes 1 (u.slot.getD 0xFF)))
  else t)

/-- SLOT_RELEASE (R375): a slot frees once every member has released it. -/
def execSlotRelease (plane : Nat) (f : Flit) (s : State) : Result :=
  let us := (Tab.read [] plane s.spires).map (fun u =>
    if u.slot == some (fieldIn f 0 1) then { u with released := NatSet.add (fieldIn f 1 1) u.released } else u)
  .next { s with spires := Tab.write [] plane (us.filter (fun u => u.slot.isNone || u.released.length < u.nmem)) s.spires }

/-- The data of a contribution with its marks. -/
def givenData (f : Flit) : List (Byte × Bool) := markedData f 0x20 (fieldIn f 0x0A 2) (fieldIn f 9 1)

/-- The combination of a step: member 0, then the others in ascending index (R376). -/
def combined (rop : Nat) : List Flit → List (Byte × Bool)
  | [] => []
  | f :: fs => fs.foldl (fun acc g => reduceBytes rop (acc.length / ropSize rop) acc (givenData g)) (givenData f)

/-- The result of a step goes to every member; this package's own ones wait for its port. -/
def State.sendResults (plane step : Nat) (u : SlotUse) (fs : List Flit) (s : State) : State :=
  let prec := fs.foldl (fun v f => v ||| fieldIn f 8 1) 0
  let bs := combined u.rop fs
  u.members.foldl (fun (t : State) e =>
    if e.2 = t.podPos then
      t.spireSend plane (t.slotFlit (Tab.read 0 e.1 u.vfs) 14 (slotPayload (u.slot.getD 0) 1 e.1 step prec bs))
    else t) s

/-- CONTRIBUTION (R376): a slot that holds every contribution of a step combines it and sends the result. DEDUCED,
safe: log entry 37. -/
def execContribution (plane : Nat) (f : Flit) (s : State) : Result :=
  let us := Tab.read [] plane s.spires
  let step := fieldIn f 4 4
  .next (match us.find? (fun u => u.slot == some (fieldIn f 0 1)) with
  | none => s
  | some u =>
    let got := Tab.set (256 * step + fieldIn f 2 2 % 256) f u.given
    let mine := got.filter (fun e => e.1 / 256 == step)
    let done := u.nmem ≤ mine.length
    let u1 := { u with given := if done then got.filter (fun e => e.1 / 256 != step) else got }
    let t := { s with spires := Tab.write [] plane (us.map (fun y => if y.ikey == u.ikey then u1 else y)) s.spires }
    if done then t.sendResults plane step u (mine.map (·.2)) else t)

end Sys2Proof.Machine
end

