-- ==== Sys2Proof/Machine/Restore.lean ====
section
/-! DEFINITION. Restore (R347-R349, R386 RESTORE): an image of a context that is held by report, and a chain of
snapshots. -/

namespace Sys2Proof.Machine

/-! ### A pre-emption image (R216, R386) -/

/-- A launch record that a restore's workgroups count against (R386). -/
def restoreLaunch (part : Nat) (o : LaunchFrom) (total : Nat) : Launch :=
  { origin := o, tmpl := { part := part }, total := total, next := total }

/-- The code of a restore whose work has a priority outside PMIN to PMAX (R382, Table 15-7), judged last. DESIGN CHOICE,
unsafe: log entry 84. -/
def State.restorePrio (s : State) (part : Nat) (xs : List Ctx) : Nat :=
  if xs.all (fun x => s.prioOk part x.prio) then 0 else 0xF103

/-- Restores the image of a context that a policy holds by report: the code, and the state. -/
def State.restoreHeld (part : Nat) (o : LaunchFrom) (at_ : Nat) (s : State) : Nat × State :=
  match s.ctxs.find? (fun e => e.2.part == part && e.2.run == .reported && Config.imageAddress e.1 == at_) with
  | none => (0xF104, s)
  | some (c, x) =>
    if s.restorePrio part [x] != 0 then (0xF103, s)
    else
      let n := s.nextLaunch
      let s1 := { s with launches := Tab.set n (restoreLaunch part o 1) s.launches, nextLaunch := n + 1 }
      (0, (s1.modCtx c (fun y => { y with run := .sealed, cause := .preempted, also := some n })).saveToPool c)

/-! ### A chain of images (R340, R347) -/

/-- The chain of complete images that ends in a snapshot, the newest first; none where it is broken. f bounds it. -/
def State.chainOf (s : State) (dom : Nat) : Nat → Nat → Option (List Image)
  | 0, _ => none
  | f + 1, ssn =>
    match s.images.find? (fun i => i.dom == dom && i.ssn == ssn && i.complete) with
    | none => none
    | some i => if i.inc then (s.chainOf dom f i.base).map (i :: ·) else some [i]

/-- What a restore maps: allocation units of package memory, and numbers of contexts, commands and launches. -/
structure Remap where
  units : Tab Nat := []
  ctxs : Tab Nat := []
  cmds : Tab Nat := []
  launches : Tab Nat := []
  deriving DecidableEq, Repr

/-- A number's image under a table. -/
def mapped (t : Tab Nat) (n : Nat) : Nat := (Tab.find n t).getD n

/-- An address of package memory after a restore. -/
def Remap.addr (m : Remap) (pa : Nat) : Nat := 2 ^ 29 * mapped m.units (pa / 2 ^ 29) + pa % 2 ^ 29

/-- The allocation units of an image and where they go: the unit of the same number (R347 step 2); none where the
partition lacks one. DESIGN CHOICE, unsafe: log entry 40. -/
def unitMap (old new : List (Nat × Nat)) : Option (Tab Nat) :=
  old.foldl (fun acc u =>
    match acc, new.find? (fun v => v.1 == u.1) with
    | some t, some v => some (Tab.set u.2 v.2 t)
    | _, _ => none) (some [])

/-- Loads a granule record. -/
def State.loadGranule (m : Remap) (part : Nat) (s : State) (u : Saved) : State :=
  match u.name, u.data with
  | .granule g, .bytes bs ms =>
    let n := m.addr (4096 * g) / 4096
    let s1 := s.writeDram [{ at_ := 4096 * n, bytes := bs }] (ms.map (128 * n + ·))
    s1.setTag (s1.epochOf part (homeDie (4096 * n))).fresh (.granule n)
  | _, _ => s

/-- Rebuilds the entries of a table and of those below it: leaves and pointers take the new places of the allocation
units, and a leaf's CTP that of its page's first tag (R327, R347 step 2). -/
def State.rebuild (m : Remap) (own : Nat) (table : Nat) : List (Nat × Nat) → State → State
  | [], s => s
  | (_, n) :: rest, s =>
    (List.range (2 ^ n)).foldl (fun t i =>
      let e := table + 16 * i
      let w := t.dramNat e 8
      let pa := bits w 51 9 * 512
      let home := bits w 58 57
      if !bit w 63 then t
      else if bit w 62 then
        if home = 0 || (home = 1 && !bit w 53 && bits pa 47 39 == own) then
          let a := if home = 0 then m.addr pa else pa / 2 ^ 39 * 2 ^ 39 + m.addr (pa % 2 ^ 39)
          let v := t.dramNat (e + 8) 8
          let ctp := bits v 51 5 * 32
          let u := if home = 0 && ctp != 0 then v - ctp + tagAddr (a / 4096) else v
          t.writeDram [{ at_ := e, bytes := leBytes 8 (w - pa + a) ++ leBytes 8 u }] []
        else t
      else
        State.rebuild m own (m.addr pa) rest (t.writeDram [{ at_ := e, bytes := leBytes 8 (w - pa + m.addr pa) }] [])) s

/-- The newest record of a unit in a chain. -/
def savedOf (chain : List Image) (name : UnitName) : Option UnitData :=
  chain.findSome? (fun i => (i.units.find? (fun u => u.name == name)).map (·.data))

/-- The registers of a gang from its granule records. -/
def gangRegs (chain : List Image) (c g n : Nat) : Tab LaneVal :=
  (List.range n).flatMap (fun k => match savedOf chain (.regs c g k) with | some (.lanes vs) => vs | _ => [])

/-- The window of a context from the records of the banks that it lay in. -/
def Ctx.fillWindow (chain : List Image) (x : Ctx) : Ctx :=
  (List.range (banksOf x.half)).foldl (fun y i =>
    let b := firstBank x.half + i
    match savedOf chain (.bank x.core b) with
    | some (.bytes bs ms) =>
      (List.range bankRows).foldl (fun z r => (x.rowWord b r).elim z (fun w =>
        let marks := if ms.contains r then NatSet.add w z.windowMarks else z.windowMarks
        { z with window := z.window.putBytes (4 * w) ((bs.drop (4 * r)).take 4), windowMarks := marks })) y
    | _ => y) { x with window := [], windowMarks := [] }

/-- The slots and pairs of a held array from its slot records. -/
def MArray.fill (chain : List Image) (a : Nat) (m : MArray) : MArray :=
  (List.range 4).foldl (fun y t =>
    match savedOf chain (.slot a t) with
    | some (.acc k p) => { y with slots := mapNth t (fun _ => k) y.slots, pairs := mapNth (t / 2) (fun _ => p) y.pairs }
    | _ => y) m

/-- Whether a captured context was stopping for a fault whose record had not been made (R216, R348). -/
def Ctx.faultDue (x : Ctx) : Bool := x.run == .stopping && x.fault.isSome

/-- Whether a captured context had stopped for a fault: its policy decides of it (R216). -/
def Ctx.awaitsPolicy (x : Ctx) : Bool := x.run == .reported || (x.run == .sealed && x.cause == .fault) || x.faultDue

/-- Whether a restore resumes a captured context. -/
def Ctx.resumes (x : Ctx) : Bool := !x.awaitsPolicy && x.run != .terminated

/-- A captured context whole, sealed, under its new numbers (R347 step 3). One that was captured while it stopped for a
fault, or sealed after one, keeps its fault, which goes on to its policy; one that had been terminated ends. -/
def Ctx.rebuilt (chain : List Image) (m : Remap) (also : Nat) (x : Ctx) : Ctx :=
  let c := x.origin
  let y := if x.resident then
      let z := x.fillWindow chain
      { z with gangs := (List.range x.gangs.length).map (fun g => { x.gang g with regs := gangRegs chain c g (x.regsN / 8) }),
               heldArray := x.heldArray.map (MArray.fill chain x.array) }
    else x
  { y.dissolveAll with
    run := if x.run == .terminated then .terminated else if x.awaitsPolicy then .reported else .sealed,
    cause := if x.awaitsPolicy then .fault else .preempted, watches := [], tags := [], acq := none,
    also := if x.resumes then some also else none, fault := if x.awaitsPolicy then x.fault else none,
    launch := mapped m.launches x.launch,
    slots := y.slots.map (fun e => (e.1, { e.2 with cmd := mapped m.cmds e.2.cmd })) }

/-- A captured command under its new numbers. -/
def Cmd.rebuilt (m : Remap) (part : Nat) (c : Cmd) : Cmd :=
  { c with
    part := part, ctx := mapped m.ctxs c.ctx,
    data := if c.eng = 2 && c.op = 4 then c.data.map (mapped m.cmds) else c.data,
    origin := match c.origin with
      | .ring x g sl q k d => .ring (mapped m.ctxs x) g sl q k d
      | o => o }

/-- Numbers for a list of old ones: from a counter on. -/
def numbered (start : Nat) (olds : List Nat) : Tab Nat :=
  (olds.foldl (fun (acc : Nat × Tab Nat) o => (acc.1 + 1, Tab.set o acc.1 acc.2)) (start, [])).2

/-- The numbers that restored contexts take: their own where these are free, else new ones. -/
def State.ctxNumbers (s : State) (olds : List Nat) : Tab Nat × Nat :=
  olds.foldl (fun (acc : Tab Nat × Nat) o =>
    if (s.ctxOf o).isNone && !acc.1.any (fun e => e.2 == o) then (Tab.set o o acc.1, Nat.max acc.2 (o + 1))
    else (Tab.set o acc.2 acc.1, acc.2 + 1)) ([], s.nextCtx)

/-- What is out of a restored context's gangs goes on: the home parts of its accesses. -/
def Ctx.repostAccesses (c : Nat) (x : Ctx) : List Instr :=
  (List.range x.gangs.length).flatMap (fun g => ((x.gang g).accesses.filter (fun a => a.2.home)).map (fun a =>
    if a.2.kind.loads then Instr.loadCompletion c g a.1 else .storeAcknowledgement c g a.1))

/-- A restored run goes on (R377): its ready chunks wait again, and its unfinished SWRED nodes ask for slots again. -/
def State.resumeRun (h : Nat) (s : State) : State :=
  match s.graph h with
  | none => s
  | some g =>
    match g.run with
    | none => s
    | some r =>
      let ns := List.range r.states.length
      let s1 := if g.collective then (ns.filter (fun n => r.stateOf n == .ready)).foldl (fun t n => t.queueChunk g.part h n) s else s
      if r.choosing then (s1.modRun h (fun q => { q with slots := [] })).chooseVariant h
      else if (ns.filter (fun n => isSwred g.collective (g.node r n) && r.stateOf n != .finished && r.stateOf n != .failed)) = [] then s1
      else
        let s2 := s1.modRun h (fun q => { q with slots := [], again := true, retried := s.cycle 0 })
        (g.variantOf r.variant).slots.foldl (State.askSlot h g { r with slots := [] }) s2

/-- A logged message under the new numbers: the address that it names, or its context. -/
def flitRebuilt (m : Remap) (f : Flit) : Flit :=
  match f.tk.toNat with
  | 1 | 2 | 4 | 15 => { f with payload := leBytes 8 (m.addr (fieldIn f 0 8)) ++ f.payload.drop 8 }
  | 7 => { f with payload := leBytes 4 (mapped m.ctxs (fieldIn f 0 4)) ++ f.payload.drop 4 }
  | _ => f

/-- Replays a logged message as it was applied when received (R347 step 4). A write of the host's is one of kind 1,
a doorbell one of kind 0; a read changes nothing, and a response of a sys port has left its data with the captured access
(log entry 9). DESIGN CHOICE, unsafe: log entry 40. -/
def State.replay (m : Remap) (l : Logged) (s : State) : State :=
  let f := flitRebuilt m l.flit
  match l.chan with
  | .host v =>
    (match f.tk.toNat with
     | 0 => s.post (.notify v)
     | 1 => s.writeDram [{ at_ := fieldIn f 0 8, bytes := dataIn f 16 (fieldIn f 8 2) }] []
     | _ => s)
  | .diePath _ _ | .fabric _ _ _ =>
    match f.tk.toNat with
    | 1 => s.serveWrite l.port f
    | 2 => s.serveRead l.port f
    | 3 => s.serveData l.port f
    | 4 => s.serveAtomic l.port f
    | 5 => s.serveOld l.port f
    | 6 => s.serveAck l.port f
    | 7 => s.serveArrival l.port f
    | 10 => s.serveDecrement l.port f
    | 14 => s.serveResult true l.port f
    | 15 => s.serveReduce l.port f
    | _ => s

/-- Whether a partition has on each die as many cores as captured contexts need there (R347 step 1). -/
def coresSuffice (cores : List CoreShare) (xs : List Ctx) : Bool :=
  (List.range 4).all (fun die =>
    ((xs.filter (fun x => x.resident && dieOf x.core == die)).map (fun x => (x.core, x.half))).eraseDups.length ≤
      (cores.filter (fun c => dieOf c.core == die)).length)

/-- Whether a snapshot's image may be restored to a partition's shape: 0, or SHAPE_MISMATCH (R347 step 1, R349). DESIGN
CHOICE, unsafe: log entry 40. -/
def State.shapeCode (s : State) (part : Nat) (i : Image) : Nat :=
  match s.part part with
  | none => 0xF105
  | some p =>
    let xs := i.contexts.map (fun n => (Tab.read {} n s.imageCtxs : Ctx))
    if (p.record.pmap.length != i.packages && !i.quiescent) || !coresSuffice p.record.cores xs ||
        (unitMap i.dram p.record.dram).isNone then 0xF105 else 0

/-- Whether a partition has as many packages as an image's had (R349). -/
def State.sameShape (s : State) (part : Nat) (i : Image) : Bool :=
  (s.part part).any (fun p => p.record.pmap.length == i.packages)

/-- Whether the granules of an image go to this package (R347, R349): on the same shape every one of its logical package;
else those of a logical package go to the same index, modulo the new package count. -/
def State.homesImage (s : State) (part : Nat) (i : Image) : Bool :=
  match s.part part with
  | some p =>
    let n := Nat.max 1 p.record.pmap.length
    if s.sameShape part i && n != 1 then i.logical == s.logicalOf part else i.logical % n == s.logicalOf part % n
  | none => false

/-- Puts the package state of an image back (Table 13-9, kind 0x0A). -/
def State.loadPackage (part : Nat) (m : Remap) (i : Image) (s : State) : State :=
  let fixRun := fun (r : Run) => { r with cmd := mapped m.cmds r.cmd }
  { s with
    graphs := i.graphs.foldl (fun t e => Tab.set e.1 { e.2 with part := part, run := e.2.run.map fixRun } t) s.graphs
    nextHandle := i.graphs.foldl (fun n e => Nat.max n (e.1 + 1)) s.nextHandle
    launches := i.launches.foldl (fun t e => Tab.set (mapped m.launches e.1) e.2 t) s.launches
    pool := (i.pool.filterMap (fun n => match n.work with
      | .launch l => some { n with work := .launch (mapped m.launches l), part := part, victims := [], looked := false, room := [] }
      | .command k => some { n with work := .command (mapped m.cmds k), part := part, victims := [], looked := false, room := [] }
      | .saved _ | .entry _ _ _ => none)).foldl (fun t n => poolInsert n t) s.pool
    pendings := i.pendings.foldl (fun t e => Tab.set e.1 { e.2 with use := match e.2.use with
      | .lanes c g a => .lanes (mapped m.ctxs c) g a
      | .command k => .command (mapped m.cmds k)
      | u => u } t) s.pendings
    unsent := s.unsent ++ (i.unsent.filter (fun u => match u.use with | .code _ _ _ _ => false | _ => true)).map (fun u =>
      { u with part := part })
    scopeBars := s.scopeBars ++ i.bars.map (fun b => { b with loc := m.addr b.loc, ctx := mapped m.ctxs b.ctx }) }

/-- Goes on with the commands of graphs and chains that an image held. -/
def State.repostNodeCmds (ks : List Nat) (s : State) : State :=
  { s with agenda := s.agenda ++ ks.filterMap (fun k =>
      match s.cmd k with
      | none => none
      | some c =>
        if c.state != .published then some (Instr.commandCompletion k)
        else if s.pool.any (fun n => n.work == .command k) then none
        else some (.engineCommandStart k)) }

/-- The captured contexts of an image: their numbers among the captured ones, and what they hold. -/
def State.captured (i : Image) (s : State) : List (Nat × Ctx) :=
  i.contexts.map (fun n => (n, Tab.read ({} : Ctx) n s.imageCtxs))

/-- The front-end commands of an image: those of its graphs and chains, and those of its contexts. -/
def State.capturedCmds (i : Image) (s : State) : List (Nat × Cmd) :=
  i.nodeCmds ++ i.contexts.flatMap (fun n => Tab.read [] n s.imageCmds)

/-- How a restore renumbers what the images hold: units by the unit map, commands and launches from the next free
numbers, contexts as `ids` says. DESIGN CHOICE, unsafe: log entry 40. -/
def State.remapOf (part : Nat) (i : Image) (ids : List (Nat × Nat)) (s : State) : Remap :=
  { units := match s.part part with
      | some p => (unitMap i.dram p.record.dram).getD []
      | none => []
    ctxs := ids
    cmds := numbered s.nextCmd ((s.capturedCmds i).map (·.1))
    launches := numbered (s.nextLaunch + 1) (i.launches.map (·.1)) }

/-- The granules of this package that a tile operand of a run covers: its rows from base + OFF on (R391). -/
def State.tileGranules (s : State) (part : Nat) (r : Run) (t : List Byte) : List Nat :=
  (List.range (fieldOf t 0x04 4)).flatMap (fun i =>
    match s.extent part (nthOr 0 r.bases (fieldOf t 0x00 2) + fieldOf t 0x10 8 + fieldOf t 0x0C 4 * i)
        (fieldOf t 0x08 4 * fieldOf t 0x02 2) {} with
    | .inl _ => []
    | .inr ps => (ps.filter (fun e => homeOf e.place.loc == .package)).flatMap (fun e =>
        let g := e.place.loc / 4096
        (List.range ((e.place.loc + e.len - 1) / 4096 + 1 - g)).map (g + ·)))

/-- A granule of memory whose content the spec does not state. -/
def State.freeGranule (s : State) (g : Nat) : State :=
  let (bs, t) := s.freeBytes 4096
  t.writeDram [{ at_ := 4096 * g, bytes := bs }] []

/-- Memory re-sliced for another shape (R349): how the parts of an operand go to the new packages is not stated, so what
the granules that operands of the loaded runs cover hold is free. DESIGN CHOICE, unsafe: log entry 40. -/
def State.reslice (part : Nat) (i : Image) (s : State) : State :=
  (i.graphs.flatMap (fun e => match e.2.run with
    | some r => (e.2.nodesOf r).flatMap (fun b => if e.2.collective then [] else (tilesOf b).flatMap (s.tileGranules part r))
    | none => [])).eraseDups.foldl State.freeGranule s

/-- Puts the memory of a chain back, the oldest image first, rebuilds the page tables where the units have moved, and
re-slices for another shape. -/
def State.restoreMemory (part : Nat) (m : Remap) (chain : List Image) (i : Image) (s : State) : State :=
  let s1 := ((chain.reverse.filter (s.homesImage part)).flatMap (·.units)).foldl (State.loadGranule m part) s
  let own := s.logicalOf part
  let s2 := if m.units.all (fun e => e.1 == e.2) then s1 else s1.rebuild m own (s1.rootOf part) walkLevels
  if s.sameShape part i then s2 else s2.reslice part i

/-- Puts the captured contexts and commands back under their new numbers. -/
def State.restoreCtxs (part : Nat) (m : Remap) (chain : List Image) (i : Image) (l0 next : Nat)
    (caps : List (Nat × Ctx)) (cmds : List (Nat × Cmd)) (s : State) : State :=
  { s with
    nextCtx := next, nextCmd := s.nextCmd + cmds.length, nextLaunch := l0 + 1 + i.launches.length
    cmds := cmds.foldl (fun (t : Tab Cmd) (e : Nat × Cmd) => Tab.set (mapped m.cmds e.1) (e.2.rebuilt m part) t) s.cmds
    ctxs := caps.foldl (fun (t : Tab Ctx) (e : Nat × Ctx) => Tab.set (mapped m.ctxs e.2.origin) (e.2.rebuilt chain m l0) t) s.ctxs }

/-- Puts one launch that awaits its answer back, under its context's new number. -/
def State.restoreAsk (part : Nat) (m : Remap) (s : State) (a : LaunchAsk) : State :=
  { s with launchAsks := Tab.set s.nextAsk { a with part := part, ctx := mapped m.ctxs a.ctx } s.launchAsks,
           nextAsk := s.nextAsk + 1 }.post (.launchAnswer s.nextAsk)

/-- Goes on with the accesses that the restored contexts had outstanding. -/
def State.restoreAccesses (cs : List Nat) (s : State) : State :=
  { s with agenda := s.agenda ++ cs.flatMap (fun c => match s.ctxOf c with | some x => x.repostAccesses c | none => []) }

/-- Whether a sealed context stands for its span, or is in none: the members of a span enter the pool once, together. -/
def State.spanHead (s : State) (c : Nat) : Bool :=
  match s.ctxOf c with
  | some x => (s.spanAll c x).head? == some c
  | none => false

/-- Offers the restored contexts for their new sites, under one launch record. DESIGN CHOICE, unsafe: log entry 40. -/
def State.restoreSites (part : Nat) (o : LaunchFrom) (l0 : Nat) (cs : List Nat) (s : State) : State :=
  let s1 := if cs = [] then s else { s with launches := Tab.set l0 (restoreLaunch part o cs.length) s.launches }
  cs.foldl (fun (t : State) c => if s1.spanHead c then t.saveToPool c else t) s1

/-- A restored context that had stopped for a fault goes on to its policy: where its record had not been made, it is made
now, and a fault that leaves no image terminates it (R216, R348). -/
def State.goOnStopped (c : Nat) (due : Bool) (s : State) : State :=
  match s.ctxOf c with
  | none => s
  | some x =>
    match x.fault with
    | none => s
    | some r =>
      let t := s.modCtx c (fun y => { y with run := .sealed })
      if r.fatal then (if due then s.faultNotice c r else s).terminate c
      else if due then t.reportFault c x r
      else t.faultPolicy c x

/-- Restores the state of a chain whose newest image is `i`. DESIGN CHOICE, unsafe: log entry 40. -/
def State.restoreState (part : Nat) (o : LaunchFrom) (i : Image) (chain : List Image) (s : State) : State :=
  let caps := s.captured i
  let cmds := s.capturedCmds i
  let ids := (s.ctxNumbers (caps.map (fun e => e.2.origin))).1
  let next := (s.ctxNumbers (caps.map (fun e => e.2.origin))).2
  let l0 := s.nextLaunch
  let m := s.remapOf part i ids
  let asks := i.contexts.flatMap (fun n => Tab.read [] n s.imageAsks)
  let cs := (caps.filter (fun e => e.2.resumes)).map (fun e => mapped ids e.2.origin)
  let stopped := (caps.filter (fun e => e.2.awaitsPolicy && e.2.run != .reported)).map (fun e => (mapped ids e.2.origin, e.2.faultDue))
  let s4 := (((s.restoreMemory part m chain i).restoreCtxs part m chain i l0 next caps cmds).loadPackage part m i)
  let s6 := (asks.foldl (fun (t : State) a => t.restoreAsk part m a) s4).restoreAccesses cs
  let s7 := i.logs.foldl (fun t l => t.replay m l.2) s6
  let s8 := (i.graphs.map (·.1)).foldl (fun (t : State) h => t.resumeRun h) s7
  let s9 := (s8.repostNodeCmds (i.nodeCmds.map (fun e => mapped m.cmds e.1))).restoreSites part o l0 cs
  stopped.foldl (fun (t : State) e => t.goOnStopped e.1 e.2) s9

/-- Restores a chain of images of the partition's domain (R347): its code, and the state. DESIGN CHOICE, unsafe: log
entry 40. -/
def State.restoreChain (part : Nat) (o : LaunchFrom) (ssn : Nat) (s : State) : Nat × State :=
  let dom := s.domOf part
  match (if dom = 0 then none else s.chainOf dom s.images.length ssn), s.part part with
  | some (i :: older), some p =>
    if s.shapeCode part i != 0 then (0xF105, s)
    else if s.restorePrio part ((((s.captured i).map (·.2)).filter Ctx.resumes) ++ i.launches.map (·.2.tmpl)) != 0 then (0xF103, s)
    else
      (0, p.record.vfs.foldl (fun (t : State) (v : VfRecord) => t.setPage v.vf 0x118 8 ssn)
        (s.restoreState part o i (i :: older)))
  | _, _ => (0xF104, s)

/-- A restore of either kind: the code, and whether workgroups have been started that it waits for. -/
def State.restore (part : Nat) (o : LaunchFrom) (at_ kind ssn : Nat) (s : State) : Nat × State :=
  if kind = 0 then s.restoreHeld part o at_ else s.restoreChain part o ssn

end Sys2Proof.Machine
end

