-- ==== Sys2Proof/Machine/Gload.lean ====
section
/-! DEFINITION. Graph images (R370, R371, R388-R390): reading one from a partition's memory and the checks of GLOAD. -/

namespace Sys2Proof.Machine

/-! ### Nodes (Tables 14-7, 15-10) -/

/-- Whether a chunk operation of 32 bytes keeps its layout (Table 14-7): its kind among those allowed, its operation, its
length, its bindings, and the fields that its kind leaves zero. -/
def chunkOk (kinds : List Nat) (nbind : Nat) (b : List Byte) : Bool :=
  let k := nodeKind b
  let rop := fieldOf b 0x01 1
  let len := fieldOf b 0x04 4
  let peer := k == 1 || k == 2
  kinds.contains k && (if k == 2 || k == 3 then rop ≤ 6 && len % ropSize rop == 0 else rop == 0) &&
  1 ≤ len && len ≤ 1048576 && fieldOf b 0x08 2 < nbind && fieldOf b 0x0A 2 < nbind &&
  (peer || (fieldOf b 0x0C 2 == 0 && (fieldOf b 0x0E 2 == 0xFFFF || fieldOf b 0x0E 2 == 0)))

/-- Whether a node of a collective variant is well formed (R371, R390). -/
def opOk (nbind nops nnode : Nat) (b : List Byte) : Bool :=
  chunkOk [1, 2, 3, 4] nbind b &&
  (if nodeKind b = 3 then fieldOf b 0x20 1 ≤ fieldOf b 0x21 1 else fieldOf b 0x20 2 == 0) &&
  (nodeSuccs true b).all (fun n => n < nops && n < nnode)

/-- Whether PLACE of a launch is no reserved value (R389). -/
def placeOk (p : Nat) : Bool :=
  bits p 5 2 == 0 && (match bits p 7 6 with
    | 0 | 1 => true
    | 2 => bits p 1 0 != 0
    | _ => false)

/-- Whether a tile operand keeps its layout. -/
def tileOk (nbind : Nat) (t : List Byte) : Bool :=
  fieldOf t 0 2 < nbind && (fieldOf t 2 2 == 1 || fieldOf t 2 2 == 2 || fieldOf t 2 2 == 4)

/-- Whether the words of a node's command that RELOC does not replace keep their table. -/
def bodyOk (b : List Byte) : Bool :=
  let ws := wordsOf 8 ((b.drop 0x20).take 32)
  let moved := fun i => bit (fieldOf b 0x07 1) i || (i != 0 && bit (fieldOf b 0x07 1) (i - 1))
  let w0 := nthOr 0 ws 0
  let op := bits w0 27 24
  let head := bits w0 31 28 == kindEngine (nodeKind b) && bits w0 21 19 ≤ 5
  match nodeKind b with
  | 2 => head && op ≤ 3 && (bodyBad 2 op ws).all (fun e => !e.2 || moved e.1)
  | 4 => head && op ≤ 5 && (bodyBad 4 op ws).all (fun e => !e.2 || moved e.1)
  | 5 => head && op == 0 && (bodyBad 5 op ws).all (fun e => !e.2 || moved e.1)
  | 6 => w0 ≤ 1
  | _ => true

/-- Whether a walker node is well formed (Table 15-10, R390). -/
def walkerOk (nbind nnode : Nat) (b : List Byte) : Bool :=
  let k := nodeKind b
  let prio := fieldOf b 0x01 1
  let nsucc := fieldOf b 0x04 1
  let reloc := fieldOf b 0x07 1
  let ws := wordsOf 8 ((b.drop 0x20).take 32)
  1 ≤ k && k ≤ 6 && (prio ≤ 23 || prio == 0xFF) && nsucc ≤ 8 && fieldOf b 0x05 1 ≤ 2 &&
  (if k = 1 then placeOk (fieldOf b 0x06 1) else fieldOf b 0x06 1 == 0) && !bit reloc 7 && zeroAt b 0x08 8 &&
  (List.range 8).all (fun i => let n := fieldOf b (0x10 + 2 * i) 2; if i < nsucc then n < nnode else n == 0xFFFF) &&
  (maskBits 7 reloc).all (fun i => bits (nthOr 0 ws (i + 1)) 31 24 < nbind) &&
  (k != 3 || chunkOk [1, 2, 4] nbind ((b.drop 0x20).take 32)) && bodyOk b && (tilesOf b).all (tileOk nbind)

/-! ### Graphs (R390) -/

/-- How many nodes list a node among their successors. -/
def predCount (coll : Bool) (ns : List (List Byte)) (n : Nat) : Nat :=
  (ns.filter (fun b => (nodeSuccs coll b).contains n)).length

/-- Whether no cycle is left among nodes once those that no other leads to have been taken away, f times. -/
def acyclic (succs : List (List Nat)) : Nat → List Nat → Bool
  | 0, left => left = []
  | f + 1, left =>
    let next := left.filter (fun n => left.any (fun m => (nthOr [] succs m).contains n))
    if next.length = left.length then left = [] else acyclic succs f next

/-- The logical extent of a tile operand: rows and columns from its first element on. -/
def tileRect (t : List Byte) : Nat × Nat × Nat × Nat := (fieldOf t 0x18 4, fieldOf t 4 4, fieldOf t 0x1C 4, fieldOf t 8 4)

/-- The bytes that a tile operand spans behind its base. -/
def tileSpan (t : List Byte) : Nat × Nat :=
  (fieldOf t 0x10 8, (fieldOf t 4 4 - 1) * fieldOf t 0x0C 4 + fieldOf t 8 4 * fieldOf t 2 2)

/-- Whether two operands lie over one another, in memory and in the same logical coordinates (R391). DEDUCED, unsafe:
log entry 38. -/
def tilesOverlap (a b : List Byte) : Bool :=
  let (r, n, c, m) := tileRect a
  let (q, k, d, l) := tileRect b
  fieldOf a 0 2 == fieldOf b 0 2 && meets (tileSpan a).1 (tileSpan a).2 (tileSpan b).1 (tileSpan b).2 &&
  meets r n q k && meets c m d l

/-- Whether some operand of a list overlaps a later one. -/
def someOverlap : List (List Byte) → Bool
  | [] => false
  | t :: ts => ts.any (tilesOverlap t) || someOverlap ts

/-- Whether the nodes of a walker graph pass the checks of GLOAD. -/
def walkerGraphOk (nbind : Nat) (ns : List (List Byte)) : Bool :=
  ns.all (walkerOk nbind ns.length) &&
  (List.range ns.length).all (fun n => nodePreds (nthOr [] ns n) == predCount false ns n) &&
  acyclic (ns.map (nodeSuccs false)) ns.length (List.range ns.length) && !someOverlap (ns.flatMap tilesOf)

/-- Whether a fallback chain from a variant ends in one that needs no slot (R370). -/
def fallsFree (vs : List Variant) : Nat → Nat → Bool
  | 0, _ => false
  | f + 1, i =>
    let v := nthOr { fallback := none, planes := 1, ops := [] } vs i
    match v.fallback with
    | none => v.planes == 0
    | some j => j < vs.length && fallsFree vs f j

/-- Whether a variant's operations pass the checks. -/
def variantOk (nbind nnode : Nat) (v : Variant) : Bool :=
  v.ops.all (opOk nbind v.ops.length nnode) &&
  (List.range v.ops.length).all (fun n => predCount true v.ops n ≤ nodePreds (nthOr [] v.ops n))

/-- Whether the header keeps Table 15-8. -/
def graphHeaderOk (b : List Byte) : Bool :=
  fieldOf b 0 4 == 0x48505247 && fieldOf b 4 2 == 1 && fieldOf b 6 1 ≤ 1 && fieldOf b 7 1 ≤ 23 && 1 ≤ fieldOf b 8 2 &&
  fieldOf b 0x0A 2 ≤ 255 && (if fieldOf b 6 1 = 0 then fieldOf b 0x0C 2 == 1 else 1 ≤ fieldOf b 0x0C 2 && fieldOf b 0x0C 2 ≤ 4) &&
  zeroAt b 0x0E 2 && zeroAt b 0x18 40

/-- Cuts a byte string into records of n bytes; f bounds their number. -/
def recordsOf (n : Nat) : Nat → List Byte → List (List Byte)
  | 0, _ => []
  | f + 1, bs => if bs.length < n || n = 0 then [] else bs.take n :: recordsOf n f (bs.drop n)

/-- Reads one variant of a collective graph; none where its entry breaks its layout or does not translate. -/
def State.readVariant (p va : Nat) (e : List Byte) (s : State) : Option Variant × State :=
  let nops := fieldOf e 0 2
  if !(zeroAt e 3 1 && zeroAt e 0x10 16) || nops = 0 then (none, s)
  else
    match s.frontRead p (va + fieldOf e 4 4) (64 * nops) { r := true } with
    | (none, t) => (none, t)
    | (some bs, t) =>
      (some { fallback := if fieldOf e 2 1 = 0xFF then none else some (fieldOf e 2 1), planes := fieldOf e 8 8,
              ops := recordsOf 64 nops bs }, t)

/-- Reads variants one after the other. -/
def State.readVariants (p va : Nat) : List (List Byte) → State → Option (List Variant) × State
  | [], s => (some [], s)
  | e :: es, s =>
    match s.readVariant p va e with
    | (none, t) => (none, t)
    | (some v, t) =>
      match State.readVariants p va es t with
      | (none, u) => (none, u)
      | (some vs, u) => (some (v :: vs), u)

/-- Reads and checks a graph image (R388-R390). -/
def State.readGraph (p va : Nat) (s : State) : Option Graph × State :=
  match s.frontRead p va 64 { r := true } with
  | (none, t) => (none, t)
  | (some b, t) =>
    if !graphHeaderOk b then (none, t)
    else
      let nnode := fieldOf b 8 2
      let nbind := fieldOf b 0x0A 2
      let at_ := va + fieldOf b 0x10 8
      let g : Graph := { part := p, collective := fieldOf b 6 1 == 1, defPrio := fieldOf b 7 1, nbind := nbind }
      if !g.collective then
        match t.frontRead p at_ (128 * nnode) { r := true } with
        | (none, u) => (none, u)
        | (some bs, u) =>
          let ns := recordsOf 128 nnode bs
          (if walkerGraphOk nbind ns then some { g with nodes := ns } else none, u)
      else
        match t.frontRead p at_ (32 * fieldOf b 0x0C 2) { r := true } with
        | (none, u) => (none, u)
        | (some es, u) =>
          match u.readVariants p va (recordsOf 32 4 es) with
          | (none, w) => (none, w)
          | (some vs, w) =>
            (if vs.all (variantOk nbind nnode) && (List.range vs.length).all (fallsFree vs 5) then
              some { g with variants := vs } else none, w)

/-- Loaded graphs and walker nodes of a package (Table 15-9). -/
def graphLimit : Nat := 1024
def walkerNodeLimit : Nat := 1048576

/-- Whether the package has room for a graph. -/
def State.graphRoom (s : State) (g : Graph) : Bool :=
  s.graphs.length < graphLimit &&
  (s.graphs.map (fun e => e.2.nodes.length)).foldl (· + ·) 0 + g.nodes.length ≤ walkerNodeLimit

/-- Loads a graph (R390): its handle, or the code that refuses it. DEDUCED, unsafe: log entry 38. -/
def State.loadGraph (p va : Nat) (s : State) : (Nat ⊕ Nat) × State :=
  match s.readGraph p va with
  | (none, t) => (.inl 0xF001, t)
  | (some g, t) =>
    if !t.graphRoom g then (.inl 0xF106, t)
    else (.inr t.nextHandle, { t with graphs := Tab.set t.nextHandle g t.graphs, nextHandle := t.nextHandle + 1 })

end Sys2Proof.Machine
end

