-- ==== Sys2Proof/Machine/Chains.lean ====
section
/-! DEFINITION. Virtual command processors and command chains (R383-R387, R394), and what the policy hooks answer
(R381). -/

namespace Sys2Proof.Machine

/-! ### Chains and entries (R384, R385, Table 15-4) -/

/-- Changes a chain. -/
def State.modChain (v c : Nat) (f : Chain → Chain) (s : State) : State :=
  { s with chains := Tab.write {} (4 * v + c) (f (s.chain v c)) s.chains }

/-- An entry that firmware has taken. -/
def State.entry (s : State) (v c n : Nat) : Option Entry := Tab.find n (s.chain v c).entries

/-- Changes an entry. -/
def State.modEntry (v c n : Nat) (f : Entry → Entry) (s : State) : State :=
  s.modChain v c (fun k => { k with entries := Tab.update n f k.entries })

/-- Fields of an entry. -/
def Entry.kind (e : Entry) : Nat := fieldOf e.bytes 0 1
def Entry.flags (e : Entry) : Nat := fieldOf e.bytes 1 1
def Entry.tgt (e : Entry) : Nat := fieldOf e.bytes 4 4
def Entry.arg (e : Entry) : Nat := fieldOf e.bytes 8 8
def Entry.result (e : Entry) : Nat := fieldOf e.bytes 0x10 8
/-- Words of an entry's body. -/
def Entry.body (e : Entry) : List Nat := wordsOf 8 ((e.bytes.drop 0x20).take 32)
/-- FENCE, IRQ and SVC. -/
def Entry.fence (e : Entry) : Bool := bit e.flags 0
def Entry.irq (e : Entry) : Bool := bit e.flags 1
def Entry.svc (e : Entry) : Bool := bit e.flags 2

/-- Whether the chains of a function are firmware's own: those of partition 0 (R396). DEDUCED, unsafe: log entry 39.
-/
def State.firmwareVf (s : State) (v : Nat) : Bool := (s.vf v).part == 0

/-- The fields that every entry has (Table 15-4). DEDUCED, unsafe: log entry 39. -/
def State.entryFieldsOk (s : State) (v : Nat) (e : Entry) : Bool :=
  bits e.flags 7 3 == 0 && (!e.svc || s.firmwareVf v) && zeroAt e.bytes 2 2 && bits e.tgt 31 22 == 0 && bits e.tgt 7 2 < 40 &&
  zeroAt e.bytes 0x18 8

/-- Whether an ENGINE entry's command names a window or an aperture that it may not (Table 15-6; of ERD RPT, R404). -/
def engineEndsBad (svc : Bool) (c : Cmd) : Bool :=
  match c.eng, c.op with
  | 2, 4 => false
  | 2, _ => c.fd || c.rcb.isSome || (c.sources.flatten ++ c.targets.flatten).any (fun a => a.kind == 1 || a.kind == 2 || (a.kind == 3 && !svc))
  | 4, 1 => bit (c.w 1) 31
  | 5, _ => bits (c.w 3) 7 0 != 0
  | 6, _ => c.w 1 != 0
  | _, _ => false

/-- The issue-time table of an engine's command, for the engines that a chain may name. -/
def engineTable (eng op : Nat) : Option (List Nat → List (Nat × Bool)) :=
  match eng, op with
  | 2, 0 => some (xcpBad 0)
  | 2, 1 => some (xcpBad 1)
  | 2, 2 => some xexpBad
  | 2, 3 => some xpackBad
  | 2, 4 => some xcanBad
  | 3, 6 => some rowqBad
  | 3, o => if o < 6 then some (rowBad o) else none
  | 4, 0 => some snapBad
  | 4, 1 => some snapqBad
  | 4, 2 => some snaprelBad
  | 5, 0 => some (runBad true)
  | 5, 1 => some (runBad false)
  | 6, 0 => some erdBad
  | _, _ => none

/-- The command of an ENGINE entry: its cluster's quad as its core (TGT). -/
def engineCmd (p v c n : Nat) (e : Entry) : Cmd :=
  let w0 := nthOr 0 e.body 0
  { origin := .chain v c n, part := p, ctx := 0, core := 160 * bits e.tgt 1 0 + 4 * bits e.tgt 7 2,
    eng := bits w0 31 28, op := bits w0 27 24, words := e.body.map (BitVec.ofNat 32), svc := e.svc }

/-- Whether an ENGINE entry keeps its row of Table 15-6; word 0's [18:16] are ignored (Table 1-3). -/
def engineOk (p v c n : Nat) (e : Entry) : Bool :=
  let k := engineCmd p v c n e
  bits (k.w 0) 15 8 == 0 && bits (k.w 0) 21 19 ≤ 5 && !engineEndsBad e.svc k &&
  (match engineTable k.eng k.op with | some bad => (bad e.body).all (fun x => !x.2) | none => false)

/-- Words 0 to 4 of the command that a RUN entry gives (Table 15-6). -/
def Entry.runWords (e : Entry) : List Nat := [0, nthOr 0 e.body 0, 0, nthOr 0 e.body 2, nthOr 0 e.body 3]

/-- PLACE of TGT. -/
def Entry.place (e : Entry) : Nat := bits e.tgt 21 14

/-- Whether an entry's kind is permitted and its fields keep its row of Table 15-6 (R386). DEDUCED, unsafe: log entry
39. -/
def State.entryOk (s : State) (v c n : Nat) (e : Entry) : Bool :=
  s.entryFieldsOk v e &&
  (match e.kind with
   | 1 => engineOk (s.vf v).part v c n e
   | 2 => placeOk e.place
   | 3 | 4 | 7 | 8 => true
   | 5 => nthOr 0 e.body 4 ≤ 1 && (runBad (nthOr 0 e.body 4 == 1) e.runWords).all (fun x => !x.2)
   | 6 => nthOr 0 e.body 0 ≤ 1
   | _ => false)

/-! ### Completion of entries (R385, R386) -/

/-- An entry ends with an error code, or with none, and a value. -/
def State.endEntry (v c n code value : Nat) (s : State) : State :=
  (s.modEntry v c n (fun e => { e with err := code != 0, code := code, value := value })).post (.chainEntryCompletion v c n)

/-- The command of an entry, where it has one. -/
def State.cmdOfEntry (s : State) (v c n : Nat) : Option (Nat × Cmd) := s.cmds.find? (fun e => e.2.origin == .chain v c n)

/-- Whether an access of a partition at a peer has not been performed: it is out, or waits to be sent. An arrival on a
barrier is none. -/
def State.accessOut (s : State) (p : Nat) : Bool :=
  s.pendings.any (fun e => (s.vf (e.1 / 4096)).part == p && e.2.kind != 7) || s.unsent.any (fun m => m.part == p) ||
  s.cmds.any (fun e => e.2.part == p && ((e.2.toRead != [] && !e.2.halted) || e.2.toWrite.any (fun o => o.kind != 7)))

/-- Whether a translation of a partition may still be in use: an access that has not been performed, or an engine command
that has been accepted and has not finished translating (R394). -/
def State.translating (s : State) (p : Nat) : Bool :=
  s.cmds.any (fun e => e.2.part == p && e.2.eng ≤ 3 && e.2.state == .started && (e.2.eng != 2 || e.2.pos == 0)) ||
  s.accessOut p ||
  s.ctxs.any (fun e => e.2.part == p && e.2.gangs.any (fun g => g.accesses.any (fun a => !a.2.done)))

/-- Whether what an entry started has ended. -/
def State.entryEnded (s : State) (v c n : Nat) (e : Entry) : Bool :=
  e.st == .started &&
  (match s.cmdOfEntry v c n with | some (_, k) => k.state == .completed && !k.destArr | none => true) &&
  !s.launches.any (fun l => l.2.origin == .chain v c n) && !s.hooks.contains (.chainEntry v c n) &&
  (e.kind != 7 || !s.translating (s.vf v).part) && (e.kind != 8 || !s.frontOut (s.vf v).part)

/-- The entries that CSEQ passes: those that have completed, in order; f bounds them. -/
def Chain.pass : Nat → Chain → Chain
  | 0, k => k
  | f + 1, k =>
    match Tab.find k.cseq k.entries with
    | some e => if e.st == .done then Chain.pass f { k with cseq := k.cseq + 1, entries := Tab.drop k.cseq k.entries } else k
    | none => k

/-- The first entry of a chain that waits, where it may start: with FENCE only once every earlier one has completed. -/
def Chain.nextStart (k : Chain) : Option (Nat × Entry) :=
  match k.entries.find? (fun e => e.2.st == .waiting) with
  | some (n, e) => if e.fence && k.entries.any (fun d => d.1 < n && d.2.st != .done) then none else some (n, e)
  | none => none

/-- PMAX of a partition: the priority of entries of no priority of their own (R386). -/
def State.pmaxOf (s : State) (p : Nat) : Nat := match s.part p with | some x => x.record.pmax | none => 0

/-- The priority of an entry's node: of RUN that of its graph, of every other kind the partition's PMAX (R386). -/
def State.entryPrio (s : State) (v : Nat) (e : Entry) : Nat :=
  match e.kind, s.graph (nthOr 0 e.body 0) with
  | 5, some g => g.defPrio
  | _, _ => s.pmaxOf (s.vf v).part

/-- An entry whose action is its whole work enters the ready pool as a node with no predecessors (R386, R392). -/
def State.poolEntry (v c n : Nat) (e : Entry) (s : State) : State :=
  let p := s.entryPrio v e
  (s.modEntry v c n (fun y => { y with st := .pooled })).enqueue
    { work := .entry v c n, part := (s.vf v).part, prio := p, eff := p, since := 0, cls := 2, key := 2 ^ 32 + 4 * v + c }

/-- The kinds whose entries are nodes of their own: GLOAD, GUNLOAD, RUN, TINV, CNTR; ENGINE, LAUNCH and RESTORE enter what
they start. -/
def ownNode (kind : Nat) : Bool := kind == 3 || kind == 4 || kind == 5 || kind == 7 || kind == 8

/-- The next entry of a chain starts; entries that are not permitted complete at once (R386). f bounds those. DESIGN
CHOICE, unsafe: log entry 58. -/
def State.askStart (v c : Nat) : Nat → State → State
  | 0, s => s
  | f + 1, s =>
    match (s.chain v c).nextStart with
    | none => s
    | some (n, e) =>
      if s.entryOk v c n e then
        if ownNode e.kind then State.askStart v c f (s.poolEntry v c n e) else s.post (startOf v c n e.kind)
      else State.askStart v c f ((s.modEntry v c n (fun y => { y with st := .started })).endEntry v c n 0xF101 0)

/-- The next entry of a chain starts. -/
def State.startNext (v c : Nat) (s : State) : State := s.askStart v c ((s.chain v c).entries.length + 1)

/-- CHAIN_ENTRY_COMPLETION (R385, R386): what an entry started has ended: RESULT is written, then CSEQ rises as far as
entries have completed in order, IRQ interrupts the host, and the next entry may start. DESIGN CHOICE, safe: log entry
82. -/
def execChainEntryCompletion (vf chain entry : Nat) (s : State) : Result :=
  .next (match s.entry vf chain entry with
  | none => s
  | some e0 =>
    if !s.entryEnded vf chain entry e0 then s
    else
      let (e, s1) := match s.cmdOfEntry vf chain entry with
        | some (k, c) => ({ e0 with err := c.err, code := if c.err then c.code else 0,
                                    value := c.result.toNat },
                          { s with cmds := Tab.drop k s.cmds })
        | none => (e0, s)
      let p := (s.vf vf).part
      let status := 2 ^ 31 + 2 ^ 30 * ofBool e.err + e.code % 2 ^ 16
      let s2 := (s1.writeVa p e.result (leBytes 4 status ++ leBytes 4 e.value)).getD s1
      let s3 := (s2.modEntry vf chain entry (fun _ => { e with st := .done })).modChain vf chain (fun k =>
        if entry < k.first then { k with entries := Tab.drop entry k.entries } else Chain.pass (k.entries.length + 1) k)
      let s4 := if e.irq then s3.modVf vf (fun x => { x with irqs := x.irqs + 1 }) else s3
      (s4.showPages p).startNext vf chain)

/-! ### NOTIFY and CHAIN_ENABLE (R384, R385) -/

/-- Takes the published entries of a chain; a chain whose TAIL runs more than SIZE ahead stops, and the fault queue is
told. DEDUCED, unsafe: log entry 39. -/
def State.takeEntries (v : Nat) (s : State) (c : Nat) : State :=
  let k := s.chain v c
  if !k.en then s
  else
    let ahead := (s.pageNat v (0x050 + 32 * c) 4 + 2 ^ 32 - (k.head - k.first) % 2 ^ 32) % 2 ^ 32
    if k.size < ahead then
      ((s.modChain v c (fun y => { y with en := false })).setPage v (0x04C + 32 * c) 4 0).notice (s.vf v).part 4 (leBytes 4 c)
    else
      let t := (List.range ahead).foldl (fun (t : State) i =>
        let n := k.head + i
        let (bs, u) := t.frontRead (s.vf v).part (k.base + 64 * ((n - k.first) % k.size)) 64 { r := true }
        u.modChain v c (fun y => { y with head := n + 1, entries := Tab.set n { bytes := bs.getD (List.replicate 64 0) } y.entries })) s
      (t.setPage v (0x054 + 32 * c) 4 ((k.head - k.first + ahead) % 2 ^ 32)).startNext v c

/-- NOTIFY (R384): firmware reads the page: the doorbell is logged where the host channel is open, a snapshot answer
takes effect, a request for a reading is served, waiting fault records enter the queue, published entries are taken.
DEDUCED, safe: log entry 44. -/
def execNotify (vf : Nat) (s : State) : Result :=
  .next (if (s.vf vf).st != .live then s
  else
    let p := (s.vf vf).part
    let s1 := s.logMessage p 0 (.host vf) 0 { tk := 0, vf := vf }
    let s2 := if (s1.vf vf).answered && s1.domOf p != 0 then
        (s1.answerSnapshot (s1.domOf p) (s1.pageNat vf 0x110 8)).modVf vf (fun x => { x with answered := false })
      else s1
    let s3 := if bit (s2.pageNat vf 0x228 4) 0 && (s2.vf vf).ended.isNone then s2.post (.signedReading vf) else s2
    let s4 := s3.takeRecords p
    (List.range 4).foldl (State.takeEntries vf) s4)

/-- CHAIN_ENABLE (R384): EN goes from 0 to 1: BASE and SIZE are read, and HEAD, TAIL and CSEQ return to 0; entries taken
before that have not completed go on. DESIGN CHOICE, safe: log entry 82. -/
def execChainEnable (vf chain : Nat) (s : State) : Result :=
  .next (if (s.vf vf).st != .live || 4 ≤ chain || (s.chain vf chain).en then s
  else
    let at_ := 32 * chain
    let old := s.chain vf chain
    let k : Chain := { first := old.head, en := true, base := s.pageNat vf (0x040 + at_) 8, size := s.pageNat vf (0x048 + at_) 4,
                       head := old.head, cseq := old.head, entries := old.entries.filter (fun e => e.2.st != .done) }
    ((((s.modChain vf chain (fun _ => k)).setPage vf (0x04C + at_) 4 1).setPage vf (0x050 + at_) 4 0).setPage vf (0x054 + at_) 4 0).setPage
      vf (0x058 + at_) 8 0)

/-! ### The kinds (Table 15-6) -/

/-- The action of an entry that was a node of the pool (R386). -/
def State.entryActs (v c n kind : Nat) (act : Entry → State → State) (s : State) : State :=
  match s.entry v c n with
  | some e =>
    if e.st = .pooled && e.kind = kind && !s.pool.any (fun m => m.work == .entry v c n) && (s.vf v).st == .live then
      act e (s.modEntry v c n (fun y => { y with st := .started }))
    else s
  | none => s

/-- An entry of a kind starts in its turn; the next one may then start. -/
def State.entryStarts (v c n kind : Nat) (act : Entry → State → State) (s : State) : State :=
  match (s.chain v c).nextStart with
  | some (m, e) =>
    if m = n && e.kind = kind && s.entryOk v c n e && (s.vf v).st == .live then
      (act e (s.modEntry v c n (fun y => { y with st := .started }))).startNext v c
    else s
  | none => s

/-- A command of an entry enters the ready pool (R386, R392). -/
def State.enterEntryCmd (v c : Nat) (k : Cmd) (s : State) : State :=
  let (n, t) := s.addCmd k
  let p := s.pmaxOf k.part
  t.enqueue { work := .command n, part := k.part, prio := p, eff := p, since := 0, cls := 2, key := 2 ^ 32 + 4 * v + c }

/-- ENGINE (R386). -/
def execEngine (vf chain entry : Nat) (s : State) : Result :=
  .next (s.entryStarts vf chain entry 1 (fun e t =>
    t.enterEntryCmd vf chain (engineCmd (t.vf vf).part vf chain entry e)))

/-- The launch that an entry asks for. DEDUCED, unsafe: log entry 17. -/
def State.entryLaunch (s : State) (v c n : Nat) (e : Entry) : LaunchReq :=
  { part := (s.vf v).part, origin := .chain v c n, words := e.body, place := e.place,
    cls := if bits e.place 7 6 = 1 then .die else .wider, svc := e.svc }

/-- Judges the launch of an entry, admits it or asks ADMIT first; refuse: ADMIT has refused it (R381, R386). DEDUCED,
unsafe: log entry 30. -/
def State.launchEntry (v c n : Nat) (asked refuse : Bool) (e : Entry) (s : State) : State :=
  let q := s.entryLaunch v c n e
  match s.judgeLaunch q with
  | ((lst, ld), t) =>
    if lst = 4 then t.endEntry v c n 0xF103 0
    else if lst != 0 then t.endEntry v c n 0xF102 lst
    else if !asked && t.hasPlugin q.part then t.callHook (.chainEntry v c n)
    else if refuse then t.endEntry v c n 0xF102 2
    else
      match ld with
      | some k => let (m, u) := t.addLaunch q k 0; u.modEntry v c n (fun y => { y with value := m })
      | none => t.endEntry v c n 0xF102 2

/-- CHAIN_LAUNCH (R386). -/
def execChainLaunch (vf chain entry : Nat) (s : State) : Result :=
  .next (s.entryStarts vf chain entry 2 (fun e => State.launchEntry vf chain entry false false e))

/-- GLOAD (R390). -/
def execGload (vf chain entry : Nat) (s : State) : Result :=
  .next (s.entryActs vf chain entry 3 (fun e t =>
    match t.loadGraph (t.vf vf).part e.arg with
    | (.inl code, u) => u.endEntry vf chain entry code 0
    | (.inr h, u) => u.endEntry vf chain entry 0 h))

/-- GUNLOAD (R386): refused while a run is in progress. DEDUCED, unsafe: log entry 38. -/
def execGunload (vf chain entry : Nat) (s : State) : Result :=
  .next (s.entryActs vf chain entry 4 (fun e t =>
    let h := nthOr 0 e.body 0
    match t.graph h with
    | some g =>
      if g.part != (t.vf vf).part then t.endEntry vf chain entry 0xF001 0
      else if g.run.isSome then t.endEntry vf chain entry 0xF003 0
      else { t with graphs := Tab.drop h t.graphs }.endEntry vf chain entry 0 0
    | none => t.endEntry vf chain entry 0xF001 0))

/-- The command of a RUN entry: that of a CGRUN or GRUN, with the address of its binding table (Table 15-6). -/
def runCmd (p v c n : Nat) (e : Entry) : Cmd :=
  let w := fun k => nthOr 0 e.body k
  let op := if w 4 = 1 then 0 else 1
  { origin := .chain v c n, part := p, ctx := 0, core := 0, eng := 5, op := op,
    words := [2 ^ 24 * op + 5 * 2 ^ 28, w 0, 0, w 2, w 3, 0, 0, 0].map (BitVec.ofNat 32), data := [e.arg] }

/-- CHAIN_RUN (R386, R391). DEDUCED, unsafe: log entry 38. -/
def execChainRun (vf chain entry : Nat) (s : State) : Result :=
  .next (s.entryActs vf chain entry 5 (fun e t =>
    let (k, u) := t.addCmd { runCmd (t.vf vf).part vf chain entry e with state := .started }
    match u.cmd k with
    | some c => u.startRun k c false
    | none => u))

/-- RESTORE (R347, R386). -/
def execRestore (vf chain entry : Nat) (s : State) : Result :=
  .next (s.entryStarts vf chain entry 6 (fun e t =>
    let w := fun k => nthOr 0 e.body k
    let (code, u) := t.restore (t.vf vf).part (.chain vf chain entry) e.arg (w 0) (w 1 + 2 ^ 32 * w 2)
    if code != 0 || !u.launches.any (fun l => l.2.origin == .chain vf chain entry) then u.endEntry vf chain entry code 0 else u))

/-- TINV (R394): this model translates every access through the tables as they stand; the entry completes once every
command accepted before it has finished translating. DESIGN CHOICE, unsafe: log entry 8. DEDUCED, unsafe: log entry
39. -/
def execTinv (vf chain entry : Nat) (s : State) : Result :=
  .next (s.entryActs vf chain entry 7 (fun _ t => t.endEntry vf chain entry 0 0))

/-- The counters of a partition that CNTR writes (Table 15-6). -/
def Part.counters (p : Part) : List Byte :=
  ([p.fallbacks, p.corrected, p.transient, p.retired, p.lateReplies, p.defaults, 0, 0]).flatMap (leBytes 8)

/-- CNTR (R386). DEDUCED, unsafe: log entry 39. -/
def execCntr (vf chain entry : Nat) (s : State) : Result :=
  .next (s.entryActs vf chain entry 8 (fun e t =>
    let p := (t.vf vf).part
    match t.part p with
    | none => t
    | some x =>
      if !extentOk e.arg 64 then t.endEntry vf chain entry codeAddressRange 0
      else
        match t.writeFail p e.arg 64, t.writeVa p e.arg x.counters with
        | none, some u => u.endEntry vf chain entry 0 0
        | some code, _ => t.endEntry vf chain entry code 0
        | none, none => t.endEntry vf chain entry codeAddressRange 0))

/-! ### What the hooks answer (R381) -/

/-- The partition that a hook was called for. -/
def State.hookPart (s : State) : Hook → Nat
  | .fault c => match s.ctxOf c with | some x => x.part | none => 0
  | .launchRequest k => match Tab.find k s.launchAsks with | some a => a.part | none => 0
  | .chainEntry v _ _ => (s.vf v).part
  | .run k => match s.cmd k with | some c => c.part | none => 0

/-- The scheduler acts on an answer: for FAULT resume, terminate or report; for ADMIT admit (0) or refuse (1). -/
def State.actHook (h : Hook) (answer : Nat) (s : State) : State :=
  match h with
  | .fault c => s.decideFault c answer
  | .launchRequest k =>
    match Tab.find k s.launchAsks with
    | none => s
    | some a =>
      match s.judgeLaunch a.req with
      | ((lst, some ld), t) => if lst != 0 then t.answerLaunch k a 0 lst else t.admitLaunch k a ld (answer == 1)
      | ((lst, none), t) => t.answerLaunch k a 0 lst
  | .chainEntry v c n =>
    match s.entry v c n with
    | some e => s.launchEntry v c n true (answer == 1) e
    | none => s
  | .run k =>
    match s.cmd k with
    | some c => if answer = 1 then s.endCmd k 0xF102 (if c.ring.isNone then 2 else 0) else s.startRun k c true
    | none => s

/-- The answers that Table 15-1 lists, and the default. -/
def hookListed (h : Hook) (answer : Nat) : Bool := match h with | .fault _ => answer ≤ 2 | _ => answer ≤ 1
def hookDefault (h : Hook) : Nat := match h with | .fault _ => 2 | _ => 0

/-- The default of a hook is applied, and counted against the partition. -/
def State.defaultHook (h : Hook) (s : State) : State :=
  (s.modPart (s.hookPart h) (fun p => { p with defaults := p.defaults + 1 })).actHook h (hookDefault h)

/-- POLICY_HOOK_ANSWER (R381). DESIGN CHOICE, safe: log entry 55. -/
def execPolicyHookAnswer (h : Hook) (answer : Nat) (s : State) : Result :=
  .next (if s.hooks.contains h then
    let t := { s with hooks := s.hooks.filter (· != h) }
    if hookListed h answer then t.actHook h answer else t.defaultHook h
  else s)

/-- POLICY_HOOK_TIMEOUT (R381). DESIGN CHOICE, safe: log entry 55. -/
def execPolicyHookTimeout (h : Hook) (s : State) : Result :=
  .next (if s.hooks.contains h then { s with hooks := s.hooks.filter (· != h) }.defaultHook h else s)

end Sys2Proof.Machine
end

