-- ==== Sys2Proof/Machine/CrossLane.lean ====
section
/-! DEFINITION. The cross-lane words and RDSP (R156-R161). -/

namespace Sys2Proof.Machine

/-- What a lane takes from a register of another lane (R156, R157): value and P alike; 0 with P set where the index is
poisoned. -/
def Gang.take (g : Gang) (r src : Nat) (indexP : Bool) (l : Nat) : LaneOut :=
  if indexP then { lane := l, val := 0, p := true }
  else { lane := l, val := (g.reg r src).val.toNat, p := (g.reg r src).p }

/-- A shuffle: each participating lane takes va of the lane that its vb selects (R157). -/
def State.shuffle (sel : Nat → Nat → Nat) (l : Bool) (d a b : BitVec 8) (s : State) : State :=
  s.computeAs noShadow (fields3 d a b) l d.toNat a.toNat 1
    (fun g i => g.take a.toNat (sel i (g.reg b.toNat i).val.toNat) (g.reg b.toNat i).p i)

/-- SHFL (R157). -/
def execShfl (l : Bool) (d a b : BitVec 8) (s : State) : Result := .next (s.shuffle (fun _ v => v % 32) l d a b)
/-- SHFLUP (R157). -/
def execShflup (l : Bool) (d a b : BitVec 8) (s : State) : Result :=
  .next (s.shuffle (fun i v => if i < v then i else i - v) l d a b)
/-- SHFLDN (R157). -/
def execShfldn (l : Bool) (d a b : BitVec 8) (s : State) : Result :=
  .next (s.shuffle (fun i v => if 31 < i + v then i else i + v) l d a b)
/-- SHFLX (R157). -/
def execShflx (l : Bool) (d a b : BitVec 8) (s : State) : Result := .next (s.shuffle (fun i v => i ^^^ (v % 32)) l d a b)

/-- BCAST (R158): every participating lane takes va of the lane that the leader's vb names. -/
def execBcast (l : Bool) (d a b : BitVec 8) (s : State) : Result :=
  .next (s.computeAs noShadow (fields3 d a b) l d.toNat a.toNat 1
    (fun g i => g.take a.toNat ((s.lead b.toNat).val.toNat % 32) (s.lead b.toNat).p i))

/-- A word that writes one result into every participating lane. -/
def State.vote (l : Bool) (d a : BitVec 8) (f : List LaneVal → List Nat → Nat) (s : State) : State :=
  let on := s.enabledLanes
  let vs := on.map (fun i => s.gg.reg a.toNat i)
  s.computeAs noShadow (fields2 d a) l d.toNat a.toNat 1 (fun _ i => { lane := i, val := f vs on, p := vs.any (·.p) })

/-- VOTE any (R159). -/
def execVoteAny (l : Bool) (d a : BitVec 8) (s : State) : Result :=
  .next (s.vote l d a (fun vs _ => ofBool (vs.any (fun v => v.val.toNat % 2 == 1))))
/-- VOTE all (R159). -/
def execVoteAll (l : Bool) (d a : BitVec 8) (s : State) : Result :=
  .next (s.vote l d a (fun vs _ => ofBool (vs.all (fun v => v.val.toNat % 2 == 1))))
/-- VOTE ballot (R159). -/
def execVoteBallot (l : Bool) (d a : BitVec 8) (s : State) : Result :=
  .next (s.vote l d a (fun vs on => maskOf (((on.zip vs).filter (fun e => e.2.val.toNat % 2 == 1)).map (·.1))))
/-- VOTE eq (R159). -/
def execVoteEq (l : Bool) (d a : BitVec 8) (s : State) : Result :=
  .next (s.vote l d a (fun vs _ => ofBool (vs.all (fun v => v.val == (nthOr {} vs 0).val))))

/-! ### REDUX (R160) -/

/-- The mode that governs REDUX: that of the leader lane's slice. -/
def State.leadMode (s : State) : Mode := s.gg.modeAt s.leader

/-- The checks of REDUX: the leader's TYPE alone, then pairs, then ranges (R126, R160). -/
def State.reduxFault (accept : Nat → Bool) (d a : BitVec 8) (s : State) : Option FaultInfo :=
  let t := s.leadMode.type
  firstFault [
    faultIf (!accept t) { code := fTypeMismatch, detail0 := t, detail1 := 2 ^ sliceOfLane s.leader },
    if wide t then
      match [(d.toNat, 0), (a.toNat, 1)].filter (fun e => e.1 % 2 == 1) with
      | e :: _ => some { code := fRegPair, detail0 := e.1, detail1 := e.2 }
      | [] => none
    else none,
    s.regRange (fields2 d a) (wide t)]

/-- A REDUX word: out gives each lane's result from the participants' operands. -/
def State.redux (accept : Nat → Bool) (sh : Shadow) (l : Bool) (d a : BitVec 8)
    (out : Mode → List (Nat × Nat × Bool) → Nat → LaneOut) (s : State) : State :=
  let m := s.leadMode
  let n := if wide m.type then 2 else 1
  if s.enabledLanes = [] then s.endWordL l a.toNat n
  else
    let ops := s.enabledLanes.map (fun i => (i, s.gg.operand (wide m.type) a.toNat i, s.gg.operandP (wide m.type) a.toNat i))
    s.checked (s.reduxFault accept d a)
      (State.struck sh (s.enabledLanes.map (out m ops)) (fun t => (t.putOuts d.toNat (t.enabledLanes.map (out m ops))).endWordL l a.toNat n))

/-- s32, n32, s64 and n64. -/
def reduxInt (t : Nat) : Bool := t == 0 || t == 1 || t == 6 || t == 7

/-- One result of a fold over the participants' operands. -/
def foldOut (f : Mode → List Nat → Nat) (m : Mode) (ops : List (Nat × Nat × Bool)) (i : Nat) : LaneOut :=
  { lane := i, pair := wide m.type, val := f m (ops.map (·.2.1)), p := ops.any (·.2.2) }

/-- Folds a list with its first element as the start. -/
def fold1 (f : Nat → Nat → Nat) : List Nat → Nat
  | [] => 0
  | a :: t => t.foldl f a

/-- The exact sum of integer operands. -/
def exactSum (t : Nat) (xs : List Nat) : Int := xs.foldl (fun r x => r + intValue t x) 0

/-- REDUX add (R160). -/
def execReduxAdd (l : Bool) (d a : BitVec 8) (s : State) : Result :=
  .next (s.redux reduxInt noShadow l d a (foldOut (fun m xs => fit m.type m.sat (exactSum m.type xs))))
/-- REDUX min (R160). -/
def execReduxMin (l : Bool) (d a : BitVec 8) (s : State) : Result :=
  .next (s.redux reduxInt noShadow l d a
    (foldOut (fun m xs => fold1 (fun x y => if intValue m.type y < intValue m.type x then y else x) xs)))
/-- REDUX max (R160). -/
def execReduxMax (l : Bool) (d a : BitVec 8) (s : State) : Result :=
  .next (s.redux reduxInt noShadow l d a
    (foldOut (fun m xs => fold1 (fun x y => if intValue m.type x < intValue m.type y then y else x) xs)))
/-- REDUX and (R160). -/
def execReduxAnd (l : Bool) (d a : BitVec 8) (s : State) : Result :=
  .next (s.redux anyType noShadow l d a (foldOut (fun _ xs => fold1 Nat.land xs)))
/-- REDUX or (R160). -/
def execReduxOr (l : Bool) (d a : BitVec 8) (s : State) : Result :=
  .next (s.redux anyType noShadow l d a (foldOut (fun _ xs => fold1 Nat.lor xs)))
/-- REDUX xor (R160). -/
def execReduxXor (l : Bool) (d a : BitVec 8) (s : State) : Result :=
  .next (s.redux anyType noShadow l d a (foldOut (fun _ xs => fold1 Nat.xor xs)))

/-- A floating-point reduction under f32 in ascending order: the first value with FTZ applied and a NaN made
canonical; a poisoned participant makes the result the poison encoding (R160). -/
def floatFold (f : FMode → Nat → Nat → Nat) (m : Mode) (ops : List (Nat × Nat × Bool)) (i : Nat) : LaneOut :=
  let bad := ops.any (fun o => o.2.2 || fp32.isPoison o.2.1)
  let canon := fun x => if fp32.isNan x then fp32.nan else fp32.ftzIn m.ftz x
  { lane := i, p := ops.any (·.2.2),
    val := if bad then fp32.poison
      else match ops.map (·.2.1) with | [] => 0 | x :: t => t.foldl (f m.fmode) (canon x) }

/-- REDUX fadd (R160). -/
def execReduxFadd (l : Bool) (d a : BitVec 8) (s : State) : Result :=
  .next (s.redux (fun t => t == 8) (fun _ o e => if e = 0 then some (fp32, o.val) else none) l d a (floatFold fp32.add))
/-- REDUX fmin (R160). -/
def execReduxFmin (l : Bool) (d a : BitVec 8) (s : State) : Result :=
  .next (s.redux (fun t => t == 8) (fun _ o e => if e = 0 then some (fp32, o.val) else none) l d a (floatFold (fun m => fp32.min m.ftz)))
/-- REDUX fmax (R160). -/
def execReduxFmax (l : Bool) (d a : BitVec 8) (s : State) : Result :=
  .next (s.redux (fun t => t == 8) (fun _ o e => if e = 0 then some (fp32, o.val) else none) l d a (floatFold (fun m => fp32.max m.ftz)))

/-- The result of a scan in a lane: the sum over the participants that a test of their lane includes (R160). -/
def scanOut (incl : Nat → Nat → Bool) (m : Mode) (ops : List (Nat × Nat × Bool)) (i : Nat) : LaneOut :=
  let mine := ops.filter (fun o => incl o.1 i)
  { lane := i, pair := wide m.type, val := fit m.type m.sat (exactSum m.type (mine.map (·.2.1))), p := mine.any (·.2.2) }

/-- REDUX scanadd (R160). -/
def execReduxScanadd (l : Bool) (d a : BitVec 8) (s : State) : Result :=
  .next (s.redux reduxInt noShadow l d a (scanOut (fun j i => j ≤ i)))
/-- REDUX escanadd (R160). -/
def execReduxEscanadd (l : Bool) (d a : BitVec 8) (s : State) : Result :=
  .next (s.redux reduxInt noShadow l d a (scanOut (fun j i => j < i)))

/-! ### RDSP (R161) -/

/-- The value of RDSP in a lane. -/
def State.position (s : State) (f l : Nat) : Nat :=
  let x := s.cx
  match f with
  | 0 => l
  | 1 => sliceOfLane l
  | 2 => s.issue.gang
  | 3 => x.gangsN
  | 4 => nthOr 0 x.wgid 0
  | 5 => nthOr 0 x.wgid 1
  | 6 => nthOr 0 x.wgid 2
  | 7 => nthOr 0 x.nwg 0
  | 8 => nthOr 0 x.nwg 1
  | _ => nthOr 0 x.nwg 2

/-- RDSP (R161). -/
def execRdsp (d f : BitVec 8) (s : State) : Result :=
  .next (s.computeAs noShadow [{ code := 0, reg := d.toNat }] false d.toNat 0 1
    (fun _ i => { lane := i, val := s.position f.toNat i, p := false }))

end Sys2Proof.Machine
end

