-- ==== Sys2Proof/Machine/EngineRun.lean ====
section
/-! DEFINITION. Engines take commands (R17), finish them (R19-R23), and let a stalled engine instruction go on (R16). -/

namespace Sys2Proof.Machine

/-! ### RING_STALL_END (R16) -/

/-- What an engine instruction fixes, with its operands. -/
structure EngArgs where
  spec : EngSpec
  l : Bool
  d : BitVec 8
  a : BitVec 8
  b : BitVec 5

/-- The engine instruction that a word is. -/
def engineArgs : Instr → Option EngArgs
  | .mma l d a b => some { spec := matrixSpec 0 mmaBad, l := l, d := d, a := a, b := b }
  | .mmag l d a b => some { spec := matrixSpec 1 mmagBad, l := l, d := d, a := a, b := b }
  | .maccFill l d a b | .maccLoad l d a b | .maccCopy l d a b =>
    some { spec := matrixSpec 2 maccBad, l := l, d := d, a := a, b := b }
  | .mst l d a b => some { spec := matrixSpec 3 mstBad, l := l, d := d, a := a, b := b }
  | .mpair l d a b => some { spec := matrixSpec 4 mpairBad, l := l, d := d, a := a, b := b }
  | .mrel l d a b => some { spec := matrixSpec 5 mrelBad, l := l, d := d, a := a, b := b }
  | .rfwd l d a b => some { spec := rnsSpec 0 rfwdBad, l := l, d := d, a := a, b := b }
  | .rmma l d a b => some { spec := rnsSpec 1 rmmaBad, l := l, d := d, a := a, b := b }
  | .rrev l d a b => some { spec := rnsSpec 2 rrevBad, l := l, d := d, a := a, b := b }
  | .rchk l d a b => some { spec := rnsSpec 3 rchkBad, l := l, d := d, a := a, b := b }
  | .rscl l d a b => some { spec := rnsSpec 4 rsclBad, l := l, d := d, a := a, b := b }
  | .xcp l d a b => some { spec := xcpSpec, l := l, d := d, a := a, b := b }
  | .xcpr l d a b => some { spec := xcprSpec, l := l, d := d, a := a, b := b }
  | .xexp l d a b => some { spec := xexpSpec, l := l, d := d, a := a, b := b }
  | .xpack l d a b => some { spec := xpackSpec, l := l, d := d, a := a, b := b }
  | .xcan l d a b => some { spec := xcanSpec, l := l, d := d, a := a, b := b }
  | .rowcpy l d a b => some { spec := rowSpec 0, l := l, d := d, a := a, b := b }
  | .rowfill l d a b => some { spec := rowSpec 1, l := l, d := d, a := a, b := b }
  | .rowand l d a b => some { spec := rowSpec 2, l := l, d := d, a := a, b := b }
  | .rowor l d a b => some { spec := rowSpec 3, l := l, d := d, a := a, b := b }
  | .rowxor l d a b => some { spec := rowSpec 4, l := l, d := d, a := a, b := b }
  | .rownot l d a b => some { spec := rowSpec 5, l := l, d := d, a := a, b := b }
  | .rowq l d a b => some { spec := rowqSpec, l := l, d := d, a := a, b := b }
  | .snap l d a b => some { spec := snapSpec 0 snapBad, l := l, d := d, a := a, b := b }
  | .snapq l d a b => some { spec := snapSpec 1 snapqBad, l := l, d := d, a := a, b := b }
  | .snaprel l d a b => some { spec := snapSpec 2 snaprelBad, l := l, d := d, a := a, b := b }
  | .cgrun l d a b => some { spec := runSpec 0, l := l, d := d, a := a, b := b }
  | .grun l d a b => some { spec := runSpec 1, l := l, d := d, a := a, b := b }
  | .erd l d a b => some { spec := erdSpec, l := l, d := d, a := a, b := b }
  | _ => none

/-- Whether a slice stalls at a full ring slot. -/
def Slice.stalled (sl : Slice) : Bool := sl.runs && sl.ringStall.isSome

/-- RING_STALL_END (R16): once the slot is free, the stalled engine instruction issues and publishes its command; where
another has taken it, the stall goes on at the next slot, and a watchdog counts it there (R209). -/
def execRingStallEnd (ctx gang sub : Nat) (s : State) : Result :=
  let t := s.asIssuing ctx gang sub Slice.stalled
  .next (if t.issuing = [] || t.cx.run != .running then s
  else if t.cx.slotBusy (t.cx.seq % 64) then s.startWatch ctx gang 0 (.ring (t.cx.seq % 64))
  else
    let u := t.modGg (fun g => g.modSlices t.issue.slices (fun _ sl => { sl with ringStall := none }))
    let sl := u.gg.slice (leastOr 0 u.issuing)
    match (decodeWord (nthOr 0 sl.clause sl.widx)).bind (fun i => (engineArgs i).map (fun e => (i, e))) with
    | some (i, e) => if u.interlocked i then u else u.issueEngine e.spec e.l e.d e.a e.b
    | none => u)

/-! ### ENGINE_COMMAND_START (R17) -/

/-- The engine instance of a command among those of its ring: matrix and RNS commands share the array. -/
def Cmd.instance_ (c : Cmd) : Nat := if c.eng = 1 then 0 else c.eng

/-- Whether a command is an XCAN. -/
def Cmd.cancels (c : Cmd) : Bool := c.eng == 2 && c.op == 4

/-- Whether an earlier command of the same ring for the same engine has not started. An XCAN waits for other XCANs only:
it acts on copies that have not started too (R304). DEDUCED, unsafe: log entry 76. -/
def State.earlierWaits (s : State) (k : Nat) (c : Cmd) : Bool :=
  s.cmds.any (fun e => e.1 < k && e.2.ring.isSome && e.2.ctx == c.ctx && e.2.instance_ == c.instance_ && e.2.state == .published &&
    (!c.cancels || e.2.cancels))

/-- Copies in flight of the contexts that are on a core (R308); those that a sealed image records as progress are in
flight on none. -/
def State.startedCopies (s : State) (core : Nat) : Nat :=
  (s.cmds.filter (fun e => e.2.eng == 2 && e.2.ring.isSome && e.2.state == .started &&
    (s.ctxOf e.2.ctx).any (fun x => x.resident && x.core == core))).length

/-- Copies that a core may have started (Table 11-12). -/
def copyLimit : Nat := 64

/-- Whether an MMAG of the array gathers its operand: later commands of its ring wait for its slot effects (R227). -/
def State.gatheringRows (s : State) (c : Cmd) : Bool :=
  c.eng ≤ 1 && s.cmds.any (fun e => e.2.ring.isSome && e.2.ctx == c.ctx && e.2.eng == 0 && e.2.op == 1 && e.2.state == .started)

/-- Whether a chunk already waits for the collective engine. -/
def State.chunkWaits (s : State) (h n : Nat) : Bool := s.chunks.any (fun e => e.2.contains (h, n))

/-- Whether the acquire of a ring command with ACQ can be made: no relaxed load of the issuing slices is still out at a
peer, whose value could be that of a release (R44 item 2, R191). -/
def State.acquired (s : State) (c : Cmd) (x : Ctx) : Bool :=
  match c.ring with
  | some r => !c.acq || !(x.gang r.gang).loadsOut r.slices
  | none => let _ := s; true

/-- Whether a published command may start now. -/
def State.mayStart (s : State) (k : Nat) (c : Cmd) : Bool :=
  c.state == .published && !s.pool.any (fun n => n.work == .command k) &&
  (match c.origin with
   | .ring ctx _ _ _ _ _ =>
     (match s.ctxOf ctx with | some x => x.run == .running && s.acquired c x | none => false) && !s.earlierWaits k c &&
     (c.eng != 2 || c.op == 4 || s.startedCopies c.core < copyLimit) && !s.gatheringRows c
   | .node h n => c.vc = 0 || !s.chunkWaits h n
   | .chain v _ _ => (s.vf v).st == .live)

/-- A restore that a graph's node asks for (R389): BODY as that of RESTORE, and its image address in words 3 and 4. -/
def State.startRestore (k : Nat) (c : Cmd) (s : State) : State :=
  match c.origin with
  | .node h n =>
    let (code, t) := s.restore c.part (.graph h n) (c.dword 3) (c.w 0) (c.dword 1)
    t.endCmd k code 0
  | _ => s

/-- An engine starts a command. -/
def State.startOn (k : Nat) (c : Cmd) (x : Ctx) (s : State) : State :=
  match c.eng with
  | 0 => s.startMatrix k c x
  | 1 => s.startRns k c x
  | 2 => if c.op = 4 then s.startCancel k c x else s.startCopy k c x
  | 3 => if c.op = 6 then s.startRowq k c else s.startRow k c
  | 4 => if c.op = 0 then s.startSnap k c else if c.op = 1 then s.startSnapq k c else s.startSnaprel k c
  | 5 => s.startRun k c false
  | 6 => s.startErd k c
  | _ => s.startRestore k c

/-- A command starts (R17): with ACQ it acquires at SCOPE (R44), then its engine judges and performs it. A walker's
chunk waits for the collective engine. -/
def State.startCmd (k : Nat) (c : Cmd) (s : State) : State :=
  match c.origin with
  | .node h n =>
    if c.vc = 3 then s.queueChunk c.part h n
    else
      let s1 := if c.eng < 7 && c.acq then s.acquire c.core c.scope else s
      let c1 := { c with state := .started }
      (s1.modCmd k (fun _ => c1)).startOn k c1 { part := c.part }
  | .chain _ _ _ =>
    let s1 := if c.acq then s.acquire c.core c.scope else s
    let c1 := { c with state := .started }
    (s1.modCmd k (fun _ => c1)).startOn k c1 { part := c.part }
  | .ring ctx _ _ _ _ _ =>
    match s.ctxOf ctx with
    | none => s
    | some x =>
      let s1 := if c.acq then s.acquire x.core c.scope else s
      let c1 := { c with state := .started, core := x.core }
      (s1.modCmd k (fun _ => c1)).startOn k c1 x

/-- ENGINE_COMMAND_START (R17). DESIGN CHOICE, unsafe: log entry 7. -/
def execEngineCommandStart (cmd : Nat) (s : State) : Result :=
  .next (match s.cmd cmd with
  | some c => if s.mayStart cmd c then s.startCmd cmd c else s
  | none => s)

/-! ### COMMAND_COMPLETION (R19-R23) -/

/-- Whether a started command still waits for something other than its own work. -/
def State.stillOut (s : State) (k : Nat) (c : Cmd) : Bool :=
  !c.settled ||
  (match c.eng with
   | 0 => s.arrays.any (fun e => match e.2.asking with | some q => q.cmd == k || q.more.contains k | none => false)
   | 2 => c.op == 4 && c.data.any (fun n => match s.cmd n with | some t => t.pos < 2 | none => false)
   | 4 => s.domains.any (fun d => d.2.asks.any (fun a => a.cmd == some k) || d.2.col0.cmd == some k || d.2.col1.cmd == some k ||
       NatSet.has k d.2.col0.releasers || NatSet.has k d.2.col1.releasers)
   | 5 => s.graphs.any (fun g => match g.2.run with | some r => r.cmd == k | none => false) || s.hooks.contains (.run k)
   | _ => false)

/-- What an engine does last, before the completion. -/
def State.lateWork (k : Nat) (c : Cmd) (s : State) : State :=
  match c.eng with
  | 0 => s.lateMatrix k c ((s.ctxOf c.ctx).getD {})
  | 3 => s.lateRow k c
  | _ => s

/-- Whether a copy that has moved nothing is recorded as progress in its sealed context's image (R26, R307). -/
def State.recordedCopy (s : State) (c : Cmd) : Bool :=
  c.pos == 0 && (match c.ring with
    | some r => (match s.ctxOf r.ctx with | some x => x.run == .sealed || x.run == .reported || x.run == .placed | none => false)
    | none => false)

/-- COMMAND_COMPLETION (R19-R23): a started command has done its work: its status word, then its arrival or its flag.
A copy goes on as far as it can (R285). DESIGN CHOICE, unsafe: log entry 7. -/
def execCommandCompletion (cmd : Nat) (s : State) : Result :=
  .next (match s.cmd cmd with
  | none => s
  | some c =>
    if c.gathers then (if c.settled then s.gathered cmd c else s)
    else if c.eng = 2 && c.op ≤ 3 then
      if c.state == .published || s.recordedCopy c then s else s.advanceCopy cmd
    else if c.state != .started || s.stillOut cmd c then s
    else
      let s1 := s.lateWork cmd c
      let c1 := (s1.cmd cmd).getD c
      (s1.noteConv c1).completeCmd cmd)

end Sys2Proof.Machine
end

