-- ==== Sys2Proof/Machine/Host.lean ====
section
/-! DEFINITION. The host's side (R383, R384, R408, R410-R419): register writes, the management page and its requests,
key slots, attestation, firmware images, and the resets with bring-up. -/

namespace Sys2Proof.Machine

/-! ### The management page (R412) -/

/-- A field of n bytes of the management page. -/
def State.mgmtNat (s : State) (off n : Nat) : Nat := ofLeBytes (s.mgmt.bytes off n)

/-- Writes a field of n bytes of the management page. -/
def State.setMgmt (off n value : Nat) (s : State) : State := { s with mgmt := s.mgmt.putBytes off (leBytes n value) }

/-- The page as the request that is served has it: the first observed one's, else the page itself (R412). -/
def State.servedRequest (s : State) : Memory := match s.requests with | m :: _ => m | [] => s.mgmt

/-- A field of n bytes of the request that is served. -/
def State.reqNat (s : State) (off n : Nat) : Nat := ofLeBytes (s.servedRequest.bytes off n)

/-- Whether GO is set with a request code. -/
def State.asked (s : State) (code : Nat) : Bool := bit (s.reqNat 0x010 4) 31 && s.reqNat 0x010 1 == code

/-- Whether requests with a code are served now: 0x04 to 0x06 from the end of bring-up's first step on, the others once
READY (R412, R415). -/
def State.servesCode (s : State) (code : Nat) : Bool := s.ready || (s.booted && 4 ≤ code && code ≤ 6)

/-- Whether a request is served now. DEDUCED, unsafe: log entry 43. -/
def State.serves (s : State) (code : Nat) : Bool := s.asked code && s.servesCode code

/-- Whether two contents of the page make the same request: MCMD, MARG and MOUT. -/
def sameRequest (a b : Memory) : Bool := a.bytes 0x010 4 == b.bytes 0x010 4 && a.bytes 0x020 72 == b.bytes 0x020 72

/-- MRES of a request that ends (Table 17-2). -/
def State.setResult (err : Bool) (code : Nat) (s : State) : State :=
  s.setMgmt 0x014 4 (2 ^ 31 + 2 ^ 30 * ofBool err + code % 2 ^ 16)

/-- The happening that serves a request whose operands stand in the page. -/
def requestOf (code : Nat) : Option Instr :=
  match code with
  | 0x02 => some .partitionDelete
  | 0x03 => some .faultWindowSet
  | 0x04 => some .firmwareStage
  | 0x05 => some .attestationReport
  | 0x06 => some .attestationCertificate
  | 0x07 => some .warmReset
  | 0x08 => some .powerLimitSet
  | 0x09 => some .linkKeyWrite
  | _ => none

/-- The monitor serves what it has observed, in order: the first request runs until it ends; a code that is not listed
completes with 0xF201 (R412). GO is cleared where the page holds no later request. DEDUCED, unsafe: log entry 43. -/
def State.serveNext (last : Memory) : List Memory → State → State
  | [], s => if sameRequest last s.mgmt then { s with requests := [] }.setMgmt 0x010 4 0 else { s with requests := [] }
  | m :: rest, s =>
    let code := ofLeBytes (m.bytes 0x010 1)
    if code == 1 then { s with requests := m :: rest }
    else
      match requestOf code with
      | some ev => { s with requests := m :: rest }.post ev
      | none => State.serveNext m rest (s.setResult true 0xF201)

/-- Ends a request: MRES, and the next one runs, or GO is cleared (Table 17-2, R412). -/
def State.endRequest (err : Bool) (code : Nat) (s : State) : State :=
  State.serveNext s.servedRequest s.requests.tail (s.setResult err code)

/-- Ends a request with DONE and no error. -/
def State.requestDone (s : State) : State := s.endRequest false 0

/-- Ends a request with ERR where the spec states no code: it is free (log entry 6). DESIGN CHOICE, safe: log entry
26. -/
def State.requestRefused (s : State) : State := let (n, t) := s.free; t.endRequest true n

/-- The monitor reads the management page (R412): a request that is listed is served where none runs, and waits else; before
READY the others wait with GO set. -/
def State.readMgmt (s : State) : State :=
  if !bit (s.mgmtNat 0x010 4) 31 || !s.servesCode (s.mgmtNat 0x010 1) then s
  else if s.requests = [] then State.serveNext s.mgmt [s.mgmt] s
  else if s.requests.any (fun m => sameRequest m s.mgmt) then s
  else { s with requests := s.requests ++ [s.mgmt] }

/-! ### Register writes (R7, R362, R384, R393, R412) -/

/-- How many bytes a write at an offset reaches of a field of n bytes: the field at its first offset, a 4-byte word at a
later one. The spec gives a write no size. DESIGN CHOICE, unsafe: log entry 69. -/
def fieldWrite (base n off : Nat) : Option Nat :=
  if off = base then some n else if base < off && off < base + n && off % 4 == 0 then some 4 else none

/-- The first of a list of fields, by offset and size, that a write reaches, and how many bytes of it. -/
def fieldHit (fields : List (Nat × Nat)) (off : Nat) : Option Nat := fields.findSome? (fun f => fieldWrite f.1 f.2 off)

/-- Writable fields of the management page besides NOTIFY, with their sizes: MARG is written by words. -/
def mgmtField (off : Nat) : Option Nat :=
  fieldHit ((0x010, 4) :: (0x060, 8) :: (List.range 16).map (fun i => (0x020 + 4 * i, 4))) off

/-- A write to the management page; [30:8] of MCMD is reserved (R3). DEDUCED, unsafe: log entry 43. DESIGN CHOICE, unsafe:
log entry 69. -/
def State.writeMgmt (off value : Nat) (s : State) : State :=
  if off = 0 then s.readMgmt
  else
    match mgmtField off with
    | some n => s.setMgmt off n (if off = 0x010 then 2 ^ 31 * bits value 31 31 + value % 256 else value)
    | none => s

/-- Writable fields of a virtual command processor page besides NOTIFY, the chains' and those that follow a rule of
their own, with their sizes (Tables 15-3 and 16-8). -/
def vcpField (off : Nat) : Option Nat := fieldHit [(0x0C0, 8), (0x0C8, 4), (0x0D0, 4)] off

/-- A write to a field of a chain: BASE and SIZE are ignored while EN is 1; EN raised asks for CHAIN_ENABLE, EN cleared
disables the chain (R384). DESIGN CHOICE, unsafe: log entry 69. -/
def State.writeChain (v c field value : Nat) (s : State) : State :=
  let en := (s.chain v c).en
  match field with
  | 0x00 => if en then s else s.setPage v (0x040 + 32 * c) 8 value
  | 0x04 => if en then s else s.setPage v (0x044 + 32 * c) 4 value
  | 0x08 => if en then s else s.setPage v (0x048 + 32 * c) 4 value
  | 0x0C =>
    if bit value 0 then if en then s else s.post (.chainEnable v c)
    else (if en then s.modChain v c (fun k => { k with en := false }) else s).setPage v (0x04C + 32 * c) 4 0
  | 0x10 => s.setPage v (0x050 + 32 * c) 4 value
  | _ => s

/-- A write to a virtual command processor page (R383, R384, R408). How wide it is, the spec does not say: one write of
32 bytes for NONCE, of 8 for BASE, FQBASE, SNANS and ROUT, each at the field's first offset, or of a word inside one. The
page of a function that no record has assigned ignores it, which the spec does not say either. DEDUCED, safe: log entry
44. DESIGN CHOICE, unsafe: log entry 69. DESIGN CHOICE, unsafe: log entry 70. -/
def State.writePage (v off value : Nat) (s : State) : State :=
  if (s.vf v).st == .unassigned then s
  else if off = 0 then s.post (.notify v)
  else if 0x040 ≤ off && off < 0x0C0 then s.writeChain v ((off - 0x040) / 32) ((off - 0x040) % 32) value
  else if off = 0x228 then s.setPage v off 4 (value % 2)
  else
    match fieldWrite 0x110 8 off, fieldHit [(0x200, 32), (0x220, 8)] off, vcpField off with
    | some n, _, _ =>
      let pend := s.pageNat v 0x10B 1 == 1
      (s.setPage v off n value).modVf v (fun x => { x with answered := x.answered || pend })
    | none, some n, _ => if bit (s.pageNat v 0x228 4) 0 then s else s.setPage v off n value
    | none, none, some n => s.setPage v off n value
    | none, none, none => s

/-- A key written into a sending slot; the active slot while it holds a key, and a retiring slot, ignore it (R362).
DEDUCED, unsafe: log entry 43. -/
def Port.writeKey (slot : Bool) (key : Nat) (x : Port) : Port :=
  if (x.act == slot && (x.tx slot).valid) || (x.ret && x.act != slot) then x
  else x.setTx slot (fun _ => { key := key % 2 ^ 256, valid := true })

/-- A key written into a receiving slot: none has been taken under it, and it is open again (R360-R362). DEDUCED,
unsafe: log entry 43. -/
def Port.writeRxKey (slot : Bool) (key : Nat) (x : Port) : Port :=
  if x.ract == slot && (x.rx slot).valid then x
  else { x.setRx slot (fun _ => { key := key % 2 ^ 256, valid := true }) with
         rclosed := if x.rclosed = some slot then none else x.rclosed }

/-- A write to a port's key registers, each as a whole at its first offset (Tables 14-4 and 14-5). DESIGN CHOICE, unsafe:
log entry 69. -/
def Port.writeReg (off value : Nat) (x : Port) : Port :=
  match off with
  | 0x000 => { x with lkid := value % 2 ^ 32 }
  | 0x004 => { x with en := bit value 31, kreq := x.kreq && !bit value 26 }
  | 0x008 => { x with thr := value % 2 ^ 64 }
  | 0x020 => x.writeKey false value
  | 0x040 => x.writeKey true value
  | 0x060 => { x with rlkid := value % 2 ^ 32 }
  | 0x064 => { x with ren := bit value 31 }
  | 0x080 => x.writeRxKey false value
  | 0x0A0 => x.writeRxKey true value
  | _ => x

/-- KCTL as a read returns it (Table 14-5). -/
def Port.kctl (x : Port) : Nat :=
  2 ^ 31 * ofBool x.en + 2 ^ 30 * ofBool x.tx1.valid + 2 ^ 29 * ofBool x.tx0.valid + 2 ^ 28 * ofBool x.act +
  2 ^ 27 * ofBool x.ret + 2 ^ 26 * ofBool x.kreq

/-- RKCTL as a read returns it: bits [31:28] of KCTL, with the receiver's validity and active slot (R362). -/
def Port.rkctl (x : Port) : Nat :=
  2 ^ 31 * ofBool x.ren + 2 ^ 30 * ofBool x.rx1.valid + 2 ^ 29 * ofBool x.rx0.valid + 2 ^ 28 * ofBool x.ract

/-- RCNT of a receiving slot: ones while none has been taken since its key was written (Table 14-4). -/
def KeySlot.rcnt (k : KeySlot) : Nat := k.taken.getD (2 ^ 64 - 1)

/-- The key registers of a port as reads return them, by offset: keys are write only and read as zero (Table 14-4, R7). -/
def Port.regBytes (x : Port) : List Byte :=
  leBytes 4 x.lkid ++ leBytes 4 x.kctl ++ leBytes 8 x.thr ++ leBytes 8 x.tx0.count ++ leBytes 8 x.tx1.count ++ leBytes 64 0 ++
  leBytes 4 x.rlkid ++ leBytes 4 x.rkctl ++ leBytes 8 x.rx0.rcnt ++ leBytes 8 x.rx1.rcnt ++ leBytes 8 0 ++ leBytes 64 0

/-- What a read of n bytes at a register returns (R3, R7): a write-only register and a reserved offset read as zero. -/
def State.readReg (s : State) (reg : RegName) (n : Nat) : List Byte :=
  match reg with
  | .vcp v off => (s.vf v).page.bytes off n
  | .mgmt off => s.mgmt.bytes off n
  | .port p off => (List.range n).map (fun i => nthOr 0 (s.port p).regBytes (off + i))
  | .aging l boost => leBytes n (nthOr 0 (if boost then s.ageb else s.agen) l)

/-- A port sends what waits, and returns the credits that it owes. -/
def State.sendWaiting (p : Nat) (s : State) : State :=
  if (s.port p).waiting = [] && (s.port p).owed = [] then s else s.post (.flitSend p)

/-- REGISTER_WRITE (R7, R362, R384, R393): a write to a device register; a reserved or read-only field ignores it (R3). The
spec gives AGEN and AGEB neither register nor width: each holds the number written. DESIGN CHOICE, unsafe: log entry 71. -/
def execRegisterWrite (reg : RegName) (value : Nat) (s : State) : Result :=
  .next (match reg with
  | .vcp v off => s.writePage v off value
  | .mgmt off => s.writeMgmt off value
  | .port p off => if p < 64 then (s.modPort p (Port.writeReg off value)).sendWaiting p else s
  | .aging l boost =>
    if boost then { s with ageb := mapNth l (fun _ => value) s.ageb } else { s with agen := mapNth l (fun _ => value) s.agen })

/-! ### Partitions (R29, R31, R322, R326, R364, R382, R394) -/

/-- Whether two shares overlap (R31). -/
def sharesMeet (a b : CoreShare) : Bool := a.core == b.core && (a.half.isNone || b.half.isNone || a.half == b.half)

/-- The allocator's colours of a partition's domain are free. -/
def State.coloursFree (s : State) (p : Nat) : Bool :=
  s.domains.all (fun e => e.2.part != p || (e.2.col0.st == .free && e.2.col1.st == .free))

/-- Whether no share of a list meets a later one. -/
def sharesApart : List CoreShare → Bool
  | [] => true
  | c :: t => !t.any (sharesMeet c) && sharesApart t

/-- The limits of a record (Tables 1-8, 15-2): its id, one to four virtual functions, cores that exist, each reserved once,
and DRAM allocation units that exist and are not firmware's own (R380). A record that reserves no core share or no unit is
accepted. DESIGN CHOICE, unsafe: log entry 93. -/
def recordLimits (r : PartRecord) : Bool :=
  r.id < 64 && r.pmin ≤ r.pmax && r.pmax < 24 && r.domain < 4096 && 1 ≤ r.vfs.length && r.vfs.length ≤ 4 &&
  r.cores.all (fun c => c.core < Config.dies * Config.coresPerDie) && sharesApart r.cores &&
  r.dram.all (fun d => d.2 < 1024 && !firmwareUnit d.2)

/-- Whether a record may be put in force: its limits, units and functions of no other partition, a domain of none other,
and no change of the domain while a colour of it is in use. DEDUCED, unsafe: log entry 41. -/
def State.recordOk (s : State) (r : PartRecord) : Bool :=
  let others := s.parts.filter (fun e => e.1 != r.id)
  recordLimits r && r.vfs.all (fun v => v.vf < 256 && ((s.vf v.vf).st == .unassigned || ((s.vf v.vf).st == .live && (s.vf v.vf).part == r.id))) &&
  others.all (fun e => !(r.domain != 0 && e.2.record.domain == r.domain) &&
    !e.2.record.cores.any (fun c => r.cores.any (sharesMeet c)) && !e.2.record.dram.any (fun d => r.dram.any (fun x => x.2 == d.2))) &&
  (s.domOf r.id == r.domain || s.coloursFree r.id)

/-- The tags of a DRAM allocation unit take their reset values (Table 13-4). -/
def State.freshTags (p : Nat) (s : State) (unit : Nat) : State :=
  let t := { s with tags := s.tags.filter (fun e => e.1 / 2 ^ 17 != unit) }
  let tag := (t.epochOf p (homeDie (2 ^ 29 * unit))).fresh
  if tag = {} then t
  else { t with tags := (List.range (2 ^ 17)).foldl (fun m i => Tab.write {} (2 ^ 17 * unit + i) tag m) t.tags }

/-- The ports of a record's port set that are in service. -/
def State.portsUp (s : State) (v : VfRecord) : Nat := maskOf ((maskBits 64 v.ports.toNat).filter (fun k => !(s.port k).down))

/-- A function of a record: new ones come to life, those in use take their port set and weight (R364). -/
def State.setVf (p : Nat) (s : State) (v : VfRecord) : State :=
  let ports := s.portsUp v
  s.modVf v.vf (fun x =>
    if x.st == .unassigned then
      ({ part := p, ports := ports, weight := v.weight, st := .live, page := s.freshPage v.vf p true } : Vf)
    else { x with ports := ports, weight := v.weight })

/-- The domain of a record (R322, R323): a new one counts its snapshots from 1. DEDUCED, unsafe: log entry 41. -/
def State.setDomain (r : PartRecord) (s : State) : State :=
  let gone := { s with domains := s.domains.filter (fun e => e.2.part != r.id || e.1 == r.domain) }
  if r.domain = 0 || (gone.domain r.domain).isSome then gone
  else
    let others := (r.pmap.filter (fun (e : Nat × Nat) => e.2 != s.podPos)).map (·.1)
    { gone with domains := Tab.set r.domain { part := r.id, others := others } gone.domains }

/-- Non-volatile storage without what it holds of a partition's counters and readings (R399). -/
def NonVolatile.forget (p : Nat) (nv : NonVolatile) : NonVolatile :=
  { nv with mirror := Tab.drop p nv.mirror, audit := Tab.drop p nv.audit }

/-- A partition of a record, which is created where there is none: its counters start at 0 (R399). -/
def State.putPart (r : PartRecord) (s : State) : State :=
  match s.part r.id with
  | some _ => s.modPart r.id (fun p => { p with record := r })
  | none =>
    { s with
      parts := Tab.set r.id { record := r } s.parts
      epochs := s.epochs.filter (fun e => e.1 / 4 != r.id)
      stored := s.stored.forget r.id }

/-- Puts a record in force: counters, tags of new DRAM, functions (those that left are torn down), domain, and the
copy in non-volatile storage. DEDUCED, unsafe: log entry 41. -/
def State.putRecord (r : PartRecord) (s : State) : State :=
  let old := match s.part r.id with | some p => p.record.dram.map (fun (d : Nat × Nat) => d.2) | none => []
  let gone := (s.vfs.filter (fun (e : Nat × Vf) => e.2.part == r.id && e.2.st == .live && !r.vfs.any (fun v => v.vf == e.1))).map (·.1)
  let s1 := s.putPart r
  let s2 := ((r.dram.map (·.2)).filter (fun u => !old.contains u)).foldl (State.freshTags r.id) s1
  let s3 := r.vfs.foldl (State.setVf r.id) (gone.foldl (fun t v => t.beginTeardown v false) s2)
  let s4 := s3.setDomain r
  { s4 with stored := { s4.stored with records := s4.stored.records.filter (fun x => x.id != r.id) ++ [r] } }

/-- Whether a record changes ROOT or PMAP of a partition that exists (R394). -/
def State.remaps (s : State) (r : PartRecord) : Bool :=
  match s.part r.id with
  | some p => p.record.root != r.root || p.record.pmap != r.pmap
  | none => false

/-- Whether a record changes the stripe set table of a partition that has work dispatched: contexts on cores, commands
that have started (R382). -/
def State.restripes (s : State) (r : PartRecord) : Bool :=
  (match s.part r.id with | some p => p.record.sstb != r.sstb | none => false) &&
  (s.ctxs.any (fun e => e.2.part == r.id && e.2.resident) || s.cmds.any (fun e => e.2.part == r.id && e.2.state == .started) ||
    s.translating r.id)

/-- Whether a record changes the port set of a live function that has messages outstanding (R352). -/
def State.reroutes (s : State) (r : PartRecord) : Bool :=
  r.vfs.any (fun v => (s.vf v.vf).st == .live && (s.vf v.vf).ports != s.portsUp v && s.outOf v.vf != 0)

/-- PARTITION_CREATE (R382): request 0x01 puts the record that the host's memory holds in force. A change of ROOT or
PMAP waits until no command translates through the old tables (R394), a change of SSTB until no work dispatched before it
is left (R382), a change of a port set until the function has no message outstanding (R352). DEDUCED, unsafe: log entry 41.
DESIGN CHOICE, safe: log entry 85. -/
def execPartitionCreate (record : PartRecord) (s : State) : Result :=
  .next (if !s.serves 1 || s.reqNat 0x020 4 != record.id then s
  else if !s.recordOk record then s.requestRefused
  else if (s.remaps record && s.translating record.id) || s.restripes record || s.reroutes record then s
  else
    let t := (s.putRecord record).requestDone
    if t.pool = [] then t else t.post .nodeDispatch)

/-- Whether a partition holds something that keeps it (Table 17-3). -/
def State.partHolds (s : State) (p : Nat) : Bool :=
  s.ctxs.any (fun e => e.2.part == p) || s.vfs.any (fun e => e.2.serves p) || !s.coloursFree p

/-- Removes a partition. -/
def State.dropPart (p : Nat) (s : State) : State :=
  { s with
    parts := Tab.drop p s.parts
    domains := s.domains.filter (fun e => e.2.part != p)
    epochs := s.epochs.filter (fun e => e.1 / 4 != p)
    graphs := s.graphs.filter (fun e => e.2.part != p)
    stored := { s.stored.forget p with records := s.stored.records.filter (fun r => r.id != p) } }

/-- PARTITION_DELETE: request 0x02, refused while the partition holds a context, a virtual function or a colour.
DEDUCED, unsafe: log entry 41. -/
def execPartitionDelete (s : State) : Result :=
  .next (if !s.serves 2 then s
  else
    let p := s.reqNat 0x020 4
    if p = 0 || (s.part p).isNone || s.partHolds p then s.requestRefused else (s.dropPart p).requestDone)

/-! ### Fault windows, power, keys -/

/-- The smallest threshold of a class (Table 17-9). -/
def leastThreshold (cls : Nat) : Nat := if cls = 1 || cls = 7 then 2 else if cls = 8 then 1 else 0

/-- FAULT_WINDOW_SET (R398, R419): request 0x03 sets W and T of a class of a die; the events counted stay. -/
def execFaultWindowSet (s : State) : Result :=
  .next (if !s.serves 3 then s
  else
    let die := s.reqNat 0x020 4
    let cls := s.reqNat 0x024 4
    let w := s.reqNat 0x028 8
    let n := s.reqNat 0x030 8
    if die < 4 && 1 ≤ cls && cls ≤ 9 && leastThreshold cls ≤ n then
      { s with windows := Tab.write (defaultWindow cls) (4 * cls + die) (w, n) s.windows }.requestDone
    else s.requestRefused)

/-- The dies whose contexts ask for more than the die's point rise to it (R397). DESIGN CHOICE, safe: log entry 45. -/
def State.raisePoints (s : State) : State :=
  (List.range 4).foldl (fun (t : State) d =>
    if nthOr 0 t.points d < t.wantedPoint d then
      { t with rising := mapNth d (fun _ => some (t.wantedPoint d)) t.rising }.post (.operatingPointStable d)
    else t) s

/-- POWER_LIMIT_SET (R413): request 0x08, 1,000 to 3,600 watts. DESIGN CHOICE, safe: log entry 45. -/
def execPowerLimitSet (s : State) : Result :=
  .next (if !s.serves 8 then s
  else
    let w := s.reqNat 0x020 8
    if 1000 ≤ w && w ≤ 3600 then { s with powerLimit := w, allowed := [7, 7, 7, 7] }.raisePoints.requestDone
    else s.requestRefused)

/-- A level below one, and 1 at least: by how much lower is free. -/
def lowered (n level : Nat) : Nat := if level ≤ 1 then 1 else 1 + n % (level - 1)

/-- POWER_LIMIT_REACHED (R413): every die's operating point is lowered, by how much is free; no context stops. DESIGN
CHOICE, safe: log entry 45. -/
def execPowerLimitReached (s : State) : Result :=
  let (n, t) := s.free
  .next ((List.range 4).foldl (fun u d => u.lowerPoint d)
    { t with allowed := (List.range 4).map (fun d => lowered n (Nat.min (nthOr 7 t.allowed d) (nthOr 0 t.points d))) })

/-- LINK_KEY_WRITE (R360, R362): request 0x09 writes a key slot of a port: bit 0 names the slot, bit 1 the receiving
direction. DEDUCED, unsafe: log entry 43. -/
def execLinkKeyWrite (s : State) : Result :=
  .next (if !s.serves 9 then s
  else
    let p := s.reqNat 0x020 4
    let d := s.reqNat 0x024 4
    let key := s.reqNat 0x028 32
    if p < 64 && d < 4 then
      (((s.modPort p (if bit d 1 then Port.writeRxKey (bit d 0) key else Port.writeKey (bit d 0) key)).sendWaiting p)).requestDone
    else s.requestRefused)

/-! ### Firmware images and attestation (R416-R418) -/

/-- Bytes of host memory at a physical address of the host port. -/
def State.hostBytes (s : State) (at_ n : Nat) : List Byte := s.sysMem.bytes at_ n

/-- Whether a signature over a message verifies under the fused firmware signing key (R417): the one that the key itself
makes does, as ECDSA has it, and any other is checked. PRESUMED, unsafe: log entry 10. -/
def verifies (message sig : List Byte) : Bool :=
  sig == signature Config.firmwareKey message || ecdsaVerifies (publicPoint Config.firmwareKey) message sig

/-- Whether an image may be staged or booted: magic, version, digest, signature over bytes 0x00 to 0x57, KID, minimum
SVN (R417). PRESUMED, unsafe: log entry 10. -/
def imageOk (head body : List Byte) (minSvn : Nat) : Bool :=
  fieldOf head 0x00 4 == 0x4D574647 && fieldOf head 0x04 2 == 1 && fieldOf head 0x0C 4 ≤ 2 ^ 28 &&
  (head.drop 0x10).take 64 == sized 64 (sha512 body) &&
  verifies (head.take 0x58) ((head.drop 0x58).take 132) &&
  (head.drop 0x50).take 8 == kidOf Config.firmwareKey && minSvn ≤ fieldOf head 0x08 4

/-- FIRMWARE_STAGE (R417): request 0x04 verifies the image in host memory and writes the inactive slot whole. DEDUCED,
unsafe: log entry 43. -/
def execFirmwareStage (s : State) : Result :=
  .next (if !s.serves 4 then s
  else
    let at_ := s.reqNat 0x020 8
    let size := s.reqNat 0x028 8
    let head := s.hostBytes at_ 512
    let n := fieldOf head 0x0C 4
    if 512 + n ≤ size && imageOk head (s.hostBytes (at_ + 512) n) s.stored.minSvn then
      let f : Firmware := { svn := fieldOf head 0x08 4, digest := (head.drop 0x10).take 64 }
      { s with stored := { s.stored with
          slots := mapNth (1 - s.stored.active) (fun _ => f) s.stored.slots, staged := true } }.requestDone
    else s.requestRefused)

/-- Ends a request whose result goes to MOUT: an address that is no multiple of 64 is refused. DEDUCED, unsafe: log
entry 43. -/
def State.deliver (bs : List Byte) (s : State) : State :=
  let out := s.reqNat 0x060 8
  if out % 64 != 0 then s.requestRefused else (s.writeSys [{ at_ := out, bytes := bs }] []).requestDone

/-- PLUG: the measurement of the loaded plug-ins, in ascending partition id (R418). -/
def State.plugMeasure (s : State) : List Byte :=
  sha512 ((s.parts.filterMap (fun e => e.2.plugin)).flatMap (fun c => sized 64 (sha512 c)))

/-- Bytes 0x00 to 0xBF of an attestation report (Table 17-8). -/
def State.reportBody (s : State) (f : Firmware) (nonce : List Byte) (aseq : Nat) : List Byte :=
  leBytes 4 0x54544147 ++ leBytes 2 1 ++ leBytes 2 0 ++ sized 32 nonce ++ sized 64 f.digest ++ leBytes 4 f.svn ++ leBytes 4 0 ++
  sized 64 s.plugMeasure ++ leBytes 8 aseq ++ kidOf s.attestation

/-- ATTESTATION_REPORT (R418): request 0x05; ASEQ is stored before the report is released. -/
def execAttestationReport (s : State) : Result :=
  .next (if !s.serves 5 then s
  else
    match s.running, s.attested with
    | some f, true =>
      let n := s.stored.aseq + 1
      let body := s.reportBody f (s.servedRequest.bytes 0x020 32) n
      ({ s with stored := { s.stored with aseq := n } }).deliver (sized 384 (body ++ signature s.attestation body))
    | _, _ => s.endRequest true 0xF202)

/-- ATTESTATION_CERTIFICATE (R416): request 0x06: the attestation public key, the SVN and the running image's digest,
signed by the identity key. DEDUCED, unsafe: log entry 43. -/
def execAttestationCertificate (s : State) : Result :=
  .next (if !s.serves 6 then s
  else
    match s.running, s.attested with
    | some f, true =>
      let body := publicKey s.attestation ++ leBytes 4 f.svn ++ sized 64 f.digest
      s.deliver (body ++ signature Config.identityKey body)
    | _, _ => s.endRequest true 0xF202)

/-! ### Resets and bring-up (R406, R411, R414, R415, R417) -/

/-- Whether the image of a slot verifies at boot. -/
def NonVolatile.boots (nv : NonVolatile) (slot : Nat) : Bool :=
  match nv.slots[slot]? with
  | some f => f.intact && nv.minSvn ≤ f.svn
  | none => false

/-- The image that the boot ROM starts: the active slot's, or the other's (Table 17-5 step 1). -/
def NonVolatile.bootImage (nv : NonVolatile) : Option Firmware :=
  if nv.boots nv.active then nv.slots[nv.active]? else if nv.boots (1 - nv.active) then nv.slots[1 - nv.active]? else none

/-- The tables below a table of a level, from the package's memory (R166, R167): their addresses and the level's index
bits. -/
def State.tablesFrom (s : State) (table : Nat) : List (Nat × Nat) → List (Nat × Nat)
  | [] => []
  | (_, n) :: rest =>
    (table, n) :: ((List.range (2 ^ n)).flatMap (fun i =>
      let w := s.dramNat (table + 16 * i) 8
      if bit w 63 && !bit w 62 && rest != [] then s.tablesFrom (bits w 51 9 * 512) rest else []))

/-- Package memory that bring-up rebuilds: the page tables of the recorded partitions (Table 17-5 step 4). DEDUCED,
unsafe: log entry 42. -/
def State.tableMemory (s : State) : Memory :=
  let ts := s.stored.records.flatMap (fun r => s.tablesFrom r.root walkLevels)
  s.dram.filter (fun e => ts.any (fun t => t.1 ≤ e.1 && e.1 < t.1 + 16 * 2 ^ t.2))

/-- The record of the house partition where the host has written none (R29). DESIGN CHOICE, unsafe: log entry 3.
DEDUCED, unsafe: log entry 41. -/
def houseRecord : PartRecord :=
  { id := 0, root := 0, pmap := [], sstb := 0, pmin := 0, pmax := 23, wdcap := Config.watchdogUnits, preempt := false,
    vfs := [], domain := 0, cores := [], dram := [], oppoint := 0 }

/-- What a reset leaves of the cores: which are retired, and the lanes steered around; a retired core never holds a context
again (R277). -/
def State.retiredUnits (s : State) : Tab Core :=
  (s.cores.map (fun (k : Nat × Core) => (k.1, ({ retired := k.2.retired, steered := k.2.steered } : Core)))).filter
    (fun (k : Nat × Core) => k.2 != {})

/-- What no reset touches: what the surroundings hold, what is non-volatile, and the model's own counters. DEDUCED,
unsafe: log entry 42. -/
def State.survivors (keep : Tab Ctx) (s : State) : State :=
  { turns := s.turns, freeIdx := s.freeIdx, ctxs := keep, nextCtx := s.nextCtx, nextCmd := s.nextCmd, nextLaunch := s.nextLaunch,
    dram := s.tableMemory, sysMem := s.sysMem, sysMarks := s.sysMarks, podPos := s.podPos, images := s.images,
    imageCtxs := s.imageCtxs, nextImageCtx := s.nextImageCtx, imageCmds := s.imageCmds, imageAsks := s.imageAsks,
    defects := s.defects, bootFails := s.bootFails, stored := s.stored,
    cores := s.retiredUnits, channels := s.channels, rowRetired := s.rowRetired, rowsSpared := s.rowsSpared,
    waysRetired := s.waysRetired, carried := s.carried,
    domains := s.domains.map (fun e => (e.1, { e.2 with col0 := {}, col1 := {}, asks := [], past := [] })) }

/-- Step 1: an image boots, which raises the fused minimum SVN (R417); from its end on the page is served (R415). -/
def State.bootStep (s : State) : State :=
  match s.stored.bootImage with
  | some f => { s with booted := true, running := some f, stored := { s.stored with minSvn := Nat.max s.stored.minSvn f.svn } }
  | none => { s with booted := true }

/-- The mirror's counters and the marks of readings after a reset: one without a mirror adds the gap bound to GAPU, and
marks the next signed reading (R406). They are kept at once, so that GAPU is the sum over every gap (Table 16-1). DEDUCED,
unsafe: log entry 42. -/
def NonVolatile.reloaded (gap : Bool) (records : List PartRecord) (nv : NonVolatile) : NonVolatile :=
  if gap then
    { nv with
      gaps := nv.gaps + 1
      mirror := records.foldl (fun (t : Tab Meter) r =>
        let m : Meter := Tab.read {} r.id nv.mirror
        Tab.set r.id { m with gapu := m.gapu + gapBound } t) nv.mirror
      audit := records.foldl (fun (t : Tab Audit) r =>
        Tab.set r.id { (Tab.read {} r.id nv.audit : Audit) with gapMark := true } t) nv.audit }
  else nv

/-- The partition records that bring-up puts in force: those stored, and the house partition's. -/
def NonVolatile.allRecords (nv : NonVolatile) : List PartRecord :=
  if nv.records.any (fun r => r.id == 0) then nv.records else houseRecord :: nv.records

/-- Step 2: the attestation key, and the counters (R406). -/
def State.keyStep (gap : Bool) (s : State) : State :=
  { s with attested := true, energy := s.stored.total, mirrored := s.stored.total,
           stored := s.stored.reloaded gap s.stored.allRecords }

/-- A unit that self-test finds faulty is retired (Table 17-5 step 3). -/
def State.failUnit (s : State) (d : Defect) : State :=
  match d with
  | .core c => s.modCore c (fun x => { x with retired := true })
  | .lane c u p => s.modCore c (fun x =>
      if (nthOr none x.steered u).isSome then { x with retired := true }
      else { x with steered := mapNth u (fun _ => some p) x.steered })
  | .way die w => { s with waysRetired := NatSet.add (2 ^ 16 * die + w) s.waysRetired }
  | .row r => { s with rowsSpared := NatSet.add r s.rowsSpared }
  | .rowEngine e => { s with rowRetired := NatSet.add e s.rowRetired }
  | .channel a ch =>
    let live : BitVec 5 := Tab.read 31 a s.channels
    if live.toNat == 31 then { s with channels := Tab.set a (live &&& ~~~(channelMask [ch])) s.channels }
    else s.modCore (a / 2) (fun x => { x with retired := true })
  | .port _ => s

/-- Step 3: self-test retires the units that fail. -/
def State.testStep (s : State) : State := s.defects.foldl State.failUnit s

/-- Step 5: ports train; one that fails stays down (R358). -/
def State.trainStep (s : State) : State :=
  s.defects.foldl (fun t d => match d with | .port p => t.modPort p (fun x => { x with down := true }) | _ => t) s

/-- Whether a step of bring-up has retired a unit, which DEGRADED shows (Table 17-5 step 3). -/
def State.unitsFailed (s : State) : Bool := s.defects.any (fun d => match d with | .port _ => false | _ => true)

/-- Step 4: partition records, with their counters, functions and domains. -/
def State.recordStep (s : State) : State :=
  s.stored.allRecords.foldl (fun (t : State) r =>
    (r.vfs.foldl (fun (u : State) v => u.modVf v.vf (fun _ =>
        { part := r.id, ports := v.ports.toNat, weight := v.weight, st := .live, page := t.freshPage v.vf r.id false }))
      { t with parts := Tab.set r.id { record := r, meter := Tab.read {} r.id t.stored.mirror } t.parts }).setDomain r) s

/-- Step 6: READY, and LIVE in the pages of the configured functions. -/
def State.readyStep (s : State) : State :=
  let t := (s.vfs.map (·.1)).foldl (fun (u : State) v => u.setPage v 0x00C 4 1) s
  { t with ready := true, degraded := s.unitsFailed }.setMgmt 0x004 4 (1 + 2 * ofBool s.unitsFailed)

/-- Bring-up (Table 17-5). A step that fails stops it; ports come up with EN 0. -/
def State.bringUp (gap : Bool) (s : State) : State :=
  let s1 := s.bootStep
  if s1.running.isNone || s.bootFails = 2 then s1
  else
    let s2 := s1.keyStep gap
    if s.bootFails = 3 then s2
    else
      let s3 := s2.testStep
      if s.bootFails = 4 then s3
      else
        let s4 := s3.recordStep
        if s.bootFails = 5 then s4 else s4.trainStep.readyStep

/-- A staged image's slot becomes active (R417). -/
def State.activate (s : State) : State :=
  if s.stored.staged then { s with stored := { s.stored with active := 1 - s.stored.active, staged := false } } else s

/-- COLD_RESET (R414): power is applied. DEDUCED, unsafe: log entry 42. -/
def execColdReset (s : State) : Result := .next ((s.activate.survivors []).bringUp true)

/-- UNEXPECTED_RESET (R406, R414): power loss, or PERST# without a warm reset. DEDUCED, unsafe: log entry 42. -/
def execUnexpectedReset (s : State) : Result := .next ((s.survivors []).bringUp true)

/-- The contexts that a warm reset holds for the host: their images wait as reported ones do (R216, R414). -/
def State.heldForHost (s : State) : Tab Ctx :=
  (s.ctxs.filter (fun e => e.2.run == .sealed || e.2.run == .reported)).map (fun e => (e.1, { e.2 with run := .reported, cause := .none }))

/-- Asks a context that still runs for its pre-emption. -/
def Ctx.stopRunning (x : Ctx) : Ctx := if x.run = .running ∨ x.run = .placed then x.stop .preempted else x

/-- WARM_RESET (R414): every context is pre-empted and sealed first; then the charges on their way reach the counters (R400),
the mirror is written, the colours are released and the package comes up again, with no gap. DEDUCED, unsafe: log entry 42. -/
def execWarmReset (s : State) : Result :=
  .next (if s.ctxs.any (fun (e : Nat × Ctx) => e.2.run == .running || e.2.run == .placed || e.2.run == .stopping) then
    ({ s with
      pool := [], chains := [],
      ctxs := s.ctxs.map (fun (e : Nat × Ctx) => (e.1, e.2.stopRunning)) }).post .warmReset
  else ((s.takeCharges.writeMirror.activate.survivors s.heldForHost).bringUp false))

end Sys2Proof.Machine
end

