-- ==== Sys2Proof/Machine/Integer.lean ====
section
/-! DEFINITION. The integer, logic and move words (R138-R147). -/

namespace Sys2Proof.Machine

/-! ### Two sources (R138, R139) -/

/-- The lane result of a word that computes each element of a and b (R139). -/
def elemOut2 (asN : Bool) (f : Nat → Bool → Nat → Nat → Nat) (a b : BitVec 8) (g : Gang) (l : Nat) : LaneOut :=
  let m := g.modeAt l
  let t := if asN then asInt m.type else m.type
  let w := wide t
  let x := g.operand w a.toNat l
  let y := g.operand w b.toNat l
  { lane := l, val := mapElems t (fun e => f t m.sat (elem t x e) (elem t y e)),
    p := g.operandP w a.toNat l || g.operandP w b.toNat l, pair := w }

/-- The lane result of a word that acts on whole operands (R138: AND, OR, XOR). -/
def wholeOut2 (f : Nat → Nat → Nat) (a b : BitVec 8) (g : Gang) (l : Nat) : LaneOut :=
  let w := wide (g.modeAt l).type
  { lane := l, val := f (g.operand w a.toNat l) (g.operand w b.toNat l),
    p := g.operandP w a.toNat l || g.operandP w b.toNat l, pair := w }

/-- A two-source word on integer elements. -/
def State.int2 (f : Nat → Bool → Nat → Nat → Nat) (l : Bool) (d a b : BitVec 8) (s : State) : State :=
  s.compute isInt (fields3 d a b) noShadow l d.toNat a.toNat (elemOut2 false f a b)

/-- A two-source word that takes float types as integers of their width. -/
def State.intAs2 (f : Nat → Bool → Nat → Nat → Nat) (l : Bool) (d a b : BitVec 8) (s : State) : State :=
  s.compute anyType (fields3 d a b) noShadow l d.toNat a.toNat (elemOut2 true f a b)

/-- A two-source word on whole operands. -/
def State.logic2 (f : Nat → Nat → Nat) (l : Bool) (d a b : BitVec 8) (s : State) : State :=
  s.compute anyType (fields3 d a b) noShadow l d.toNat a.toNat (wholeOut2 f a b)

/-- a + b, fitted (Table 5-5). -/
def opAdd (t : Nat) (sat : Bool) (x y : Nat) : Nat := fit t sat (intValue t x + intValue t y)
/-- a - b, fitted. -/
def opSub (t : Nat) (sat : Bool) (x y : Nat) : Nat := fit t sat (intValue t x - intValue t y)
/-- a * b, fitted. -/
def opMul (t : Nat) (sat : Bool) (x y : Nat) : Nat := fit t sat (intValue t x * intValue t y)
/-- floor(a * b / 2^w). -/
def opMulhi (t : Nat) (_ : Bool) (x y : Nat) : Nat :=
  fit t false ((intValue t x * intValue t y) / ((2 ^ elemWidth t : Nat) : Int))
/-- The smaller. -/
def opMin (t : Nat) (_ : Bool) (x y : Nat) : Nat := if intValue t y < intValue t x then y else x
/-- The larger. -/
def opMax (t : Nat) (_ : Bool) (x y : Nat) : Nat := if intValue t x < intValue t y then y else x
/-- Shift left, zero fill; 0 from a count of w on (R138). -/
def opShl (t : Nat) (_ : Bool) (x y : Nat) : Nat := if elemWidth t ≤ y then 0 else (x * 2 ^ y) % 2 ^ elemWidth t
/-- Logical shift right. -/
def opShr (t : Nat) (_ : Bool) (x y : Nat) : Nat := if elemWidth t ≤ y then 0 else x / 2 ^ y
/-- Arithmetic shift right. -/
def opSar (t : Nat) (_ : Bool) (x y : Nat) : Nat :=
  wrap (elemWidth t) (signed (elemWidth t) x / ((2 ^ Nat.min y (elemWidth t) : Nat) : Int))
/-- Rotate left by the count modulo w. -/
def opRot (t : Nat) (_ : Bool) (x y : Nat) : Nat :=
  let w := elemWidth t
  let k := y % w
  (x * 2 ^ k) % 2 ^ w + x / 2 ^ (w - k)

/-- ADD (R138). -/
def execAdd (l : Bool) (d a b : BitVec 8) (s : State) : Result := .next (s.int2 opAdd l d a b)
/-- SUB (R138). -/
def execSub (l : Bool) (d a b : BitVec 8) (s : State) : Result := .next (s.int2 opSub l d a b)
/-- MUL (R138). -/
def execMul (l : Bool) (d a b : BitVec 8) (s : State) : Result := .next (s.int2 opMul l d a b)
/-- MULHI (R138). -/
def execMulhi (l : Bool) (d a b : BitVec 8) (s : State) : Result := .next (s.int2 opMulhi l d a b)
/-- MIN (R138). -/
def execMin (l : Bool) (d a b : BitVec 8) (s : State) : Result := .next (s.int2 opMin l d a b)
/-- MAX (R138). -/
def execMax (l : Bool) (d a b : BitVec 8) (s : State) : Result := .next (s.int2 opMax l d a b)
/-- AND (R138). -/
def execAnd (l : Bool) (d a b : BitVec 8) (s : State) : Result := .next (s.logic2 Nat.land l d a b)
/-- OR (R138). -/
def execOr (l : Bool) (d a b : BitVec 8) (s : State) : Result := .next (s.logic2 Nat.lor l d a b)
/-- XOR (R138). -/
def execXor (l : Bool) (d a b : BitVec 8) (s : State) : Result := .next (s.logic2 Nat.xor l d a b)
/-- SHL (R138). -/
def execShl (l : Bool) (d a b : BitVec 8) (s : State) : Result := .next (s.intAs2 opShl l d a b)
/-- SHR (R138). -/
def execShr (l : Bool) (d a b : BitVec 8) (s : State) : Result := .next (s.intAs2 opShr l d a b)
/-- SAR (R138). -/
def execSar (l : Bool) (d a b : BitVec 8) (s : State) : Result := .next (s.intAs2 opSar l d a b)
/-- ROT (R138). -/
def execRot (l : Bool) (d a b : BitVec 8) (s : State) : Result := .next (s.intAs2 opRot l d a b)

/-! ### Accumulating words (R140, R141) -/

/-- The lane result of MAD: a * b + vd, fitted once (R140). -/
def madOut (d a b : BitVec 8) (g : Gang) (l : Nat) : LaneOut :=
  let m := g.modeAt l
  let t := m.type
  let w := wide t
  let x := g.operand w a.toNat l
  let y := g.operand w b.toNat l
  let z := g.operand w d.toNat l
  { lane := l, pair := w,
    val := mapElems t (fun e => fit t m.sat (intValue t (elem t x e) * intValue t (elem t y e) + intValue t (elem t z e))),
    p := g.operandP w a.toNat l || g.operandP w b.toNat l || g.operandP w d.toNat l }

/-- MAD (R140). -/
def execMad (l : Bool) (d a b : BitVec 8) (s : State) : Result :=
  .next (s.compute isInt (fields3 d a b) noShadow l d.toNat a.toNat (madOut d a b))

/-- The lane result of MADW: the 32-bit product added to the pair vd:vd+1 (R140). -/
def madwOut (d a b : BitVec 8) (g : Gang) (l : Nat) : LaneOut :=
  let m := g.modeAt l
  let t64 := if isSigned m.type then 6 else 7
  let x := intValue m.type (g.reg a.toNat l).val.toNat
  let y := intValue m.type (g.reg b.toNat l).val.toNat
  { lane := l, pair := true, val := fit t64 m.sat (x * y + intValue t64 (g.pair d.toNat l)),
    p := (g.reg a.toNat l).p || (g.reg b.toNat l).p || g.pairP d.toNat l }

/-- MADW (R140): s32 and n32 only. -/
def execMadw (l : Bool) (d a b : BitVec 8) (s : State) : Result :=
  .next (s.compute (fun t => t ≤ 1)
    [{ code := 0, reg := d.toNat, isElem := false, count := 2 }, { code := 1, reg := a.toNat }, { code := 2, reg := b.toNat }]
    noShadow l d.toNat a.toNat (madwOut d a b))

/-- The fields of ADDC and SUBB: a pair d and single registers, whatever TYPE (R141). -/
def carryFields (d a b : BitVec 8) : List Field :=
  [{ code := 0, reg := d.toNat, isElem := false, count := 2 }, { code := 1, reg := a.toNat, isElem := false },
   { code := 2, reg := b.toNat, isElem := false }]

/-- The lane result of ADDC and SUBB from the 33-bit outcome: the low word and the carry in the odd register (R141). -/
def carryOut (d a b : BitVec 8) (f : Nat → Nat → Nat → Nat × Nat) (g : Gang) (l : Nat) : LaneOut :=
  let c := g.reg (d.toNat + 1) l
  let r := f (g.reg a.toNat l).val.toNat (g.reg b.toNat l).val.toNat (c.val.toNat % 2)
  { lane := l, pair := true, val := r.1 + 2 ^ 32 * r.2,
    p := (g.reg a.toNat l).p || (g.reg b.toNat l).p || c.p }

/-- Sum with carry: low word and carry out. -/
def addCarry (x y c : Nat) : Nat × Nat := ((x + y + c) % 2 ^ 32, if 2 ^ 32 ≤ x + y + c then 1 else 0)
/-- Difference with borrow: low word and borrow out. -/
def subBorrow (x y c : Nat) : Nat × Nat := ((x + 2 ^ 33 - y - c) % 2 ^ 32, if x < y + c then 1 else 0)

/-- ADDC (R141). -/
def execAddc (l : Bool) (d a b : BitVec 8) (s : State) : Result :=
  .next (s.computeAs noShadow (carryFields d a b) l d.toNat a.toNat 1 (carryOut d a b addCarry))
/-- SUBB (R141). -/
def execSubb (l : Bool) (d a b : BitVec 8) (s : State) : Result :=
  .next (s.computeAs noShadow (carryFields d a b) l d.toNat a.toNat 1 (carryOut d a b subBorrow))

/-! ### One source (R142) -/

/-- The lane result of a word that computes each element of a. -/
def elemOut1 (asN : Bool) (f : Nat → Bool → Nat → Nat) (a : BitVec 8) (g : Gang) (l : Nat) : LaneOut :=
  let m := g.modeAt l
  let t := if asN then asInt m.type else m.type
  let w := wide t
  let x := g.operand w a.toNat l
  { lane := l, val := mapElems t (fun e => f t m.sat (elem t x e)), p := g.operandP w a.toNat l, pair := w }

/-- The absolute value, fitted (Table 5-6). -/
def opAbs (t : Nat) (sat : Bool) (x : Nat) : Nat := fit t sat (if intValue t x < 0 then -intValue t x else intValue t x)
/-- The negation, fitted. -/
def opNeg (t : Nat) (sat : Bool) (x : Nat) : Nat := fit t sat (-intValue t x)
/-- Leading zeros of an element of w bits. -/
def leadingZeros (w x : Nat) : Nat := if x = 0 then w else w - 1 - Nat.log2 x
/-- One bits among the low w. -/
def countOnes (w x : Nat) : Nat := (maskBits w x).length
/-- The low w bits reversed. -/
def reverseBits (w x : Nat) : Nat := maskOf ((maskBits w x).map (fun i => w - 1 - i))

/-- ABS (R142). -/
def execAbs (l : Bool) (d a : BitVec 8) (s : State) : Result :=
  .next (s.compute isInt (fields2 d a) noShadow l d.toNat a.toNat (elemOut1 false opAbs a))
/-- NEG (R142). -/
def execNeg (l : Bool) (d a : BitVec 8) (s : State) : Result :=
  .next (s.compute isInt (fields2 d a) noShadow l d.toNat a.toNat (elemOut1 false opNeg a))

/-- The lane result of NOT: the complement of the register, or of the pair (Table 5-6). -/
def notOut (a : BitVec 8) (g : Gang) (l : Nat) : LaneOut :=
  let t := (g.modeAt l).type
  let w := wide t
  { lane := l, val := 2 ^ operandWidth t - 1 - g.operand w a.toNat l, p := g.operandP w a.toNat l, pair := w }

/-- NOT (R142). -/
def execNot (l : Bool) (d a : BitVec 8) (s : State) : Result :=
  .next (s.compute anyType (fields2 d a) noShadow l d.toNat a.toNat (notOut a))
/-- CLZ (R142). -/
def execClz (l : Bool) (d a : BitVec 8) (s : State) : Result :=
  .next (s.compute anyType (fields2 d a) noShadow l d.toNat a.toNat (elemOut1 true (fun t _ x => leadingZeros (elemWidth t) x) a))
/-- POPC (R142). -/
def execPopc (l : Bool) (d a : BitVec 8) (s : State) : Result :=
  .next (s.compute anyType (fields2 d a) noShadow l d.toNat a.toNat (elemOut1 true (fun t _ x => countOnes (elemWidth t) x) a))
/-- BREV (R142). -/
def execBrev (l : Bool) (d a : BitVec 8) (s : State) : Result :=
  .next (s.compute anyType (fields2 d a) noShadow l d.toNat a.toNat (elemOut1 true (fun t _ x => reverseBits (elemWidth t) x) a))

/-! ### Bit fields (R143) -/

/-- The types of BFE and BFI. -/
def fieldType (t : Nat) : Bool := t == 0 || t == 1 || t == 6 || t == 7 || t == 8

/-- Position and effective length of a bit field in an element of w bits (R143). -/
def bitField (w y : Nat) : Nat × Nat :=
  let pos := y % 256
  (pos, if pos < w then Nat.min (y / 256 % 256) (w - pos) else 0)

/-- The lane result of BFE (R143). -/
def bfeOut (a b : BitVec 8) (g : Gang) (l : Nat) : LaneOut :=
  let t := asInt (g.modeAt l).type
  let w := wide t
  let x := g.operand w a.toNat l
  let (pos, len) := bitField (elemWidth t) (g.reg b.toNat l).val.toNat
  let f := (x / 2 ^ pos) % 2 ^ len
  { lane := l, pair := w, p := g.operandP w a.toNat l || g.operandP w b.toNat l,
    val := if len = 0 then 0 else if isSigned t then wrap (elemWidth t) (signed len f) else f }

/-- The lane result of BFI (R143). -/
def bfiOut (d a b : BitVec 8) (g : Gang) (l : Nat) : LaneOut :=
  let t := asInt (g.modeAt l).type
  let w := wide t
  let old := g.operand w d.toNat l
  let (pos, len) := bitField (elemWidth t) (g.reg b.toNat l).val.toNat
  let new := g.operand w a.toNat l % 2 ^ len
  { lane := l, pair := w, p := g.operandP w a.toNat l || g.operandP w b.toNat l || g.operandP w d.toNat l,
    val := old % 2 ^ pos + 2 ^ pos * new + 2 ^ (pos + len) * (old / 2 ^ (pos + len)) }

/-- BFE (R143). -/
def execBfe (l : Bool) (d a b : BitVec 8) (s : State) : Result :=
  .next (s.compute fieldType (fields3 d a b) noShadow l d.toNat a.toNat (bfeOut a b))
/-- BFI (R143). -/
def execBfi (l : Bool) (d a b : BitVec 8) (s : State) : Result :=
  .next (s.compute fieldType (fields3 d a b) noShadow l d.toNat a.toNat (bfiOut d a b))

/-! ### Selection, comparison, moves (R144-R147) -/

/-- The lane result of SEL: va or vb by bit 0 of the old vd (R144). -/
def selOut (d a b : BitVec 8) (g : Gang) (l : Nat) : LaneOut :=
  let w := wide (g.modeAt l).type
  let r := if (g.reg d.toNat l).val.toNat % 2 = 1 then a.toNat else b.toNat
  { lane := l, pair := w, val := g.operand w r l, p := g.operandP w r l || g.operandP w d.toNat l }

/-- SEL (R144). -/
def execSel (l : Bool) (d a b : BitVec 8) (s : State) : Result :=
  .next (s.compute anyType (fields3 d a b) noShadow l d.toNat a.toNat (selOut d a b))

/-- The lane result of CMP: the relation word of each element; under 64-bit types in the low register (R145). -/
def cmpOut (a b : BitVec 8) (g : Gang) (l : Nat) : LaneOut :=
  elemOut2 false (fun t _ x y => relationWord (compareInt (intValue t x) (intValue t y))) a b g l

/-- CMP (R145). -/
def execCmp (l : Bool) (d a b : BitVec 8) (s : State) : Result :=
  .next (s.compute isInt (fields3 d a b) noShadow l d.toNat a.toNat (cmpOut a b))

/-- MOV (R146): one register, whatever TYPE. -/
def execMov (l : Bool) (d a : BitVec 8) (s : State) : Result :=
  .next (s.computeAs noShadow [{ code := 0, reg := d.toNat }, { code := 1, reg := a.toNat }] l d.toNat a.toNat 1
    (fun g i => { lane := i, val := (g.reg a.toNat i).val.toNat, p := (g.reg a.toNat i).p }))

/-- Writes both registers of a pair from another pair, each with the pair's poison (R125, R146). DEDUCED, unsafe:
log entry 52. -/
def Gang.movePair (d a : Nat) (g0 : Gang) : List Nat → Gang → Gang
  | [], g => g
  | l :: t, g =>
    Gang.movePair d a g0 t ((g.setReg d l { g0.reg a l with p := g0.pairP a l }).setReg (d + 1) l
      { g0.reg (a + 1) l with p := g0.pairP a l })

/-- MOV .w8 (R146): a pair is poisoned where either P bit is set, and both its P bits are written alike (R125). DEDUCED,
unsafe: log entry 52. -/
def execMovW8 (l : Bool) (d a : BitVec 8) (s : State) : Result :=
  .next (if s.enabledLanes = [] then s.endWordL l a.toNat 2
  else
    s.checked (s.regRange [{ code := 0, reg := d.toNat, count := 2 }, { code := 1, reg := a.toNat, count := 2 }] false)
      (State.struck noShadow [] (fun t =>
        ((t.beforeRegs t.issue.ctx t.issue.gang [d.toNat, d.toNat + 1]).modGg
          (Gang.movePair d.toNat a.toNat t.gg t.enabledLanes)).endWordL l a.toNat 2)))

/-- LDI (R147): the sign-extended immediate, P clear. -/
def execLdi (d : BitVec 8) (imm : BitVec 16) (s : State) : Result :=
  .next (s.computeAs noShadow [{ code := 0, reg := d.toNat }] false d.toNat 0 1
    (fun _ i => { lane := i, val := (imm.signExtend 32).toNat, p := false }))

/-- LDIH (R147): the high half replaced, P clear. -/
def execLdih (d : BitVec 8) (imm : BitVec 16) (s : State) : Result :=
  .next (s.computeAs noShadow [{ code := 0, reg := d.toNat }] false d.toNat 0 1
    (fun g i => { lane := i, val := 2 ^ 16 * imm.toNat + (g.reg d.toNat i).val.toNat % 2 ^ 16, p := false }))

end Sys2Proof.Machine
end

