-- ==== Sys2Proof/Machine/Dispatch.lean ====
section
/-! DEFINITION. What each instruction and each happening does: one arm per constructor, one direct call of its
meaning. -/

namespace Sys2Proof.Machine

/-- The meaning of an instruction or a happening in a state. -/
def exec (i : Instr) (s : State) : Host.Outcome State Fault Refusal :=
  match i with
  | .clauseHeader wait fa fb len => Sys2Proof.Machine.execClauseHeader wait fa fb len s
  | .nop => Sys2Proof.Machine.execNop s
  | .mode imm => Sys2Proof.Machine.execMode imm s
  | .guard l a => Sys2Proof.Machine.execGuard l a s
  | .guardInverted l a => Sys2Proof.Machine.execGuardInverted l a s
  | .guardOff => Sys2Proof.Machine.execGuardOff s
  | .stage a n => Sys2Proof.Machine.execStage a n s
  | .msave d => Sys2Proof.Machine.execMsave d s
  | .mload l a => Sys2Proof.Machine.execMload l a s
  | .mand l a => Sys2Proof.Machine.execMand l a s
  | .mandn l a => Sys2Proof.Machine.execMandn l a s
  | .mor l a => Sys2Proof.Machine.execMor l a s
  | .mset => Sys2Proof.Machine.execMset s
  | .mpop d => Sys2Proof.Machine.execMpop d s
  | .mfirst d => Sys2Proof.Machine.execMfirst d s
  | .bra o => Sys2Proof.Machine.execBra o s
  | .call o => Sys2Proof.Machine.execCall o s
  | .ret => Sys2Proof.Machine.execRet s
  | .bzm o => Sys2Proof.Machine.execBzm o s
  | .bnzm o => Sys2Proof.Machine.execBnzm o s
  | .bany l c o => Sys2Proof.Machine.execBany l c o s
  | .ball l c o => Sys2Proof.Machine.execBall l c o s
  | .jtx l x t => Sys2Proof.Machine.execJtx l x t s
  | .regang t => Sys2Proof.Machine.execRegang t s
  | .exit => Sys2Proof.Machine.execExit s
  | .yield => Sys2Proof.Machine.execYield s
  | .yieldRegroup => Sys2Proof.Machine.execYieldRegroup s
  | .compactionGatheringLimit ctx unit => Sys2Proof.Machine.execCompactionGatheringLimit ctx unit s
  | .quantumExpiry ctx gang => Sys2Proof.Machine.execQuantumExpiry ctx gang s
  | .add l d a b => Sys2Proof.Machine.execAdd l d a b s
  | .sub l d a b => Sys2Proof.Machine.execSub l d a b s
  | .mul l d a b => Sys2Proof.Machine.execMul l d a b s
  | .mulhi l d a b => Sys2Proof.Machine.execMulhi l d a b s
  | .mad l d a b => Sys2Proof.Machine.execMad l d a b s
  | .madw l d a b => Sys2Proof.Machine.execMadw l d a b s
  | .addc l d a b => Sys2Proof.Machine.execAddc l d a b s
  | .subb l d a b => Sys2Proof.Machine.execSubb l d a b s
  | .min l d a b => Sys2Proof.Machine.execMin l d a b s
  | .max l d a b => Sys2Proof.Machine.execMax l d a b s
  | .abs l d a => Sys2Proof.Machine.execAbs l d a s
  | .neg l d a => Sys2Proof.Machine.execNeg l d a s
  | .and l d a b => Sys2Proof.Machine.execAnd l d a b s
  | .or l d a b => Sys2Proof.Machine.execOr l d a b s
  | .xor l d a b => Sys2Proof.Machine.execXor l d a b s
  | .not l d a => Sys2Proof.Machine.execNot l d a s
  | .shl l d a b => Sys2Proof.Machine.execShl l d a b s
  | .shr l d a b => Sys2Proof.Machine.execShr l d a b s
  | .sar l d a b => Sys2Proof.Machine.execSar l d a b s
  | .rot l d a b => Sys2Proof.Machine.execRot l d a b s
  | .clz l d a => Sys2Proof.Machine.execClz l d a s
  | .popc l d a => Sys2Proof.Machine.execPopc l d a s
  | .brev l d a => Sys2Proof.Machine.execBrev l d a s
  | .bfe l d a b => Sys2Proof.Machine.execBfe l d a b s
  | .bfi l d a b => Sys2Proof.Machine.execBfi l d a b s
  | .sel l d a b => Sys2Proof.Machine.execSel l d a b s
  | .cmp l d a b => Sys2Proof.Machine.execCmp l d a b s
  | .mov l d a => Sys2Proof.Machine.execMov l d a s
  | .movW8 l d a => Sys2Proof.Machine.execMovW8 l d a s
  | .ldi d imm => Sys2Proof.Machine.execLdi d imm s
  | .ldih d imm => Sys2Proof.Machine.execLdih d imm s
  | .fadd l d a b => Sys2Proof.Machine.execFadd l d a b s
  | .fsub l d a b => Sys2Proof.Machine.execFsub l d a b s
  | .fmul l d a b => Sys2Proof.Machine.execFmul l d a b s
  | .ffma l d a b => Sys2Proof.Machine.execFfma l d a b s
  | .fmin l d a b => Sys2Proof.Machine.execFmin l d a b s
  | .fmax l d a b => Sys2Proof.Machine.execFmax l d a b s
  | .fabs l d a => Sys2Proof.Machine.execFabs l d a s
  | .fneg l d a => Sys2Proof.Machine.execFneg l d a s
  | .fcmp l d a b => Sys2Proof.Machine.execFcmp l d a b s
  | .fclass l d a => Sys2Proof.Machine.execFclass l d a s
  | .fsqrt l d a => Sys2Proof.Machine.execFsqrt l d a s
  | .frcp l d a => Sys2Proof.Machine.execFrcp l d a s
  | .frsq l d a => Sys2Proof.Machine.execFrsq l d a s
  | .fexp2 l d a => Sys2Proof.Machine.execFexp2 l d a s
  | .flog2 l d a => Sys2Proof.Machine.execFlog2 l d a s
  | .fsin l d a => Sys2Proof.Machine.execFsin l d a s
  | .fcos l d a => Sys2Proof.Machine.execFcos l d a s
  | .fdivs l d a b => Sys2Proof.Machine.execFdivs l d a b s
  | .cvt l d a src dst => Sys2Proof.Machine.execCvt l d a src dst s
  | .pack2 l d a b => Sys2Proof.Machine.execPack2 l d a b s
  | .shfl l d a b => Sys2Proof.Machine.execShfl l d a b s
  | .shflup l d a b => Sys2Proof.Machine.execShflup l d a b s
  | .shfldn l d a b => Sys2Proof.Machine.execShfldn l d a b s
  | .shflx l d a b => Sys2Proof.Machine.execShflx l d a b s
  | .voteAny l d a => Sys2Proof.Machine.execVoteAny l d a s
  | .voteAll l d a => Sys2Proof.Machine.execVoteAll l d a s
  | .voteBallot l d a => Sys2Proof.Machine.execVoteBallot l d a s
  | .voteEq l d a => Sys2Proof.Machine.execVoteEq l d a s
  | .reduxAdd l d a => Sys2Proof.Machine.execReduxAdd l d a s
  | .reduxMin l d a => Sys2Proof.Machine.execReduxMin l d a s
  | .reduxMax l d a => Sys2Proof.Machine.execReduxMax l d a s
  | .reduxAnd l d a => Sys2Proof.Machine.execReduxAnd l d a s
  | .reduxOr l d a => Sys2Proof.Machine.execReduxOr l d a s
  | .reduxXor l d a => Sys2Proof.Machine.execReduxXor l d a s
  | .reduxFadd l d a => Sys2Proof.Machine.execReduxFadd l d a s
  | .reduxFmin l d a => Sys2Proof.Machine.execReduxFmin l d a s
  | .reduxFmax l d a => Sys2Proof.Machine.execReduxFmax l d a s
  | .reduxScanadd l d a => Sys2Proof.Machine.execReduxScanadd l d a s
  | .reduxEscanadd l d a => Sys2Proof.Machine.execReduxEscanadd l d a s
  | .bcast l d a b => Sys2Proof.Machine.execBcast l d a b s
  | .rdsp d f => Sys2Proof.Machine.execRdsp d f s
  | .ld l d a sem scope size => Sys2Proof.Machine.execLd l d a sem scope size s
  | .st l d a sem scope size => Sys2Proof.Machine.execSt l d a sem scope size s
  | .lds l d a sem size => Sys2Proof.Machine.execLds l d a sem size s
  | .sts l d a sem size => Sys2Proof.Machine.execSts l d a sem size s
  | .ldc l d a size => Sys2Proof.Machine.execLdc l d a size s
  | .atom l d a sem scope z => Sys2Proof.Machine.execAtom l d a sem scope z s
  | .atomnr l d a sem scope z => Sys2Proof.Machine.execAtomnr l d a sem scope z s
  | .cas l d a sem scope z => Sys2Proof.Machine.execCas l d a sem scope z s
  | .fence sem scope => Sys2Proof.Machine.execFence sem scope s
  | .pfence paths scope => Sys2Proof.Machine.execPfence paths scope s
  | .monitor l a => Sys2Proof.Machine.execMonitor l a s
  | .mwait => Sys2Proof.Machine.execMwait s
  | .mwaitWake ctx gang sub => Sys2Proof.Machine.execMwaitWake ctx gang sub s
  | .pref l lev a => Sys2Proof.Machine.execPref l lev a s
  | .cctlInv l a => Sys2Proof.Machine.execCctlInv l a s
  | .cctlWb l a => Sys2Proof.Machine.execCctlWb l a s
  | .cctlInvl1 => Sys2Proof.Machine.execCctlInvl1 s
  | .loadCompletion ctx gang access => Sys2Proof.Machine.execLoadCompletion ctx gang access s
  | .storeAcknowledgement ctx gang access => Sys2Proof.Machine.execStoreAcknowledgement ctx gang access s
  | .barinit l x y b => Sys2Proof.Machine.execBarinit l x y b s
  | .bararr b => Sys2Proof.Machine.execBararr b s
  | .barwait x b => Sys2Proof.Machine.execBarwait x b s
  | .barrierWaitReturn ctx gang sub => Sys2Proof.Machine.execBarrierWaitReturn ctx gang sub s
  | .bartest x b => Sys2Proof.Machine.execBartest x b s
  | .sbarInit l x y scope => Sys2Proof.Machine.execSbarInit l x y scope s
  | .sbarArr l x scope => Sys2Proof.Machine.execSbarArr l x scope s
  | .sbarWait l x y scope => Sys2Proof.Machine.execSbarWait l x y scope s
  | .sbarTest l x y scope => Sys2Proof.Machine.execSbarTest l x y scope s
  | .sbarFin l x scope => Sys2Proof.Machine.execSbarFin l x scope s
  | .barrierTimeout ctx watch => Sys2Proof.Machine.execBarrierTimeout ctx watch s
  | .launch l d a scope => Sys2Proof.Machine.execLaunch l d a scope s
  | .launchAnswer request => Sys2Proof.Machine.execLaunchAnswer request s
  | .sysr x r => Sys2Proof.Machine.execSysr x r s
  | .sysw l x r => Sys2Proof.Machine.execSysw l x r s
  | .trap code => Sys2Proof.Machine.execTrap code s
  | .mma l d a b => Sys2Proof.Machine.execMma l d a b s
  | .mmag l d a b => Sys2Proof.Machine.execMmag l d a b s
  | .maccFill l d a b => Sys2Proof.Machine.execMaccFill l d a b s
  | .maccLoad l d a b => Sys2Proof.Machine.execMaccLoad l d a b s
  | .maccCopy l d a b => Sys2Proof.Machine.execMaccCopy l d a b s
  | .mst l d a b => Sys2Proof.Machine.execMst l d a b s
  | .mpair l d a b => Sys2Proof.Machine.execMpair l d a b s
  | .pairFormationTimeout core => Sys2Proof.Machine.execPairFormationTimeout core s
  | .mrel l d a b => Sys2Proof.Machine.execMrel l d a b s
  | .rfwd l d a b => Sys2Proof.Machine.execRfwd l d a b s
  | .rmma l d a b => Sys2Proof.Machine.execRmma l d a b s
  | .rrev l d a b => Sys2Proof.Machine.execRrev l d a b s
  | .rchk l d a b => Sys2Proof.Machine.execRchk l d a b s
  | .rscl l d a b => Sys2Proof.Machine.execRscl l d a b s
  | .xcp l d a b => Sys2Proof.Machine.execXcp l d a b s
  | .xcpr l d a b => Sys2Proof.Machine.execXcpr l d a b s
  | .xexp l d a b => Sys2Proof.Machine.execXexp l d a b s
  | .xpack l d a b => Sys2Proof.Machine.execXpack l d a b s
  | .xcan l d a b => Sys2Proof.Machine.execXcan l d a b s
  | .rowcpy l d a b => Sys2Proof.Machine.execRowcpy l d a b s
  | .rowfill l d a b => Sys2Proof.Machine.execRowfill l d a b s
  | .rowand l d a b => Sys2Proof.Machine.execRowand l d a b s
  | .rowor l d a b => Sys2Proof.Machine.execRowor l d a b s
  | .rowxor l d a b => Sys2Proof.Machine.execRowxor l d a b s
  | .rownot l d a b => Sys2Proof.Machine.execRownot l d a b s
  | .rowq l d a b => Sys2Proof.Machine.execRowq l d a b s
  | .snap l d a b => Sys2Proof.Machine.execSnap l d a b s
  | .snapq l d a b => Sys2Proof.Machine.execSnapq l d a b s
  | .snaprel l d a b => Sys2Proof.Machine.execSnaprel l d a b s
  | .cgrun l d a b => Sys2Proof.Machine.execCgrun l d a b s
  | .grun l d a b => Sys2Proof.Machine.execGrun l d a b s
  | .erd l d a b => Sys2Proof.Machine.execErd l d a b s
  | .ringStallEnd ctx gang sub => Sys2Proof.Machine.execRingStallEnd ctx gang sub s
  | .engineCommandStart cmd => Sys2Proof.Machine.execEngineCommandStart cmd s
  | .commandCompletion cmd => Sys2Proof.Machine.execCommandCompletion cmd s
  | .destinationArrival cmd => Sys2Proof.Machine.execDestinationArrival cmd s
  | .remoteCompletion cmd => Sys2Proof.Machine.execRemoteCompletion cmd s
  | .workgroupRetire ctx => Sys2Proof.Machine.execWorkgroupRetire ctx s
  | .preemptionRequest ctx => Sys2Proof.Machine.execPreemptionRequest ctx s
  | .imageSeal ctx => Sys2Proof.Machine.execImageSeal ctx s
  | .snapshotStartRequest dom => Sys2Proof.Machine.execSnapshotStartRequest dom s
  | .colourGrant dom die col => Sys2Proof.Machine.execColourGrant dom die col s
  | .dieStateReport dom die col => Sys2Proof.Machine.execDieStateReport dom die col s
  | .allocatorStateNotice dom die col => Sys2Proof.Machine.execAllocatorStateNotice dom die col s
  | .stagingBufferRoom die => Sys2Proof.Machine.execStagingBufferRoom die s
  | .colStagingDrain die => Sys2Proof.Machine.execColStagingDrain die s
  | .colSweepUnit dom die col => Sys2Proof.Machine.execColSweepUnit dom die col s
  | .tierWriteFailure dom col => Sys2Proof.Machine.execTierWriteFailure dom col s
  | .channelCloseLimit dom col => Sys2Proof.Machine.execChannelCloseLimit dom col s
  | .tagResetDone dom die col => Sys2Proof.Machine.execTagResetDone dom die col s
  | .snapshotMarker die chan f => Sys2Proof.Machine.execSnapshotMarker die chan f s
  | .write port f => Sys2Proof.Machine.execWrite port f s
  | .readRequest port f => Sys2Proof.Machine.execReadRequest port f s
  | .readResponse port f => Sys2Proof.Machine.execReadResponse port f s
  | .atomic port f => Sys2Proof.Machine.execAtomic port f s
  | .atomicResponse port f => Sys2Proof.Machine.execAtomicResponse port f s
  | .writeAcknowledgement port f => Sys2Proof.Machine.execWriteAcknowledgement port f s
  | .barrierArrival port f => Sys2Proof.Machine.execBarrierArrival port f s
  | .teardownMarker port f => Sys2Proof.Machine.execTeardownMarker port f s
  | .teardownAcknowledgement port f => Sys2Proof.Machine.execTeardownAcknowledgement port f s
  | .graphDecrement port f => Sys2Proof.Machine.execGraphDecrement port f s
  | .slotRequest plane f => Sys2Proof.Machine.execSlotRequest plane f s
  | .slotReply port f => Sys2Proof.Machine.execSlotReply port f s
  | .slotRelease plane f => Sys2Proof.Machine.execSlotRelease plane f s
  | .contribution plane f => Sys2Proof.Machine.execContribution plane f s
  | .result port f => Sys2Proof.Machine.execResult port f s
  | .reduceWrite port f => Sys2Proof.Machine.execReduceWrite port f s
  | .keySwitch port f => Sys2Proof.Machine.execKeySwitch port f s
  | .credit port f => Sys2Proof.Machine.execCredit port f s
  | .linkAcknowledgement port ackSeq => Sys2Proof.Machine.execLinkAcknowledgement port ackSeq s
  | .linkNak port ackSeq => Sys2Proof.Machine.execLinkNak port ackSeq s
  | .flitSend port => Sys2Proof.Machine.execFlitSend port s
  | .keySwitchSend port => Sys2Proof.Machine.execKeySwitchSend port s
  | .retrain port => Sys2Proof.Machine.execRetrain port s
  | .retrainComplete port => Sys2Proof.Machine.execRetrainComplete port s
  | .vfTeardown vf => Sys2Proof.Machine.execVfTeardown vf s
  | .teardownWaitExpiry vf => Sys2Proof.Machine.execTeardownWaitExpiry vf s
  | .chunkDispatch => Sys2Proof.Machine.execChunkDispatch s
  | .chunkCompletion handle node => Sys2Proof.Machine.execChunkCompletion handle node s
  | .slotRetry handle node => Sys2Proof.Machine.execSlotRetry handle node s
  | .notify vf => Sys2Proof.Machine.execNotify vf s
  | .chainEnable vf chain => Sys2Proof.Machine.execChainEnable vf chain s
  | .engine vf chain entry => Sys2Proof.Machine.execEngine vf chain entry s
  | .chainLaunch vf chain entry => Sys2Proof.Machine.execChainLaunch vf chain entry s
  | .gload vf chain entry => Sys2Proof.Machine.execGload vf chain entry s
  | .gunload vf chain entry => Sys2Proof.Machine.execGunload vf chain entry s
  | .chainRun vf chain entry => Sys2Proof.Machine.execChainRun vf chain entry s
  | .restore vf chain entry => Sys2Proof.Machine.execRestore vf chain entry s
  | .tinv vf chain entry => Sys2Proof.Machine.execTinv vf chain entry s
  | .cntr vf chain entry => Sys2Proof.Machine.execCntr vf chain entry s
  | .chainEntryCompletion vf chain entry => Sys2Proof.Machine.execChainEntryCompletion vf chain entry s
  | .nodeDispatch => Sys2Proof.Machine.execNodeDispatch s
  | .operatingPointStable die => Sys2Proof.Machine.execOperatingPointStable die s
  | .policyHookAnswer h answer => Sys2Proof.Machine.execPolicyHookAnswer h answer s
  | .policyHookTimeout h => Sys2Proof.Machine.execPolicyHookTimeout h s
  | .attributionPeriodEnd die m ctxs => Sys2Proof.Machine.execAttributionPeriodEnd die m ctxs s
  | .periodCharge die => Sys2Proof.Machine.execPeriodCharge die s
  | .mirrorWrite => Sys2Proof.Machine.execMirrorWrite s
  | .signedReading vf => Sys2Proof.Machine.execSignedReading vf s
  | .partitionCreate rec => Sys2Proof.Machine.execPartitionCreate rec s
  | .partitionDelete => Sys2Proof.Machine.execPartitionDelete s
  | .faultWindowSet => Sys2Proof.Machine.execFaultWindowSet s
  | .firmwareStage => Sys2Proof.Machine.execFirmwareStage s
  | .attestationReport => Sys2Proof.Machine.execAttestationReport s
  | .attestationCertificate => Sys2Proof.Machine.execAttestationCertificate s
  | .warmReset => Sys2Proof.Machine.execWarmReset s
  | .powerLimitSet => Sys2Proof.Machine.execPowerLimitSet s
  | .linkKeyWrite => Sys2Proof.Machine.execLinkKeyWrite s
  | .vfFunctionLevelReset vf => Sys2Proof.Machine.execVfFunctionLevelReset vf s
  | .coldReset => Sys2Proof.Machine.execColdReset s
  | .unexpectedReset => Sys2Proof.Machine.execUnexpectedReset s
  | .registerWrite reg value => Sys2Proof.Machine.execRegisterWrite reg value s
  | .powerLimitReached => Sys2Proof.Machine.execPowerLimitReached s

end Sys2Proof.Machine
end

