-- ==== Sys2Proof/Machine/Turns.lean ====
section
/-! DEFINITION. Turns (log entry 1): whose move it is, the happenings that fall due by themselves, the moves of the
physical surroundings, and placing an instruction where the next step fetches it. -/

namespace Sys2Proof.Machine

/-! ### Rows that are happenings -/

/-- Whether a constructor is an instruction word or a clause header; the others are happenings (spec/95). -/
def isWord (i : Instr) : Bool := (encode i).isSome

/-! ### What falls due -/

/-- What falls due in a gang: the end of a quantum (R95). -/
def Ctx.gangDue (c : Nat) (x : Ctx) : Option Instr :=
  ((List.range x.gangs.length).find? (fun g =>
    Config.quantum ≤ (x.gang g).quantum && (x.gang g).which Slice.runs != [])).map (fun g => .quantumExpiry c g)

/-- A watchdog count that has reached its limit (R209, R210). -/
def Ctx.watchDue (c now : Nat) (x : Ctx) : Option Instr :=
  ((List.range x.watches.length).find? (fun k =>
    match x.watches[k]? with | some w => w.since + 1024 * x.wdog ≤ now | none => false)).map (fun k => .barrierTimeout c k)

/-- A gathering that has lasted its limit (R117). -/
def Ctx.gatherDue (c now : Nat) (x : Ctx) : Option Instr :=
  (x.gatherings.find? (fun k => k.since + Config.gatheringLimit ≤ now)).map (fun k => .compactionGatheringLimit c k.unit)

/-- What falls due in a context: while it runs, its retirement, a quantum, a watchdog, a gathering; while it stops, its
seal; once it has been terminated, its end (R25, R27, R95, R117, R209, R219). -/
def State.ctxDue (s : State) (c : Nat) (x : Ctx) : Option Instr :=
  match x.run with
  | .running =>
    let now := s.cycle (dieOf x.core)
    if s.mayRetire c x then some (.workgroupRetire c)
    else (x.gangDue c).orElse (fun _ => (x.watchDue c now).orElse (fun _ => x.gatherDue c now))
  | .stopping => if s.sealDue c x then some (.imageSeal c) else none
  | .terminated => if s.runsOn c then none else some (.workgroupRetire c)
  | _ => none

/-- A pair formation that has lasted its limit (R248). -/
def State.pairDue (s : State) : Option Instr :=
  (s.arrays.find? (fun e => e.1 % 2 == 0 && e.2.asking.isSome && s.pairExpired (e.1 / 2))).map (fun e =>
    .pairFormationTimeout (e.1 / 2))

/-- A snapshot whose channels close too late (R341). -/
def State.closeDue (s : State) : Option Instr :=
  s.domains.findSome? (fun e => [false, true].findSome? (fun c =>
    if s.closesLate e.1 c then some (.channelCloseLimit e.1 c) else none))

/-- A posted marker of a die path: dies take it before anything else moves, so that no message between dies, which the
model applies as it is sent, passes it (R333). DESIGN CHOICE, unsafe: log entry 24. -/
def State.markerDue (s : State) : Option Instr :=
  s.agenda.find? (fun ev => match ev with | .snapshotMarker _ (.diePath _ _) _ => true | _ => false)

/-- A teardown whose wait is over (R367). -/
def State.teardownDue (s : State) : Option Instr :=
  s.vfs.findSome? (fun e => match e.2.st with
    | .tearing since => if since + 2 ^ 24 ≤ s.cycle 0 || s.outOf e.1 = 0 then some (.teardownWaitExpiry e.1) else none
    | _ => none)

/-- A restored run that asks again for its slots (R377). -/
def State.retryDue (s : State) : Option Instr :=
  s.graphs.findSome? (fun e => match e.2.run with
    | some r =>
      if r.again && !r.choosing && r.retried + retryPeriod ≤ s.cycle 0 then
        ((List.range (e.2.nodesOf r).length).find? (fun n => r.stateOf n == .running)).map (fun n => .slotRetry e.1 n)
      else none
    | none => none)

/-- A posted pre-emption of a context that runs: its gangs stop before they issue another word (R219, R277). -/
def State.preemptDue (s : State) : Option Instr :=
  s.agenda.find? (fun ev => match ev with
    | .preemptionRequest c =>
      (match s.ctxOf c with | some x => !x.svc && (x.run == .running || x.run == .placed) | none => false)
    | _ => false)

/-- The first happening that falls due by itself. DESIGN CHOICE, safe: log entry 1. DESIGN CHOICE, unsafe: log entry
58. -/
def State.due (s : State) : Option Instr :=
  s.markerDue.orElse (fun _ => s.preemptDue.orElse (fun _ => (s.ctxs.findSome? (fun e => s.ctxDue e.1 e.2)).orElse (fun _ =>
    s.pairDue.orElse (fun _ => s.closeDue.orElse (fun _ => s.teardownDue.orElse (fun _ => s.retryDue.orElse (fun _ =>
      if s.mirrorDue then some .mirrorWrite else none)))))))

/-! ### What engines, Spires and the front end do of themselves -/

/-- A published command that may start (R17). DESIGN CHOICE, unsafe: log entry 58. -/
def State.startable (s : State) : Option Instr :=
  (s.cmds.find? (fun e => s.mayStart e.1 e.2 && !s.frontWaits.any (fun w => w.ev == .engineCommandStart e.1))).map (fun e =>
    .engineCommandStart e.1)

/-- A chain entry that has ended and not completed (R386). -/
def State.entryDone (s : State) : Option Instr :=
  s.chains.findSome? (fun k => (k.2.entries.find? (fun e => s.entryEnded (k.1 / 4) (k.1 % 4) e.1 e.2)).map (fun e =>
    .chainEntryCompletion (k.1 / 4) (k.1 % 4) e.1))

/-- A port that can take what its Spire sends. -/
def Port.receives (x : Port) : Bool := !x.down && x.ren && (x.rx x.ract).valid

/-- The next flit of a Spire to this package, as its port receives it, and what it does (R375, R376). -/
def State.fromSpire (s : State) : Option (Instr × State) :=
  s.spireOut.findSome? (fun e =>
    let x := s.port e.1
    match e.2 with
    | f :: rest =>
      if x.receives then
        let n := match (x.rx x.ract).taken with | some t => t + 1 | none => 0
        let g : Flit := { f with lseq := BitVec.ofNat 12 x.expect, ks := x.ract, ctrlo := BitVec.ofNat 32 n }
        let t := { s with spireOut := Tab.write [] e.1 rest s.spireOut }
        some (if f.tk = 12 then .slotReply e.1 g else .result e.1 g, t)
      else none
    | [] => none)

/-- The work of the Col (R339): a staged unit, ahead of a sweep that has units left; a trailer that is due. -/
def State.colWork (s : State) : Option Instr :=
  s.colours.findSome? (fun e =>
    let dom := e.1 / 8
    let die := e.1 / 2 % 4
    let col := e.1 % 2 == 1
    if (s.firstStaged die).isSome then some (.colStagingDrain die)
    else if (e.2.st == .opened || e.2.st == .closed) && (s.nextUnit dom die col).isSome then some (.colSweepUnit dom die col)
    else if e.2.st == .closed then some (.colSweepUnit dom die col) else none)

/-! ### Whose turn it is -/

/-- Who is ready to issue: gangs by context and number, and issue groups by context and 64 + number (R96). -/
def State.issuers (s : State) : List (Nat × Nat) :=
  s.ctxs.flatMap (fun e =>
    if e.2.run = .running then
      ((List.range e.2.gangs.length).filter (fun g => (e.2.gang g).issues != 0)).map (fun g => (e.1, g)) ++
      (e.2.groups.map (fun k => (e.1, 64 + k.1)))
    else [])

/-- The SIMD unit of an issuer, as 4*core+unit. -/
def State.unitOf (s : State) (i : Nat × Nat) : Nat :=
  let x := (s.ctxOf i.1).getD {}
  4 * x.core + (if i.2 < 64 then (x.gang i.2).unit else ((Tab.find (i.2 - 64) x.groups).map (·.unit)).getD 0)

/-- The place of an issuer in its unit's round: a gang's slot; the issue groups of compaction come after the slots, by
context and number, so that no two issuers have one place (R118). -/
def State.slotOf (s : State) (i : Nat × Nat) : Nat :=
  if i.2 < 64 then (((s.ctxOf i.1).getD {}).gang i.2).slot else i.2 + 2 ^ 32 * i.1

/-- The issuer of least slot. -/
def State.leastSlot (s : State) : List (Nat × Nat) → Option (Nat × Nat)
  | [] => none
  | i :: t =>
    match s.leastSlot t with
    | some j => if s.slotOf j < s.slotOf i then some j else some i
    | none => some i

/-- Whose turn it is on a SIMD unit: the next ready gang in round-robin order of gang slot (R96). -/
def State.unitNext (s : State) (u : Nat) : Option (Nat × Nat) :=
  let is := s.issuers.filter (fun i => s.unitOf i == u)
  (s.leastSlot (is.filter (fun i => (Tab.find u s.last).all (fun k => k < s.slotOf i)))).orElse (fun _ => s.leastSlot is)

/-- An issuer may issue when its unit's turn is its own (R96). -/
def State.mayIssue (s : State) (i : Nat × Nat) : Bool := s.issuers.contains i && s.unitNext (s.unitOf i) == some i

/-- Notes that an issuer has had its unit's turn. -/
def State.hadTurn (i : Nat × Nat) (s : State) : State :=
  { s with last := Tab.set (s.unitOf i) (s.slotOf i) s.last, lastUnit := s.unitOf i }

/-- The default issuer: the SIMD units of the package take turns, each with its own next gang (R96). DESIGN CHOICE, safe:
log entry 1. -/
def State.nextIssuer (s : State) : Option (Nat × Nat) :=
  let us := s.issuers.map s.unitOf
  (s.unitNext (leastOr (leastOr 0 us) (us.filter (fun u => s.lastUnit < u))))

/-- Time passes on each die. -/
def passTime : List Nat → List Nat → List Nat
  | c :: cs, e :: es => (c + e) :: passTime cs es
  | cs, _ => cs

/-- Takes the next turn: its happenings of time, and who moves. DESIGN CHOICE, safe: log entry 1. -/
def State.takeTurn (s : State) : Turn × State :=
  let t := match s.turns with | t :: _ => t | [] => {}
  (t, { s with turns := s.turns.tail, cycles := passTime s.cycles t.elapsed })

/-- What a turn comes to. -/
inductive Move where
  | idle (s : State)
  | happen (ev : Instr) (s : State)
  | word (c g : Nat) (s : State)
  | group (c j : Nat) (s : State)

/-! ### The physical surroundings -/

/-- The event that makes a storage source lasting retires what Table 17-9 names: the way, the core of the bank or array,
the row, which a spare replaces; the partitions that hold work on it are told (R33, R398). -/
def State.retireStorage (cls unit core die : Nat) (ps : List Nat) (s : State) : State :=
  match cls with
  | 2 => { s with waysRetired := NatSet.add (2 ^ 16 * die + unit) s.waysRetired }.retireNotices ps 2 unit die
  | 4 => { s with rowsSpared := NatSet.add unit s.rowsSpared }.retireNotices ps 4 unit die
  | _ => s.retireCore core

/-- A detected storage error, corrected or not, is one event of the unit that held the bits (R176, R235). -/
def State.storageEvent (cls unit core die : Nat) (ps : List Nat) (corrected : Bool) (s : State) : State :=
  let (last, s1) := s.sourceEvents cls unit die 1 ps corrected
  if last then s1.retireStorage cls unit core die ps else s1

/-- An error of a way of a die's caches: one that is in service counts it (R176). -/
def State.wayEvent (die way : Nat) (corrected : Bool) (s : State) : State :=
  if NatSet.has (2 ^ 16 * die + way) s.waysRetired then s else s.storageEvent 2 way 0 die (s.partsOnDie die) corrected

/-- The partition that owns a sector of package memory, as a list. -/
def State.partsOfSector (s : State) (k : Nat) : List Nat := (s.ownerOf (32 * k)).toList

/-- A detected error that is corrected, or whose sector is read again from its home (R176, R235). DESIGN CHOICE, safe: log
entry 13. -/
def State.correctedError (m : Mover) (s : State) : State :=
  match m with
  | .wayCorrected die way => s.wayEvent die way true
  | .bankCorrected core bank => s.storageEvent 3 (32 * core + bank % 32) core (dieOf core) (s.partsOnCore core) true
  | .sectorCorrected k => s.storageEvent 4 (k / 64) 0 (homeDie (32 * k)) (s.partsOfSector k) true
  | .slotCorrected a => s.storageEvent 6 a (a / 2) (dieOf (a / 2)) (s.partsOnCore (a / 2)) true
  | _ => s

/-- A read request of the host at a function's page is logged where the host channel is open (R336, R410). DEDUCED, safe:
log entry 44. -/
def State.hostLogged (reg : RegName) (n : Nat) (s : State) : State :=
  match reg with
  | .vcp v off => s.logMessage (s.vf v).part 0 (.host v) 0 { tk := 2, vf := v, payload := memPayload off n 0 0 [] }
  | _ => s

/-- An upset of a residue channel leaves a wrong residue in one element of a pair in RNS mode (R262, R263). DESIGN
CHOICE, safe: log entry 13. -/
def State.residueUpset (a p ch e v : Nat) (s : State) : State :=
  let t := 2 * p + ch / 4
  if (s.slot a t).rns && ch < 5 && e < 4096 then
    s.modArray a (fun m => { m with slots := mapNth t (fun k =>
      let old := (Tab.read 0 e k.cells : BitVec 32).toNat
      let at_ := 256 ^ (ch % 4)
      { k with cells := Tab.write 0 e (BitVec.ofNat 32 (old - old / at_ % 256 * at_ + v % modulus ch * at_)) k.cells }) m.slots })
  else s

/-- What a sector that an uncorrectable error struck holds: free bytes, marked (R176). DESIGN CHOICE, safe: log entry
13. -/
def State.spoilSector (k : Nat) (s : State) : State :=
  let (bs, t) := s.freeBytes 32
  { t with dram := t.dram.putBytes (32 * k) bs, dramMarks := NatSet.add k t.dramMarks }

/-- An uncorrectable error of a DRAM sector, which counts against its row, or of a sector in a way of the L2, which counts
against the way (R176). -/
def State.sectorLost (way : Option Nat) (k : Nat) (s : State) : State :=
  match way with
  | none => (s.spoilSector k).storageEvent 4 (k / 64) 0 (homeDie (32 * k)) (s.partsOfSector k) false
  | some w => (s.spoilSector k).wayEvent (homeDie (32 * k)) w false

/-- An uncorrectable error of a scratchpad word: it is marked, and what its bytes read as is free (R176). DESIGN
CHOICE, safe: log entry 13. -/
def State.scratchLost (c w : Nat) (s : State) : State :=
  let x := (s.ctxOf c).getD {}
  let (bs, t) := s.freeBytes 4
  (t.modCtx c (fun y => { y with window := y.window.putBytes (4 * w) bs, windowMarks := NatSet.add w y.windowMarks })).storageEvent 3
    (32 * x.core + firstBank x.half + bankOf (banksOf x.half) w) x.core (dieOf x.core) [x.part] false

/-- Sets the flag of a slot, and of the other slot of its pair where the pair holds residues (R235, R258). -/
def MArray.flagSlot (t : Nat) (m : MArray) : MArray :=
  let u := 2 * (t / 2) + (1 - t % 2)
  let paired := (nthOr {} m.slots t).rns && (nthOr {} m.slots u).rns
  let flag := fun (k : AccSlot) => { k with poisoned := true }
  { m with slots := mapNth t flag (if paired then mapNth u flag m.slots else m.slots) }

/-- An uncorrectable error of an accumulator slot: one element is free, and the slot's flag is set (R235). DESIGN
CHOICE, safe: log entry 13. -/
def State.slotLost (a t : Nat) (s : State) : State :=
  let (e, s1) := s.free
  let (v, s2) := s1.free
  (s2.modArray a (fun m => MArray.flagSlot t
    { m with slots := mapNth t (fun k => { k with cells := Tab.write 0 (e % 4096) (BitVec.ofNat 32 v) k.cells }) m.slots })).storageEvent 6 a (a / 2) (dieOf (a / 2))
    (s.partsOnCore (a / 2)) false

/-- A die is retired (R341, Table 1-10): its cores are, and every snapshot that it has not drained fails. DEDUCED,
unsafe: log entry 48. -/
def State.dieRetired (die : Nat) (s : State) : State :=
  let s1 := (List.range 160).foldl (fun t c => t.retireCore (160 * die + c)) s
  (s.domains.flatMap (fun d => [(d.1, false), (d.1, true)])).foldl (fun t e =>
    let d := t.dieCol e.1 die e.2
    if (match t.domain e.1 with | some y => (t.domDies y).contains die | none => false) && d.st != .drained then
      t.failSnap e.1 e.2 3 else t) s1

/-- The move of a mover that is neither a gang, a group nor a happening. DESIGN CHOICE, safe: log entry 13. -/
def State.surroundings (m : Mover) (s : State) : State :=
  match m with
  | .evictL1 core k => s.modCore core (fun c => { c with l1 := Tab.drop k c.l1 })
  | .evictConst core k => s.modCore core (fun c => { c with consts := Tab.drop k c.consts })
  | .evictRemote die k => s.modRdc die (Tab.drop k)
  | .sectorError k => s.sectorLost none k
  | .wayError w k => s.sectorLost (some w) k
  | .scratchError c w => s.scratchLost c w
  | .slotError a t => s.slotLost a t
  | .pathFailure port tag =>
    match s.pendings.find? (fun e => e.2.carrier == port && e.1 % 4096 == tag) with
    | some (k, _) => (s.loseRequest k).pumpAll
    | none => s
  | .gatherFailure k i => s.gatherFailure k i
  | .residueUpset a p ch e v => s.residueUpset a p ch e v
  | .dieRetired d => s.dieRetired d
  | .quadRetired q => (List.range 4).foldl (fun t i => t.retireCore (4 * q + i)) s
  | .rowUpset k i => s.rowUpset k i
  | .wayCorrected _ _ | .bankCorrected _ _ | .sectorCorrected _ | .slotCorrected _ => s.correctedError m
  | .hostAsks c resume => s.hostAsks c resume
  | .registerRead reg n => { s.hostLogged reg n with hostSaw := s.readReg reg n }
  | .allocator dom die => s.nameAllocator dom die
  | .snapRequest dom ask => s.takeAsk dom ask
  | .sysWrite a bs => s.writeSys [{ at_ := a, bytes := bs }] []
  | .plugin part code => s.modPart part (fun p => { p with plugin := code })
  | .defect d => { s with defects := s.defects ++ [d] }
  | .bootFault n => { s with bootFails := n }
  | .slotDecay i => { s with stored := { s.stored with slots := mapNth i (fun f => { f with intact := false }) s.stored.slots } }
  | .auto | .gang _ _ | .group _ _ | .event _ | .input _ => s

/-- The code that a gang waits for before its release rule starts a group or closes a frame (R63, R113). -/
def State.settleWants (s : State) (x : Ctx) (g : Gang) : Option Place :=
  match g.releaseDue with
  | .start _ _ target _ => s.codeAway x target
  | .close f => s.codeAway x f.join
  | .nothing | .token _ | .discard _ => none

/-- Code that a gang waits for so, and that has not been asked for: it is asked for (R65). -/
def State.codeWanted (s : State) : Option State :=
  s.ctxs.findSome? (fun e =>
    if e.2.run = .running then
      e.2.gangs.findSome? (fun g =>
        match s.settleWants e.2 g with
        | some p => if s.codeAsked e.2.core (32 * sectorOf p.loc) then none else some (s.askCode e.2.part e.2.core p)
        | none => none)
    else none)

/-- What goes on by itself while nothing is posted: commands that may start, what Spires send, entries that have ended. -/
def State.pending (s : State) : Option (Instr × State) :=
  (s.startable.map (fun ev => (ev, s))).orElse (fun _ => s.fromSpire.orElse (fun _ => s.entryDone.map (fun ev => (ev, s))))

/-- The default move: the oldest posted happening; else what goes on by itself; else code that a gang waits for; else the next word of the next issuer;
else the Col. DESIGN CHOICE, safe: log entry 1. -/
def State.autoMove (s : State) : Move :=
  match s.agenda with
  | ev :: t => .happen ev { s with agenda := t }
  | [] =>
    match s.pending with
    | some (ev, t) => .happen ev t
    | none =>
      match s.codeWanted with
      | some t => .idle t
      | none =>
        match s.nextIssuer with
        | some (c, g) => if g < 64 then .word c g (s.hadTurn (c, g)) else .group c (g - 64) (s.hadTurn (c, g))
        | none => match s.colWork with | some ev => .happen ev s | none => .idle s

/-- Resolves a turn's mover. -/
def State.moveOf (m : Mover) (s : State) : Move :=
  match m with
  | .auto => s.autoMove
  | .gang c g => if s.mayIssue (c, g) then .word c g (s.hadTurn (c, g)) else .idle s
  | .group c j => if s.mayIssue (c, 64 + j) then .group c j (s.hadTurn (c, 64 + j)) else .idle s
  | .event k =>
    match s.agenda[k]? with
    | some ev => .happen ev { s with agenda := s.agenda.eraseIdx k }
    | none => .idle s
  | .input ev => if isWord ev then .idle s else .happen ev s
  | m => .idle (s.surroundings m)

/-- A gang's turn: its current sub-gang's next word is made ready. -/
def State.gangTurn (c g : Nat) (ups : List Upset) (s : State) : Ready :=
  s.prepare c g (((s.ctxOf c).getD {}).gang g).issues ups

/-! ### Placing an instruction (log entry 5) -/

/-- Number of the context that holds a placed instruction. -/
def placedCtx : Nat := 1

/-- The gang slot of a placed instruction: behind every slot that a gang may hold. -/
def placedSlot : Nat := 32

/-- The context that holds a placed instruction: one gang at the first word of a clause of that word. DESIGN CHOICE,
safe: log entry 5. -/
def placedContext (w : Word) : Ctx :=
  let fb := match decodeWord w with | some i => (i.flagNumber.getD 0).extractLsb' 0 4 | none => 0
  let header : Word := (0x7F : BitVec 7) ++ (0 : BitVec 12) ++ (0xF : BitVec 4) ++ fb ++ (1 : BitVec 5)
  let sl : Slice :=
    if isHeader w then { pc := 0x10000, hdr := 0x10000, widx := 0, clause := [w] }
    else { pc := 0x10004, hdr := 0x10000, widx := 1, clause := [header, w], clauseNo := 1 }
  { part := 1, khdr := 0x10000, regsN := 256, nbar := 16, scratch := 4096, codeBase := 0x10000, codeSize := 65536,
    jtabs := [(0, 0x10000, [0x10000])], wdog := Config.watchdogUnits, wdcap := Config.watchdogUnits, core := 0,
    gangs := [{ slices := List.replicate 8 sl, clauses := 1, slot := placedSlot }], bars := List.replicate 16 {} }

/-- Puts an instruction word where the next step issues it. DESIGN CHOICE, safe: log entry 5. -/
def State.place (w : Word) (s : State) : State :=
  { s with
    turns := [{ mover := .gang placedCtx 0 }],
    last := Tab.set 0 (placedSlot - 1) s.last,
    ctxs := Tab.set placedCtx (placedContext w) s.ctxs,
    nextCtx := Nat.max s.nextCtx (placedCtx + 1) }

end Sys2Proof.Machine
end

