-- ==== Sys2Proof/Machine/Step.lean ====
section
/-! DEFINITION. One step of the package, and placing an instruction where the next step issues it. -/

namespace Sys2Proof.Machine

/-- One step: a happening that falls due by itself, else one turn: a happening, the next word of a gang or of an issue
group, or a move of the surroundings. DESIGN CHOICE, safe: log entry 1. -/
def step (s : State) : Host.Outcome State Fault Refusal :=
  match s.due with
  | some ev => s.runFront exec ev
  | none =>
    match s.takeTurn with
    | (t, s1) =>
      match s1.moveOf t.mover with
      | .idle s2 => .next s2
      | .happen ev s2 => s2.runFront exec ev
      | .group c j s2 => .next (s2.groupTurn exec c j t.upsets)
      | .word c g s2 =>
        match s2.gangTurn c g t.upsets with
        | { state := s3, word := some i } => exec i s3
        | { state := s3, word := none } => .next s3

/-- The state with an instruction word placed as the next word that a step issues. DESIGN CHOICE, safe: log entry 5.
-/
def State.withFetchWord (s : State) (nbits w : Nat) : State := s.place (BitVec.ofNat 32 (w % 2 ^ nbits))

end Sys2Proof.Machine
end

