-- ==== Sys2Proof/Safety.lean ====
section
/-! DEFINITION. What counts as a safe run, and the terms of the claims: what a word leaves as it was, and what it may
write. -/

namespace Sys2Proof

/-- A run of n steps that neither faults nor is refused. -/
def SafeRun : Nat → Machine.State → Prop
  | 0, _ => True
  | n + 1, s => ∃ t, Machine.step s = .next t ∧ SafeRun n t

namespace Machine

/-! ### What a computing word leaves (R66, R103)

A computing word writes registers and moves the slices on. At the end of a clause slices may park, be released, part or
gather, frames start and close groups, and a group start that meets no header stops the context (R112): what these
change is what the following relations leave open. -/

/-- The slice keeps its mode, guard, sense, return stack, latch, watch and clause number. -/
def Slice.kept (a b : Slice) : Prop :=
  b = { a with pc := b.pc, widx := b.widx, clause := b.clause, am := b.am, st := b.st, sub := b.sub, fell := b.fell,
               yieldAsk := b.yieldAsk }

/-- The gang keeps its slices so, the counts and scopes of its flags, its pending registers, its accesses, arrival
marks and phases, its losses and its unit. Its registers are spoken of apart. -/
def Gang.kept (a b : Gang) : Prop :=
  b = { a with slices := b.slices, regs := b.regs, flags := b.flags, frames := b.frames, quantum := b.quantum,
               cur := b.cur, staging := b.staging } ∧
  b.slices.length = a.slices.length ∧ (∀ i, (a.slice i).kept (b.slice i)) ∧
  b.flags.map (fun f => (f.count, f.scope)) = a.flags.map (fun f => (f.count, f.scope))

/-- The context keeps its gangs so, its window with its marks, its barriers, its ring and what it was launched with. -/
def Ctx.kept (x y : Ctx) : Prop :=
  y = { x with gangs := y.gangs, run := y.run, cause := y.cause, fault := y.fault, groups := y.groups,
               nextGroup := y.nextGroup, gatherings := y.gatherings, tags := y.tags } ∧
  y.gangs.length = x.gangs.length ∧ ∀ g, (x.gang g).kept (y.gang g)

/-- Every context is kept so; of the rest of the package only the colour engines may change, which save a register
granule before it is written (R328). -/
def State.kept (s t : State) : Prop :=
  t = { s with ctxs := t.ctxs, colours := t.colours } ∧
  ∀ c, (t.ctxOf c).isSome = (s.ctxOf c).isSome ∧ ((s.ctxOf c).getD {}).kept ((t.ctxOf c).getD {})

/-- What a lane of a register of a gang of a context holds. -/
def State.regAt (s : State) (c g r l : Nat) : LaneVal := (((s.ctxOf c).getD {}).gang g).reg r l

/-- Every lane of every register is as before, but for the named registers of the issuing gang in the named lanes. -/
def State.regsKept (s t : State) (rs ls : List Nat) : Prop :=
  ∀ c g r l, l < 32 → (c, g) ≠ (s.issue.ctx, s.issue.gang) ∨ r ∉ rs ∨ l ∉ ls → t.regAt c g r l = s.regAt c g r l

/-- The frame of a word that writes only registers. -/
def State.onlyRegs (s t : State) (rs ls : List Nat) : Prop := s.kept t ∧ s.regsKept t rs ls

/-- A word that a live gang issues and that no upset strikes (log entry 13). -/
def State.canIssue (s : State) : Bool :=
  (s.ctxOf s.issue.ctx).isSome && s.issue.gang < s.cx.gangs.length && s.issue.upsets == []

/-- Whether the issuing word is not the last of its clause. -/
def State.midClause (s : State) : Bool :=
  s.issue.widx < (s.gg.slice (leastOr 0 s.issuing)).clause.length - 1

/-- The conditions under which the checks of R126 let a word through: every issuing slice's TYPE is one that the word
accepts, pairs are named by even registers under a 64-bit TYPE (R125), and every register is below REGS (R98). -/
def State.accepts (accept : Nat → Bool) (fs : List Field) (s : State) : Bool :=
  s.issuing.all (fun i => accept (modeOf (s.gg.slice i).mode).type) &&
  (!s.anyWide || fs.all (fun f => !f.isElem || f.reg % 2 == 0)) &&
  fs.all (fun f => f.reg + (if f.isElem && s.anyWide then 2 else f.count) ≤ s.cx.regsN)

/-- Every register that a word names whatever TYPE is below REGS (R98). -/
def State.inRange (fs : List Field) (s : State) : Bool := fs.all (fun f => f.reg + f.count ≤ s.cx.regsN)

/-- The bits of a lane's register, or of its pair, low word first (R74). -/
def State.bitsAt (s : State) (pair : Bool) (r l : Nat) : Nat :=
  (s.regAt s.issue.ctx s.issue.gang r l).val.toNat +
    if pair then 2 ^ 32 * (s.regAt s.issue.ctx s.issue.gang (r + 1) l).val.toNat else 0

/-- The poison of a lane's register, or of its pair (R125). -/
def State.poisonAt (s : State) (pair : Bool) (r l : Nat) : Bool :=
  (s.regAt s.issue.ctx s.issue.gang r l).p || (pair && (s.regAt s.issue.ctx s.issue.gang (r + 1) l).p)

/-- The mode register of a lane's slice. -/
def State.modeAt (s : State) (l : Nat) : Mode := s.gg.modeAt l

/-- The word completes: it writes the enabled lanes of d (of d and d+1 where the lane's result is a pair, both with one
P bit) and nothing else, and each lane's bits and poison stand in the given relation. -/
def State.writesLanes (s : State) (i : Instr) (d : Nat) (pair : Nat → Bool) (ok : Nat → Nat → Bool → Prop) : Prop :=
  ∃ t, exec i s = .next t ∧ s.onlyRegs t [d, d + 1] s.enabledLanes ∧
    ∀ l ∈ s.enabledLanes,
      (pair l = false → t.regAt s.issue.ctx s.issue.gang (d + 1) l = s.regAt s.issue.ctx s.issue.gang (d + 1) l) ∧
      (pair l = true → (t.regAt s.issue.ctx s.issue.gang (d + 1) l).p = (t.regAt s.issue.ctx s.issue.gang d l).p) ∧
      ok l (t.bitsAt (pair l) d l) (t.regAt s.issue.ctx s.issue.gang d l).p

/-- An element of the result is the exact value z fitted: clamped under SAT, else z modulo 2^w (R132). -/
def fitted (t : Nat) (sat : Bool) (z : Int) (r : Nat) : Prop :=
  (sat = true → intValue t r = clamp (intMin t) (intMax t) z) ∧
  (sat = false → (intValue t r - z) % ((2 ^ elemWidth t : Nat) : Int) = 0)

/-- The canonical form of both memories that State lists as bytes by address. -/
def State.memories (s : State) : Bool := s.dram.wf && s.sysMem.wf

end Machine

end Sys2Proof
end

