-- ==== Sys2Proof/Certificates/Slice0/Obligations.lean ====
section
/-! DEFINITION. The statements for the provers, one def per obligation of OBLIGATIONS.json, and the terms that several
of them share. -/

open Sys2Proof Sys2Proof.Machine

/-- For every well-formed instruction that the encoding tables give a word, at every value of its operands, the
    decoder reads that instruction from the word. The three MACC instructions have one word (R246); that the decoder
    names MACC_FILL for it is the model's choice (log entry 14), no rule of the spec. The rows without bits have no
    word. (R61, R71, R72, R82, spec/03_core_stream.md.) -/
def Obligations.DecodeOfEncode : Prop :=
  ∀ (i : Instr) (w : Word), i.WF → encode i = some w → decode w = some i.named

/-- No bit of a word is ignored: whatever instruction the decoder reads from a word is well-formed, and the encoder
    gives exactly that word back for it. (R71, R72, R82, spec/03_core_stream.md.) -/
def Obligations.EncodeOfDecode : Prop :=
  ∀ (i : Instr) (w : Word), decode w = some i → i.WF ∧ encode i = some w

/-- Fifteen words, the clause header and one or more of each format of Table 3-2 (R, U, I, M, both of B, G and E),
    written out bit by bit from the encoding tables, decode to the instructions they stand for, and two words with a
    reserved field value decode to none. (R61, R71, R72, R82, spec/03_core_stream.md.) -/
def Obligations.SpecWordsDecode : Prop :=
  decode 0b1111111_000000000011_1111_0010_00101 = some (.clauseHeader 0b000000000011 0b1111 0b0010 0b00101) ∧
  decode 0b0000000_0_00000000_00000000_00000000 = some .nop ∧
  decode 0b0010000_1_00000011_00000101_00000111 = some (.add true 3 5 7) ∧
  decode 0b0010110_0_00000100_00000101_00000110 = some (.addc false 4 5 6) ∧
  decode 0b0011010_0_00000011_00000001_00000000 = some (.abs false 3 1) ∧
  decode 0b0101100_0_00000100_00111111_10000001 = some (.ldi 4 0x3F81) ∧
  decode 0b1010000_0_00000100_00000010_001_010_10 = some (.ld false 4 2 1 2 2) ∧
  decode 0b1100000_0_00000010_00000011_00000001 = some (.barinit false 2 3 1) ∧
  decode 0b1101000_0_00001000_00010000_000_00001 = some (.mma false 8 16 1) ∧
  decode 0b0000101_0_11111111_11111111_11111110 = some (.bra 0xFFFFFE) ∧
  decode 0b0001010_1_00001001_00000000_00010000 = some (.bany true 9 16) ∧
  decode 0b0000001_0_00000000_00000001_00001000 = some (.mode 0x0108) ∧
  decode 0b0000010_0_00000000_00000000_00000010 = some .guardOff ∧
  decode 0b0000010_0_00000000_00000000_00000011 = none ∧
  decode 0b0000100_0_00000110_00000000_00000000 = some (.msave 6) ∧
  decode 0b0001110_0_00000000_00000000_00000000 = some .exit ∧
  decode 0b0001110_1_00000000_00000000_00000000 = none

/-- Where no happening is due and the turn at the head of the list is a gang's, that gang is the next of its SIMD unit's
    round, its slices are at a word of the clause they hold, and that word decodes and is not interlocked, the step is
    exec of the decoded instruction at the state in which the unit's round has come to that gang, time has passed and
    the issuing word is recorded. Where a happening is due or is the turn's, and exec of it reads no sector at a peer that is
    not at hand, the step is that exec. Which unit moves at a turn is the model's (log entry 1). Choices of the model that it rests
    on: log entries 2, 15, 80. (spec/04_core_execution.md, spec/03_core_stream.md.) -/
def Obligations.StepRunsDecodedWord : Prop :=
  (∀ (s t : State) (ev : Instr), s.due = some ev → s.frontWaits = [] → exec ev s = .next t → t.frontMiss = [] →
    t.frontHeld = [] → step s = .next t) ∧
  (∀ (s s1 s2 t : State) (u : Turn) (ev : Instr), s.due = none → s.takeTurn = (u, s1) → s1.moveOf u.mover = .happen ev s2 →
    s2.frontWaits = [] → exec ev s2 = .next t → t.frontMiss = [] → t.frontHeld = [] → step s = .next t) ∧
  ∀ (s : State) (c g : Nat) (u : Turn) (us : List Turn) (i : Instr),
    s.due = none → s.turns = u :: us → u.mover = .gang c g → s.mayIssue (c, g) = true →
    let x := (s.ctxOf c).getD {}
    let m := (x.gang g).issues
    let sl := (x.gang g).slice (leastOr 0 (slicesOf m))
    let s0 : State := { s with turns := us, cycles := passTime s.cycles u.elapsed }
    let s1 : State := { s0.hadTurn (c, g) with issue := issueOf c g m sl u.upsets }
    sl.widx ≠ 0 → decodeWord (nthOr 0 sl.clause sl.widx) = some i → s1.interlocked i = false →
    step s = exec i s1

/-- Where no happening is due, the turn is a gang's, its slices are at a clause header that is no open jump frame's
    join for them, and the clause there can be fetched (its words translate, are at hand and hold no undefined
    encoding), the step gives the slices those words and runs the decoded header; where the fetch faults, the step
    takes that fault and the words have no effect. Choices of the model that it rests on: log entries 1, 15, 28. (R62,
    R64, R65, spec/03_core_stream.md.) -/
def Obligations.StepFetchesClause : Prop :=
  ∀ (s : State) (c g : Nat) (u : Turn) (us : List Turn),
    s.due = none → s.turns = u :: us → u.mover = .gang c g → s.mayIssue (c, g) = true →
    let x := (s.ctxOf c).getD {}
    let m := (x.gang g).issues
    let sl := (x.gang g).slice (leastOr 0 (slicesOf m))
    let s0 : State := { s with turns := us, cycles := passTime s.cycles u.elapsed }
    let s1 : State := { s0.hadTurn (c, g) with issue := issueOf c g m sl u.upsets }
    sl.widx = 0 → sl.clause = [] → (x.gang g).atJoin m = [] →
    (∀ ws i, s1.fetch x sl = .clause ws → decodeHeader (nthOr 0 ws 0) = some i →
      step s = exec i ((s1.fillCode x (clauseVas sl.pc ws.length)).holdClause ws)) ∧
    (∀ f hdr pc k, s1.fetch x sl = .fault f hdr pc k → step s = .next (s1.raiseAt f hdr pc k))

/-- From every state a step answers a next state: no instruction and no happening stops the machine with a fault of
    the model or is refused, since every access that the spec calls a fault is an exception which the context takes.
    Choices of the model that it rests on: log entry 27. (R216, R420, spec/07_core_sync_context.md.) -/
def Obligations.EveryStepAnswers : Prop :=
  ∀ s : State, ∃ t, step s = .next t

/-- In the model's first state no context, command, pool node, launch, graph or outstanding request exists, no byte of
    package memory is marked as poison, no chain is enabled, the cycle counters of the four dies are 0, no firmware runs,
    and the cold reset, with its firmware bring-up, is what happens next. That the first state stands before that reset
    is the model's choice (log entry 42), as are the values that the spec gives none for (log entries 3 and 4). (R414,
    R214, R411.) -/
def Obligations.ResetState : Prop :=
  State.reset.cycles = [0, 0, 0, 0] ∧ State.reset.ctxs = [] ∧ State.reset.cmds = [] ∧ State.reset.pool = [] ∧
  State.reset.pendings = [] ∧ State.reset.chains = [] ∧ State.reset.launches = [] ∧ State.reset.graphs = [] ∧
  State.reset.unsent = [] ∧ State.reset.requests = [] ∧ State.reset.dramMarks = [] ∧ State.reset.sysMarks = [] ∧
  State.reset.running = none ∧ State.reset.ready = false ∧ State.reset.due = none ∧ State.reset.agenda = [.coldReset]

/-- The byte lists of the package's memory and of the memory behind its ports have strictly rising addresses and no
    entry equal to what an unlisted address reads as (log entry 4), in the state after reset. (R414,
    spec/02_memory_model.md.) -/
def Obligations.MemoriesCanonicalAtReset : Prop :=
  State.reset.memories = true

/-- From every state whose memories are in their canonical form, a step gives a state whose memories are again so (log
    entry 4), whatever instruction or happening it runs, and the pod position of the package, which installation sets,
    is the same. (R350, R164, spec/02_memory_model.md.) -/
def Obligations.StepKeepsMemories : Prop :=
  ∀ s t : State, s.memories = true → step s = .next t → t.memories = true ∧ t.podPos = s.podPos

namespace Sys2Proof.Claims

/-- A word with sources a and b under the checks of R126 that writes each element of d from those of a and b, with the
poison of either source; asN: float types count as integers of their width (R138). -/
def elements2 (accept : Nat → Bool) (asN : Bool) (i : Bool → BitVec 8 → BitVec 8 → BitVec 8 → Instr)
    (ok : Nat → Bool → Nat → Nat → Nat → Prop) : Prop :=
  ∀ (s : State) (l : Bool) (d a b : BitVec 8), s.canIssue = true → s.accepts accept (fields3 d a b) = true →
    s.writesLanes (i l d a b) d.toNat (fun k => wide (s.modeAt k).type) (fun k v p =>
      let m := s.modeAt k
      let t := if asN then asInt m.type else m.type
      let w := wide m.type
      (∀ e, e < elemCount t →
        ok t m.sat (elem t (s.bitsAt w a.toNat k) e) (elem t (s.bitsAt w b.toNat k) e) (elem t v e)) ∧
      p = (s.poisonAt w a.toNat k || s.poisonAt w b.toNat k))

/-- A word with source a under the checks of R126 that writes each element of d from that of a, with a's poison. -/
def elements1 (accept : Nat → Bool) (asN : Bool) (i : Bool → BitVec 8 → BitVec 8 → Instr)
    (ok : Nat → Bool → Nat → Nat → Prop) : Prop :=
  ∀ (s : State) (l : Bool) (d a : BitVec 8), s.canIssue = true → s.accepts accept (fields2 d a) = true →
    s.writesLanes (i l d a) d.toNat (fun k => wide (s.modeAt k).type) (fun k v p =>
      let m := s.modeAt k
      let t := if asN then asInt m.type else m.type
      let w := wide m.type
      (∀ e, e < elemCount t → ok t m.sat (elem t (s.bitsAt w a.toNat k) e) (elem t v e)) ∧
      p = s.poisonAt w a.toNat k)

/-- A word with sources a and b under the checks of R126 that writes the whole operand d, with the given poison. -/
def operands2 (accept : Nat → Bool) (i : Bool → BitVec 8 → BitVec 8 → BitVec 8 → Instr)
    (ok : Mode → Nat → Nat → Nat → Nat → Prop) (pz : Nat → Bool → Bool → Bool → Bool) : Prop :=
  ∀ (s : State) (l : Bool) (d a b : BitVec 8), s.canIssue = true → s.accepts accept (fields3 d a b) = true →
    s.writesLanes (i l d a b) d.toNat (fun k => wide (s.modeAt k).type) (fun k v p =>
      let m := s.modeAt k
      let w := wide m.type
      ok m (s.bitsAt w d.toNat k) (s.bitsAt w a.toNat k) (s.bitsAt w b.toNat k) v ∧
      p = pz (s.bitsAt w d.toNat k) (s.poisonAt w d.toNat k) (s.poisonAt w a.toNat k) (s.poisonAt w b.toNat k))

end Sys2Proof.Claims

/-- Where the checks of R126 pass, ADD, SUB and MUL complete and write, in each element of each enabled lane, the
    exact sum, difference or product fitted under R132; MULHI writes the floor of the product divided by 2^w, MIN and
    MAX the smaller and the larger. P is the poison of either source, and no other register and nothing else changes
    but the course of the slices. (R138, R139, R132, R124, R125, R134, R103.) -/
def Obligations.IntegerArithmeticResults : Prop :=
  Claims.elements2 isInt false .add (fun t sat x y r => fitted t sat (intValue t x + intValue t y) r) ∧
  Claims.elements2 isInt false .sub (fun t sat x y r => fitted t sat (intValue t x - intValue t y) r) ∧
  Claims.elements2 isInt false .mul (fun t sat x y r => fitted t sat (intValue t x * intValue t y) r) ∧
  Claims.elements2 isInt false .mulhi (fun t _ x y r =>
    intValue t r = (intValue t x * intValue t y) / ((2 ^ elemWidth t : Nat) : Int)) ∧
  Claims.elements2 isInt false .min (fun t _ x y r => intValue t r = min (intValue t x) (intValue t y)) ∧
  Claims.elements2 isInt false .max (fun t _ x y r => intValue t r = max (intValue t x) (intValue t y))

/-- Where the checks pass, SHL writes x times 2^y modulo 2^w, SHR the quotient of x by 2^y, SAR the floor of the
    signed value of x by 2^y (so that counts of w or more give 0, 0, and 0 or all ones), and ROT moves bit k of x to
    bit (k + y) mod w, under every TYPE, float types as integers of their width. (R138, R139, R124, R125, R134.) -/
def Obligations.ShiftResults : Prop :=
  Claims.elements2 anyType true .shl (fun t _ x y r => r = x * 2 ^ y % 2 ^ elemWidth t) ∧
  Claims.elements2 anyType true .shr (fun _ _ x y r => r = x / 2 ^ y) ∧
  Claims.elements2 anyType true .sar (fun t _ x y r =>
    signed (elemWidth t) r = signed (elemWidth t) x / ((2 ^ y : Nat) : Int)) ∧
  Claims.elements2 anyType true .rot (fun t _ x y r =>
    r < 2 ^ elemWidth t ∧ ∀ k, k < elemWidth t → bit r ((k + y) % elemWidth t) = bit x k)

/-- Where the checks pass, AND, OR and XOR write the bitwise result of the whole registers, or of the pairs under s64
    and n64, whatever the element width; SEL writes a where bit 0 of the old d is 1 and b elsewhere, with the poison
    of the chosen source or of the old d, and the source that is not chosen adds none. (R138, R139, R144, R125.) -/
def Obligations.LogicResults : Prop :=
  Claims.operands2 anyType .and (fun _ _ x y r => r = Nat.land x y) (fun _ _ p q => p || q) ∧
  Claims.operands2 anyType .or (fun _ _ x y r => r = Nat.lor x y) (fun _ _ p q => p || q) ∧
  Claims.operands2 anyType .xor (fun _ _ x y r => r = Nat.xor x y) (fun _ _ p q => p || q) ∧
  Claims.operands2 anyType .sel (fun _ z x y r => r = if z % 2 = 1 then x else y)
    (fun z o p q => (if z % 2 = 1 then p else q) || o)

/-- Where its checks pass, MAD writes in each element the exact a times b plus the old d, fitted once; MADW writes the
    pair d from the exact product of the 32-bit sources and the old 64-bit pair, fitted in 64 bits, signed or unsigned
    as TYPE is. P is the poison of either source or of the old d. (R140, R132, R126.) -/
def Obligations.AccumulateResults : Prop :=
  (∀ (s : State) (l : Bool) (d a b : BitVec 8), s.canIssue = true → s.accepts isInt (fields3 d a b) = true →
    s.writesLanes (.mad l d a b) d.toNat (fun k => wide (s.modeAt k).type) (fun k v p =>
      let m := s.modeAt k
      let t := m.type
      let w := wide t
      (∀ e, e < elemCount t → fitted t m.sat
        (intValue t (elem t (s.bitsAt w a.toNat k) e) * intValue t (elem t (s.bitsAt w b.toNat k) e) +
          intValue t (elem t (s.bitsAt w d.toNat k) e)) (elem t v e)) ∧
      p = (s.poisonAt w a.toNat k || s.poisonAt w b.toNat k || s.poisonAt w d.toNat k))) ∧
  (∀ (s : State) (l : Bool) (d a b : BitVec 8), s.canIssue = true → d.toNat + 2 ≤ s.cx.regsN →
    s.accepts (fun t => t ≤ 1) [{ code := 1, reg := a.toNat }, { code := 2, reg := b.toNat }] = true →
    s.writesLanes (.madw l d a b) d.toNat (fun _ => true) (fun k v p =>
      let m := s.modeAt k
      let t64 := if isSigned m.type then 6 else 7
      fitted t64 m.sat (intValue m.type (s.bitsAt false a.toNat k) * intValue m.type (s.bitsAt false b.toNat k) +
        intValue t64 (s.bitsAt true d.toNat k)) v ∧
      p = (s.poisonAt false a.toNat k || s.poisonAt false b.toNat k || s.poisonAt true d.toNat k)))

/-- Whatever TYPE and SAT are, ADDC writes the low word of a + b + c into d and the carry out, 0 or 1, into d+1, where
    c is bit 0 of the old d+1; SUBB writes the low word of a - b - c and the borrow. Both registers get the poison of
    a, b or the old d+1. (R141, R98.) -/
def Obligations.CarryResults : Prop :=
  ∀ (s : State) (l : Bool) (d a b : BitVec 8), s.canIssue = true → s.inRange (carryFields d a b) = true →
    let pz := fun (k : Nat) (p : Bool) =>
      p = (s.poisonAt false a.toNat k || s.poisonAt false b.toNat k || s.poisonAt false (d.toNat + 1) k)
    s.writesLanes (.addc l d a b) d.toNat (fun _ => true) (fun k v p =>
      let z := s.bitsAt false a.toNat k + s.bitsAt false b.toNat k + s.bitsAt false (d.toNat + 1) k % 2
      v % 2 ^ 32 = z % 2 ^ 32 ∧ v / 2 ^ 32 = (if 2 ^ 32 ≤ z then 1 else 0) ∧ pz k p) ∧
    s.writesLanes (.subb l d a b) d.toNat (fun _ => true) (fun k v p =>
      let z : Int := (s.bitsAt false a.toNat k : Int) - s.bitsAt false b.toNat k - (s.bitsAt false (d.toNat + 1) k % 2 : Nat)
      ((v % 2 ^ 32 : Nat) : Int) = z % 2 ^ 32 ∧ v / 2 ^ 32 = (if z < 0 then 1 else 0) ∧ pz k p)

/-- Where the checks pass, ABS and NEG write the absolute value and the negation fitted under SAT, NOT the complement
    of the register or pair, CLZ the number of leading zero bits (w for a zero element), POPC the number of one bits,
    and BREV the bits in reverse order; P is that of the source. (R142, R132, R124, R125.) -/
def Obligations.OneSourceResults : Prop :=
  Claims.elements1 isInt false .abs (fun t sat x r => fitted t sat (max (intValue t x) (-intValue t x)) r) ∧
  Claims.elements1 isInt false .neg (fun t sat x r => fitted t sat (-intValue t x) r) ∧
  (∀ (s : State) (l : Bool) (d a : BitVec 8), s.canIssue = true → s.accepts anyType (fields2 d a) = true →
    s.writesLanes (.not l d a) d.toNat (fun k => wide (s.modeAt k).type) (fun k v p =>
      let w := wide (s.modeAt k).type
      v + s.bitsAt w a.toNat k = 2 ^ (if w then 64 else 32) - 1 ∧ p = s.poisonAt w a.toNat k)) ∧
  Claims.elements1 anyType true .clz (fun t _ x r =>
    r ≤ elemWidth t ∧ x < 2 ^ (elemWidth t - r) ∧ (x ≠ 0 → 2 ^ (elemWidth t - r) ≤ 2 * x) ∧ (x = 0 → r = elemWidth t)) ∧
  Claims.elements1 anyType true .popc (fun t _ x r => r = ((List.range (elemWidth t)).filter (fun k => bit x k)).length) ∧
  Claims.elements1 anyType true .brev (fun t _ x r =>
    r < 2 ^ elemWidth t ∧ ∀ k, k < elemWidth t → bit r k = bit x (elemWidth t - 1 - k))

/-- Where the checks pass, with pos and len from bits 7..0 and 15..8 of b and the effective length cut at the top of
    the element, BFE writes the field of a, sign-extended under a signed TYPE (0 where it is empty), BFI the old d
    with the field replaced by the low bits of a, and CMP writes in each element the relation word of the exact values
    (LT, LE, NE; EQ, LE, GE; or GT, GE, NE). (R143, R145, R126.) -/
def Obligations.BitFieldAndCompareResults : Prop :=
  Claims.operands2 fieldType .bfe (fun m _ x y r =>
      let w := if wide m.type then 64 else 32
      let pos := y % 256
      let len := if pos < w then min (y / 256 % 256) (w - pos) else 0
      r < 2 ^ w ∧ (len = 0 → r = 0) ∧
      ∀ k, k < w → 0 < len → bit r k = if k < len then bit x (pos + k) else (isSigned (asInt m.type) && bit x (pos + len - 1)))
    (fun _ _ p q => p || q) ∧
  Claims.operands2 fieldType .bfi (fun m z x y r =>
      let w := if wide m.type then 64 else 32
      let pos := y % 256
      let len := if pos < w then min (y / 256 % 256) (w - pos) else 0
      r < 2 ^ w ∧ ∀ k, k < w → bit r k = if pos ≤ k ∧ k < pos + len then bit x (k - pos) else bit z k)
    (fun _ o p q => p || q || o) ∧
  Claims.elements2 isInt false .cmp (fun t _ x y r =>
    r = if intValue t x < intValue t y then 0x51 else if intValue t x = intValue t y then 0x32 else 0x64)

/-- Where their registers are below REGS, MOV copies a register with its P bit, MOV .w8 a pair, with both P bits set
    where either source P bit is; LDI writes the sign-extended immediate and LDIH the high half over the old low half,
    both with P clear, in each enabled lane, and nothing else changes. Choices of the model that it rests on: log entry
    52. (R125, R146, R147, R98, R103.) -/
def Obligations.MoveResults : Prop :=
  ∀ (s : State) (l : Bool) (d a : BitVec 8) (imm : BitVec 16), s.canIssue = true →
    (s.inRange (fields2 d a) = true →
      s.writesLanes (.mov l d a) d.toNat (fun _ => false) (fun k v p =>
        v = s.bitsAt false a.toNat k ∧ p = s.poisonAt false a.toNat k)) ∧
    (d.toNat + 2 ≤ s.cx.regsN → a.toNat + 2 ≤ s.cx.regsN →
      s.writesLanes (.movW8 l d a) d.toNat (fun _ => true) (fun k v p =>
        v = s.bitsAt true a.toNat k ∧ p = s.poisonAt true a.toNat k)) ∧
    (d.toNat < s.cx.regsN →
      s.writesLanes (.ldi d imm) d.toNat (fun _ => false) (fun _ v p =>
        v = (imm.signExtend 32).toNat ∧ p = false) ∧
      s.writesLanes (.ldih d imm) d.toNat (fun _ => false) (fun k v p =>
        v / 2 ^ 16 = imm.toNat ∧ v % 2 ^ 16 = s.bitsAt false d.toNat k % 2 ^ 16 ∧ p = false))

/-- Where no issuing lane is enabled, each of the integer, logic, move, floating-point, cross-lane, load, store and
    atomic words, PREF, CCTL and MONITOR, completes whatever its registers and TYPE are, raises nothing, and writes no
    register and no memory, counts against no flag: only the slices move on. (R103.) -/
def Obligations.ZeroMaskRule : Prop :=
  ∀ (s : State), s.enabledLanes = [] → ∀ (l : Bool) (d a b : BitVec 8) (imm : BitVec 16) (src dst : BitVec 4)
    (sem scope : BitVec 3) (lev : BitVec 1) (size : BitVec 2) (z : BitVec 1) (i : Instr),
    i ∈ [Instr.add l d a b, .sub l d a b, .mul l d a b, .mulhi l d a b, .min l d a b, .max l d a b, .and l d a b,
      .or l d a b, .xor l d a b, .shl l d a b, .shr l d a b, .sar l d a b, .rot l d a b, .mad l d a b, .madw l d a b,
      .addc l d a b, .subb l d a b, .abs l d a, .neg l d a, .not l d a, .clz l d a, .popc l d a, .brev l d a,
      .bfe l d a b, .bfi l d a b, .sel l d a b, .cmp l d a b, .mov l d a, .movW8 l d a, .ldi d imm, .ldih d imm,
      .fadd l d a b, .fsub l d a b, .fmul l d a b, .fdivs l d a b, .ffma l d a b, .fmin l d a b, .fmax l d a b,
      .fsqrt l d a, .frcp l d a, .frsq l d a, .fexp2 l d a, .flog2 l d a, .fsin l d a, .fcos l d a, .fabs l d a,
      .fneg l d a, .fclass l d a, .fcmp l d a b, .cvt l d a src dst, .pack2 l d a b, .shfl l d a b, .shflup l d a b,
      .shfldn l d a b, .shflx l d a b, .bcast l d a b, .voteAny l d a, .voteAll l d a, .voteBallot l d a, .voteEq l d a,
      .reduxAdd l d a, .reduxMin l d a, .reduxMax l d a, .reduxAnd l d a, .reduxOr l d a, .reduxXor l d a,
      .reduxFadd l d a, .reduxFmin l d a, .reduxFmax l d a, .reduxScanadd l d a, .reduxEscanadd l d a, .rdsp d b,
      .ld l d a sem scope size, .st l d a sem scope size, .lds l d a sem size, .sts l d a sem size, .ldc l d a size,
      .atom l d a sem scope z, .atomnr l d a sem scope z, .cas l d a sem scope z, .monitor l a, .pref l lev a, .cctlInv l a,
      .cctlWb l a, .cctlInvl1] →
    ∃ t, exec i s = .next t ∧ s.onlyRegs t [] []

namespace Sys2Proof.Claims

/-- A word on floating-point elements (R134): each element of d is the given function of the source elements, or the
poison encoding where a source register is poisoned or a source element is the poison encoding; P where one is. -/
def floats (i : BitVec 8 → BitVec 8 → BitVec 8 → Instr) (fs : BitVec 8 → BitVec 8 → BitVec 8 → List Field)
    (srcs : BitVec 8 → BitVec 8 → BitVec 8 → List (BitVec 8)) (f : Fmt → FMode → List Nat → Nat) : Prop :=
  ∀ (s : State) (d a b : BitVec 8), s.canIssue = true → s.accepts isFloat (fs d a b) = true →
    s.writesLanes (i d a b) d.toNat (fun _ => false) (fun k v p =>
      let m := s.modeAt k
      let t := m.type
      let xs := fun e => (srcs d a b).map (fun r => elem t (s.bitsAt false r.toNat k) e)
      let bad := fun e => (srcs d a b).any (fun r => s.poisonAt false r.toNat k) || (xs e).any (fmtOf t).isPoison
      (∀ e, e < elemCount t → elem t v e =
        (if bad e then (fmtOf t).poison else f (fmtOf t) m.fmode (xs e)) % 2 ^ elemWidth t) ∧
      p = (List.range (elemCount t)).any bad)

/-- The state with the issuing slices changed. -/
def updated (s : State) (upd : Nat → Slice → Slice) : State := s.modGg (fun g => g.modSlices s.issue.slices upd)

/-- The word completes: it changes the issuing slices so, and nothing else but the course of the slices; am too is so
where the word is not the last of its clause. -/
def changesSlices (s : State) (i : Instr) (upd : Nat → Slice → Slice) : Prop :=
  ∃ t, exec i s = .next t ∧ (updated s upd).onlyRegs t [] [] ∧
    (s.midClause = true → ∀ k, (t.gg.slice k).am = ((updated s upd).gg.slice k).am)

/-- The issuing slices exist and are runnable, and no jump frame is open. -/
def running (s : State) : Bool :=
  s.canIssue && s.issuing != [] && s.gg.frames == [] &&
  s.issuing.all (fun k => k < s.gg.slices.length && (s.gg.slice k).st == .runnable)

/-- A control transfer that takes place: the issuing slices stand at their destinations before a header, with their
return stacks changed so, and nothing else changes but the course of the slices. -/
def jumps (s : State) (i : Instr) (dest : Nat → Nat) (upd : Nat → Slice → Slice) : Prop :=
  ∃ t, exec i s = .next t ∧ (updated s upd).onlyRegs t [] [] ∧
    ∀ k ∈ s.issuing, (t.gg.slice k).pc = dest k ∧ (t.gg.slice k).widx = 0

/-- The taken destinations are clause headers whose words are at hand (R63). -/
def headersAt (s : State) (ds : List Dest) : Bool :=
  s.badTargets ds == [] && ds.all (fun d => !d.taken || (s.codeAway s.cx d.pc).isNone)

end Sys2Proof.Claims

/-- Where the checks pass, each element of each enabled lane gets the rounded sum, difference, product, quotient, a
    times b plus the old d, smaller or larger of the source elements in the format of its TYPE, or the poison encoding
    where a source is poisoned, and P is set exactly where an element is poisoned; nothing else changes. Under FTZ the
    tininess that the rounding judges is the model's choice (log entry 72). (R134, R148, R149, R152, R126.) -/
def Obligations.FloatTwoSourceResults : Prop :=
  ∀ l : Bool,
  Claims.floats (.fadd l) fields3 (fun _ a b => [a, b]) (on2 Fmt.add) ∧
  Claims.floats (.fsub l) fields3 (fun _ a b => [a, b]) (on2 Fmt.sub) ∧
  Claims.floats (.fmul l) fields3 (fun _ a b => [a, b]) (on2 Fmt.mul) ∧
  Claims.floats (.fdivs l) fields3 (fun _ a b => [a, b]) (on2 Fmt.div) ∧
  Claims.floats (.ffma l) fields3 (fun d a b => [a, b, d]) (on3 Fmt.fma) ∧
  Claims.floats (.fmin l) fields3 (fun _ a b => [a, b]) (on2 (fun f m x y => f.min m.ftz x y)) ∧
  Claims.floats (.fmax l) fields3 (fun _ a b => [a, b]) (on2 (fun f m x y => f.max m.ftz x y))

/-- Where the checks pass, each element of each enabled lane gets the function's value in the format of its TYPE, or
    the poison encoding where the source is poisoned, and P is set exactly where an element is poisoned. The functions
    of R153 give the GS-9700's value, the exact one rounded once into FP32; the working precision at which the model
    decides that rounding is its own (log entry 12), and so is the tininess judged under FTZ (log entry 72). (R134,
    R148, R152, R153.) -/
def Obligations.FloatOneSourceResults : Prop :=
  ∀ l : Bool,
  Claims.floats (fun d a _ => .fsqrt l d a) (fun d a _ => fields2 d a) (fun _ a _ => [a]) (on1 Fmt.sqrt) ∧
  Claims.floats (fun d a _ => .frcp l d a) (fun d a _ => fields2 d a) (fun _ a _ => [a]) (on1 (approxFn fRcp)) ∧
  Claims.floats (fun d a _ => .frsq l d a) (fun d a _ => fields2 d a) (fun _ a _ => [a]) (on1 (approxFn fRsq)) ∧
  Claims.floats (fun d a _ => .fexp2 l d a) (fun d a _ => fields2 d a) (fun _ a _ => [a]) (on1 (approxFn fExp2)) ∧
  Claims.floats (fun d a _ => .flog2 l d a) (fun d a _ => fields2 d a) (fun _ a _ => [a]) (on1 (approxFn fLog2)) ∧
  Claims.floats (fun d a _ => .fsin l d a) (fun d a _ => fields2 d a) (fun _ a _ => [a]) (on1 (approxFn fSin)) ∧
  Claims.floats (fun d a _ => .fcos l d a) (fun d a _ => fields2 d a) (fun _ a _ => [a]) (on1 (approxFn fCos))

/-- Where the checks pass, FABS clears and FNEG inverts the sign bit of each element and copies the other bits (the
    poison encoding's where P is set) with P kept; FCLASS writes the class word of each element, bit 10 where P is
    set, and clears P; FCMP writes the relation word of each pair of elements, 0x48 with P set where one is poisoned.
    (R150, R151, R145, R134.) -/
def Obligations.FloatSignClassCompare : Prop :=
  ∀ (s : State) (l : Bool) (d a b : BitVec 8), s.canIssue = true →
    (s.accepts isFloat (fields2 d a) = true →
      let sign := fun (i : Instr) (neg : Bool → Bool) =>
        s.writesLanes i d.toNat (fun _ => false) (fun k v p =>
          let t := (s.modeAt k).type
          let f := fmtOf t
          (∀ e, e < elemCount t →
            let x := elem t (s.bitsAt false a.toNat k) e
            elem t v e % 2 ^ (f.ebits + f.fbits) = (if s.poisonAt false a.toNat k then f.poison else x) % 2 ^ (f.ebits + f.fbits) ∧
            f.sign (elem t v e) = neg (f.sign x)) ∧
          p = s.poisonAt false a.toNat k)
      sign (.fabs l d a) (fun _ => false) ∧ sign (.fneg l d a) (fun n => !n) ∧
      s.writesLanes (.fclass l d a) d.toNat (fun _ => false) (fun k v p =>
        let t := (s.modeAt k).type
        (∀ e, e < elemCount t → elem t v e =
          (if s.poisonAt false a.toNat k then 2 ^ 10 else (fmtOf t).cls (elem t (s.bitsAt false a.toNat k) e)) % 2 ^ elemWidth t) ∧
        p = false)) ∧
    (s.accepts isFloat (fields3 d a b) = true →
      s.writesLanes (.fcmp l d a b) d.toNat (fun _ => false) (fun k v p =>
        let m := s.modeAt k
        let t := m.type
        let f := fmtOf t
        let x := fun e => elem t (s.bitsAt false a.toNat k) e
        let y := fun e => elem t (s.bitsAt false b.toNat k) e
        let bad := fun e => s.poisonAt false a.toNat k || s.poisonAt false b.toNat k || f.isPoison (x e) || f.isPoison (y e)
        (∀ e, e < elemCount t → elem t v e =
          if bad e then 0x48 else match f.compare m.ftz (x e) (y e) with
            | some .lt => 0x51 | some .eq => 0x32 | some .gt => 0x64 | none => 0x48) ∧
        p = (List.range (elemCount t)).any bad))

/-- CVT ignores TYPE: between integer kinds it writes the exact value fitted into the destination kind; a poisoned
    source gives the poison encoding of a floating-point kind or 0 with P set; a destination in the high half keeps
    the low half; a 64-bit kind is a pair. PACK2, where its checks pass, writes the element of a below that of b:
    integers fitted, floating-point values converted from FP32, poison as the poison encoding. Under FTZ the tininess
    that a conversion to a floating-point kind judges is the model's choice (log entry 72). (R154, R155, R132, R134.) -/
def Obligations.ConversionResults : Prop :=
  (∀ (s : State) (l : Bool) (d a : BitVec 8) (src dst : BitVec 4), s.canIssue = true → (Instr.cvt l d a src dst).WF →
    d.toNat + (if kindPair dst.toNat then 2 else 1) ≤ s.cx.regsN → a.toNat + (if kindPair src.toNat then 2 else 1) ≤ s.cx.regsN →
    s.writesLanes (.cvt l d a src dst) d.toNat (fun _ => kindPair dst.toNat) (fun k v p =>
      let m := s.modeAt k
      let w := kindPair src.toNat
      let x := s.gg.kindBits src.toNat a.toNat k
      let bad := s.poisonAt w a.toNat k || (match kindFmt src.toNat with | some f => f.isPoison x | none => false)
      let y := if kindHigh dst.toNat then v / 2 ^ 16 else v
      (kindHigh dst.toNat = true → v % 2 ^ 16 = s.bitsAt false d.toNat k % 2 ^ 16) ∧
      p = (bad || (kindHigh dst.toNat && s.poisonAt false d.toNat k)) ∧
      (bad = true → y = match kindFmt dst.toNat with | some f => f.poison | none => 0) ∧
      (bad = false → match kindFmt src.toNat, kindFmt dst.toNat with
        | none, none => fitted (kindInt dst.toNat) m.sat (intValue (kindInt src.toNat) x) y
        | some g, some f => y = g.convert f m.fmode x % 2 ^ (if kindHigh dst.toNat then 16 else 32)
        | none, some f => y = f.ofInt m.fmode (intValue (kindInt src.toNat) x) % 2 ^ (if kindHigh dst.toNat then 16 else 32)
        | some g, none =>
          let t := kindInt dst.toNat
          (g.isNan x = true → y = 0) ∧
          (g.isNan x = false → g.isInf x = true → intValue t y = if g.sign x then intMin t else intMax t) ∧
          (g.isNan x = false → g.isInf x = false → intValue t y = clamp (intMin t) (intMax t) (g.toInt m.fmode x))))) ∧
  (∀ (s : State) (l : Bool) (d a b : BitVec 8), s.canIssue = true → s.accepts packType (fields3 d a b) = true →
    s.writesLanes (.pack2 l d a b) d.toNat (fun _ => false) (fun k v p =>
      let m := s.modeAt k
      let f := fmtOf m.type
      let half := fun (r : BitVec 8) (h : Nat) =>
        if isFloat m.type then
          h = if s.poisonAt false r.toNat k || fp32.isPoison (s.bitsAt false r.toNat k) then f.poison
              else fp32.convert f m.fmode (s.bitsAt false r.toNat k)
        else fitted m.type m.sat (intValue (if isSigned m.type then 0 else 1) (s.bitsAt false r.toNat k)) h ∧ h < 2 ^ 16
      ∃ lo hi, half a lo ∧ half b hi ∧ v = (lo + 2 ^ 16 * hi) % 2 ^ 32 ∧
        p = (s.poisonAt false a.toNat k || s.poisonAt false b.toNat k)))

/-- Whatever TYPE is, where the registers are below REGS, each enabled lane gets the value and P bit of a in the lane
    that its own b selects (SHFL: b mod 32; SHFLUP: the lane b below, or itself; SHFLDN: the lane b above, or itself;
    SHFLX: the exclusive or), all sources read before any lane is written, or 0 with P set where its b is poisoned;
    RDSP writes the lane's logical position with P clear. (R156, R157, R161.) -/
def Obligations.ShuffleResults : Prop :=
  ∀ (s : State) (l : Bool) (d a b f : BitVec 8), s.canIssue = true →
    (s.inRange (fields3 d a b) = true →
      let go := fun (i : Instr) (sel : Nat → Nat → Nat) =>
        s.writesLanes i d.toNat (fun _ => false) (fun k v p =>
          if s.poisonAt false b.toNat k then v = 0 ∧ p = true
          else v = s.bitsAt false a.toNat (sel k (s.bitsAt false b.toNat k)) ∧
            p = s.poisonAt false a.toNat (sel k (s.bitsAt false b.toNat k)))
      go (.shfl l d a b) (fun _ x => x % 32) ∧
      go (.shflup l d a b) (fun k x => if x ≤ k then k - x else k) ∧
      go (.shfldn l d a b) (fun k x => if k + x ≤ 31 then k + x else k) ∧
      go (.shflx l d a b) (fun k x => k ^^^ (x % 32))) ∧
    (d.toNat < s.cx.regsN → f.toNat ≤ 9 →
      s.writesLanes (.rdsp d f) d.toNat (fun _ => false) (fun k v p =>
        v = (nthOr 0 ([k, k / 4, s.issue.gang, s.cx.gangsN] ++ [0, 1, 2].map (nthOr 0 s.cx.wgid) ++
              [0, 1, 2].map (nthOr 0 s.cx.nwg)) f.toNat) % 2 ^ 32 ∧ p = false))

/-- Where the registers are below REGS, every enabled lane gets the value and P bit of a in the lane that bits 4..0 of
    b of the leader lane of the issuing slices name, or 0 with P set where the leader's b is poisoned; the word
    0x9C03_0102 is BCAST v3, v1, v2. (R158.) -/
def Obligations.BroadcastResult : Prop :=
  decode 0x9C030102 = some (.bcast false 3 1 2) ∧
  ∀ (s : State) (l : Bool) (d a b : BitVec 8), s.canIssue = true → s.inRange (fields3 d a b) = true →
    s.writesLanes (.bcast l d a b) d.toNat (fun _ => false) (fun _ v p =>
      if s.poisonAt false b.toNat s.leader then v = 0 ∧ p = true
      else v = s.bitsAt false a.toNat (s.bitsAt false b.toNat s.leader % 32) ∧
        p = s.poisonAt false a.toNat (s.bitsAt false b.toNat s.leader % 32))

/-- Where the registers are below REGS, every enabled lane gets 1 where some, or every, participant has bit 0 of a
    set, the mask of the participants that have it, or 1 where all participants hold the same a, and else 0; P is the
    or of the participants' P bits. (R159, R156.) -/
def Obligations.VoteResults : Prop :=
  ∀ (s : State) (l : Bool) (d a : BitVec 8), s.canIssue = true → s.inRange (fields2 d a) = true →
    let on := s.enabledLanes
    let go := fun (i : Instr) (ok : Nat → Prop) =>
      s.writesLanes i d.toNat (fun _ => false) (fun _ v p => ok v ∧ p = on.any (s.poisonAt false a.toNat))
    let odd := fun k => s.bitsAt false a.toNat k % 2 = 1
    go (.voteAny l d a) (fun v => v = if ∃ k ∈ on, odd k then 1 else 0) ∧
    go (.voteAll l d a) (fun v => v = if ∀ k ∈ on, odd k then 1 else 0) ∧
    go (.voteBallot l d a) (fun v => v < 2 ^ 32 ∧ ∀ k, k < 32 → (bit v k = true ↔ k ∈ on ∧ odd k)) ∧
    go (.voteEq l d a) (fun v => v = if ∀ j ∈ on, ∀ k ∈ on, s.bitsAt false a.toNat j = s.bitsAt false a.toNat k then 1 else 0)

/-- Where its checks pass under the mode of the leader's slice, REDUX add, min and max write the exact sum fitted
    once, the smallest and the largest operand into every participant; and, or and xor the bitwise fold; the scans the
    fitted sum up to the lane, with or without it; the floating-point sub-ops the fold in ascending lane order, or the
    FP32 poison encoding where a participant is poisoned. P is the or of the P bits that went in. Under FTZ the
    tininess that the fold of fadd judges is the model's choice (log entry 72). (R160, R132, R126.) -/
def Obligations.ReductionResults : Prop :=
  ∀ (s : State) (l : Bool) (d a : BitVec 8), s.canIssue = true →
    let m := s.leadMode
    let t := m.type
    let w := wide t
    let on := s.enabledLanes
    let sum := fun (ks : List Nat) => (ks.map (fun k => intValue t (s.bitsAt w a.toNat k))).sum
    let go := fun (i : Instr) (ok : Nat → Nat → Prop) (mine : Nat → List Nat) =>
      s.writesLanes i d.toNat (fun _ => w) (fun k v p => ok k v ∧ p = (mine k).any (s.poisonAt w a.toNat))
    let all := fun (_ : Nat) => on
    (s.reduxFault reduxInt d a = none →
      go (.reduxAdd l d a) (fun _ v => fitted t m.sat (sum on) v) all ∧
      go (.reduxMin l d a) (fun _ v => (∃ k ∈ on, v = s.bitsAt w a.toNat k) ∧
        ∀ k ∈ on, intValue t v ≤ intValue t (s.bitsAt w a.toNat k)) all ∧
      go (.reduxMax l d a) (fun _ v => (∃ k ∈ on, v = s.bitsAt w a.toNat k) ∧
        ∀ k ∈ on, intValue t (s.bitsAt w a.toNat k) ≤ intValue t v) all ∧
      go (.reduxScanadd l d a) (fun k v => fitted t m.sat (sum (on.filter (fun j => j ≤ k))) v) (fun k => on.filter (fun j => j ≤ k)) ∧
      go (.reduxEscanadd l d a) (fun k v => fitted t m.sat (sum (on.filter (fun j => j < k))) v) (fun k => on.filter (fun j => j < k))) ∧
    (s.reduxFault anyType d a = none →
      go (.reduxAnd l d a) (fun _ v => ∀ j, j < 64 → (bit v j = true ↔ on ≠ [] ∧ ∀ k ∈ on, bit (s.bitsAt w a.toNat k) j = true)) all ∧
      go (.reduxOr l d a) (fun _ v => ∀ j, j < 64 → (bit v j = true ↔ ∃ k ∈ on, bit (s.bitsAt w a.toNat k) j = true)) all ∧
      go (.reduxXor l d a) (fun _ v => ∀ j, j < 64 →
        (bit v j = true ↔ (on.filter (fun k => bit (s.bitsAt w a.toNat k) j)).length % 2 = 1)) all) ∧
    (s.reduxFault (fun t => t == 8) d a = none →
      let fold := fun (i : Instr) (f : FMode → Nat → Nat → Nat) =>
        go i (fun _ v =>
          let xs := on.map (s.bitsAt false a.toNat)
          v = (if on.any (s.poisonAt false a.toNat) || xs.any fp32.isPoison then fp32.poison
               else match xs with
                 | [] => 0
                 | x :: ys => ys.foldl (f m.fmode) (if fp32.isNan x then fp32.nan else fp32.ftzIn m.ftz x)) % 2 ^ 32) all
      fold (.reduxFadd l d a) fp32.add ∧ fold (.reduxFmin l d a) (fun c => fp32.min c.ftz) ∧
      fold (.reduxFmax l d a) (fun c => fp32.max c.ftz))

/-- The word 0 is NOP. It completes in every state; no register, flag count, memory, accumulator or special register
    changes, and where it is not the last word of its clause the issuing slices stand at the next word, 4 bytes on, in
    the state they were in. (R75.) -/
def Obligations.NopHasNoEffect : Prop :=
  decode 0 = some .nop ∧ (∀ n fb last, fitsClause n fb last .nop = true) ∧
  ∀ s : State, ∃ t, exec .nop s = .next t ∧ s.onlyRegs t [] [] ∧
    (s.canIssue = true → s.midClause = true → ∀ k, k < s.gg.slices.length →
      (bit s.issue.slices k = true → t.gg.slice k = { s.gg.slice k with pc := s.issue.pc + 4, widx := s.issue.widx + 1 }) ∧
      (bit s.issue.slices k = false → t.gg.slice k = s.gg.slice k))

/-- MODE puts its immediate into the mode register of every issuing slice. GUARD, where its register is below REGS and
    unpoisoned in the active lanes, sets each lane's guard bit to bit 0 of the register in active lanes and 0 in
    others, with its sense; GUARD off restores all ones and sense 0. STAGE, where its registers are below REGS, makes
    the staging buffer name exactly those registers. (R77, R78, R101, R98.) -/
def Obligations.ModeGuardStageResults : Prop :=
  ∀ (s : State) (l : Bool) (a n : BitVec 8) (imm : BitVec 16), s.canIssue = true →
    Claims.changesSlices s (.mode imm) (fun _ sl => { sl with mode := imm }) ∧
    Claims.changesSlices s .guardOff (fun _ sl => { sl with guard := 0xF, sense := false }) ∧
    (a.toNat < s.cx.regsN → (s.activeLanes.all (fun k => !s.poisonAt false a.toNat k)) = true →
      let bits4 := fun (i : Nat) => BitVec.ofNat 4 (maskOf ((List.range 4).filter (fun b =>
        s.gg.am (4 * i + b) && s.bitsAt false a.toNat (4 * i + b) % 2 == 1)))
      Claims.changesSlices s (.guard l a) (fun i sl => { sl with guard := bits4 i, sense := false }) ∧
      Claims.changesSlices s (.guardInverted l a) (fun i sl => { sl with guard := bits4 i, sense := true })) ∧
    (1 ≤ n.toNat → a.toNat + n.toNat ≤ s.cx.regsN → s.cx.regsN ≤ 256 →
      ∃ t, exec (.stage a n) s = .next t ∧ s.onlyRegs t [] [] ∧
        (s.midClause = true → t.gg.staging = (List.range n.toNat).map (fun i => a.toNat + i)))

/-- MSAVE writes 1 or 0 by the active mask into every lane of the issuing slices, MPOP the number of active lanes and
    MFIRST the lowest active lane or all ones, with P clear and nothing else changed; MLOAD, MAND, MANDN and MOR,
    where the register is below REGS and unpoisoned in the lanes whose bit they use, set am from bit 0 of the register
    alone, and-ed, and-not-ed and or-ed with the old am; MSET sets it to all ones. (R104, R98.) -/
def Obligations.MaskGroupResults : Prop :=
  ∀ (s : State) (l : Bool) (d a : BitVec 8), s.canIssue = true →
    (d.toNat < s.cx.regsN →
      let go := fun (i : Instr) (f : Nat → Word) =>
        ∃ t, exec i s = .next t ∧ s.onlyRegs t [d.toNat] (lanesOf s.issue.slices) ∧
          ∀ k ∈ lanesOf s.issue.slices, t.regAt s.issue.ctx s.issue.gang d.toNat k = { val := f k, p := false }
      let act := (lanesOf s.issue.slices).filter s.gg.am
      go (.msave d) (fun k => if s.gg.am k then 1 else 0) ∧
      go (.mpop d) (fun _ => BitVec.ofNat 32 act.length) ∧
      go (.mfirst d) (fun _ => match act with | k :: _ => BitVec.ofNat 32 k | [] => 0xFFFFFFFF)) ∧
    Claims.changesSlices s .mset (fun _ sl => { sl with am := 0xF }) ∧
    (a.toNat < s.cx.regsN →
      let go := fun (i : Instr) (tested : Bool → Bool) (f : Bool → Bool → Bool) =>
        ((lanesOf s.issue.slices).all (fun k => !(tested (s.gg.am k) && s.poisonAt false a.toNat k))) = true →
        Claims.changesSlices s i (fun i sl => { sl with am := BitVec.ofNat 4 (maskOf ((List.range 4).filter (fun b =>
          f (s.gg.am (4 * i + b)) (s.bitsAt false a.toNat (4 * i + b) % 2 == 1)))) })
      go (.mload l a) (fun _ => true) (fun _ b => b) ∧ go (.mand l a) (fun m => m) (fun m b => m && b) ∧
      go (.mandn l a) (fun m => m) (fun m b => m && !b) ∧ go (.mor l a) (fun m => !m) (fun m b => m || b))

/-- Where the taken destinations are clause headers at hand, no jump frame is open and no YIELD has been asked for,
    BRA moves every issuing slice to its address plus four times the sign-extended offset; CALL also pushes the next
    address and RET pops one (on stacks that are not full, or not empty); BZM, BNZM, BANY and BALL decide for each
    slice by its own mask, or by bit 0 of the register in its enabled lanes, and the slices that do not take the
    branch stand at the next address. (R105, R106, R107, R63.) -/
def Obligations.BranchResults : Prop :=
  ∀ (s : State) (l : Bool) (c : BitVec 8) (o : BitVec 24) (p : BitVec 16),
    Claims.running s = true → s.yieldAsk = .no →
    let far := (s.issue.pc + 4 * o.toInt : Int)
    let near := (s.issue.pc + 4 * p.toInt : Int)
    let keep := fun (_ : Nat) (sl : Slice) => sl
    let split := fun (i : Instr) (take : Nat → Bool) =>
      Claims.headersAt s (s.branchDests p take) = true →
        Claims.jumps s i (fun k => if take k then wrap 64 near else s.issue.pc + 4) keep
    let on := fun (k : Nat) => ((List.range 4).map (fun b => 4 * k + b)).filter s.gg.enabled
    let set := fun (k : Nat) => s.bitsAt false c.toNat k % 2 == 1
    (Claims.headersAt s (s.allTo (wrap 64 far)) = true →
      Claims.jumps s (.bra o) (fun _ => wrap 64 far) keep ∧
      (s.issuing.all (fun k => (s.gg.slice k).returns.length < Config.returnDepth) = true →
        Claims.jumps s (.call o) (fun _ => wrap 64 far) (fun _ sl => { sl with returns := (s.issue.pc + 4) :: sl.returns }))) ∧
    (s.issuing.all (fun k => (s.gg.slice k).returns != []) = true →
      Claims.headersAt s (s.issuing.map (fun k => { slice := k, pc := nthOr 0 (s.gg.slice k).returns 0, taken := true })) = true →
      Claims.jumps s .ret (fun k => nthOr 0 (s.gg.slice k).returns 0) (fun _ sl => { sl with returns := sl.returns.tail })) ∧
    split (.bzm p) (fun k => (s.gg.slice k).am == 0) ∧ split (.bnzm p) (fun k => !((s.gg.slice k).am == 0)) ∧
    (c.toNat < s.cx.regsN → (s.enabledLanes.all (fun k => !s.poisonAt false c.toNat k)) = true →
      split (.bany l c p) (fun k => (on k).any set) ∧ split (.ball l c p) (fun k => (on k).all set))

/-- JTX, where its checks pass, some lane is enabled and the code of its first target is at hand, opens a frame with the table's token and join address, sends
    the slices of the lowest selected index to their target under the mask of the lanes that selected it, and holds
    the frame's other slices. REGANG parks the issuing slices under its token at the next address, where another slice
    of the gang still runs. EXIT, which no loss is waiting for, ends the issuing slices, and the gang where they are
    its last. YIELD and YIELD regroup note what the slice asks of the end of its clause. Choices of the model that it
    rests on: log entry 28. (R109, R112, R113, R115, R116.) -/
def Obligations.ReconvergenceResults : Prop :=
  ∀ (s : State) (l : Bool) (x tb : BitVec 8) (tok : BitVec 3), Claims.running s = true →
    (let (token, join, targets) := nthOr (0, 0, []) s.cx.jtabs tb.toNat
     ∀ j left, (List.range targets.length).filter (fun i => s.enabledLanes.any (fun k => s.bitsAt false x.toNat k == i)) = j :: left →
      s.jtxFault x.toNat tb.toNat token targets.length = none → s.notHeader s.cx (nthOr 0 targets j) = none →
      s.codeAway s.cx (nthOr 0 targets j) = none → s.yieldAsk = .no →
      ∃ t, exec (.jtx l x tb) s = .next t ∧ s.onlyRegs t [] [] ∧
        (∃ f, t.gg.frames = [f] ∧ f.token = token ∧ f.join = join ∧ f.group = some j) ∧
        ∀ k ∈ s.issuing,
          let mine := (List.range 4).filter (fun b => s.gg.enabled (4 * k + b) && s.bitsAt false x.toNat (4 * k + b) == j)
          (mine ≠ [] → (t.gg.slice k).pc = nthOr 0 targets j ∧ (t.gg.slice k).st = .runnable ∧
            (t.gg.slice k).am = BitVec.ofNat 4 (maskOf mine)) ∧
          (mine = [] → (t.gg.slice k).st = .held)) ∧
    (Claims.headersAt s (s.allTo (s.issue.pc + 4)) = true →
      (∃ k, k < s.gg.slices.length ∧ k ∉ s.issuing ∧ (s.gg.slice k).st = .runnable) →
      ∃ t, exec (.regang tok) s = .next t ∧ s.onlyRegs t [] [] ∧
        ∀ k ∈ s.issuing, (t.gg.slice k).st = .parked tok.toNat ∧ (t.gg.slice k).pc = s.issue.pc + 4) ∧
    ((s.takeLost 0xFF).isNone = true → s.gg.faulted = [] → s.gg.remoteOut = false →
      ∃ t, exec .exit s = .next t ∧ (∀ k ∈ s.issuing, (t.gg.slice k).st = .exited) ∧
        (s.lastExit = true → t.gg.ended = true) ∧ (s.gg.marks = [] → t.dram = s.dram ∧ t.sysMem = s.sysMem)) ∧
    (∀ ask, ask = YieldAsk.plain ∨ ask = YieldAsk.regroup →
      ∃ t, exec (if ask = .plain then .yield else .yieldRegroup) s = .next t ∧ s.onlyRegs t [] [] ∧
        (s.midClause = true → ∀ k ∈ s.issuing, (t.gg.slice k).yieldAsk = ask))

/-- Where every flag of its wait mask is set and no loss or conversion fault of those flags waits, a header completes:
    the issuing slices stand at the first word, FA and FB are pending with the counts they had, and no register and no
    memory changes. Where a flag of the mask is pending, the slices wait. (R62, R67, R44.) -/
def Obligations.ClauseHeaderArms : Prop :=
  ∀ (s : State) (wait : BitVec 12) (fa fb : BitVec 4) (len : BitVec 5), Claims.running s = true → s.gg.flags.length = 12 →
    s.gg.lost = [] → s.gg.faulted = [] →
    (s.gg.waitDone wait = true →
      ∃ t, exec (.clauseHeader wait fa fb len) s = .next t ∧
        (∀ k ∈ s.issuing, (t.gg.slice k).pc = s.issue.pc + 4 ∧ (t.gg.slice k).widx = 1 ∧ (t.gg.slice k).st = .runnable) ∧
        (∀ f : BitVec 4, f = fa ∨ f = fb → f.toNat < 12 → t.gg.flagSet f.toNat = false ∧
          (nthOr {} t.gg.flags f.toNat).count = (nthOr {} s.gg.flags f.toNat).count) ∧
        (∀ c g r k, t.regAt c g r k = s.regAt c g r k) ∧ t.dram = s.dram ∧ t.sysMem = s.sysMem) ∧
    (s.gg.waitDone wait = false →
      ∃ t, exec (.clauseHeader wait fa fb len) s = .next t ∧ s.onlyRegs t [] [] ∧
        ∀ k ∈ s.issuing, (t.gg.slice k).st ≠ .runnable)

/-- Where a lane is enabled and an issuing slice of a running context has a TYPE that ADD or FADD does not accept, the
    word takes TYPE_MISMATCH: no register changes, the context stops with a fault record that holds the code, the
    context, the gang, the slices, the addresses and word index of the word and the TYPE value, precise and resumable.
    Where TYPE is accepted, an odd register of an ADD under a 64-bit TYPE gives the record of REG_PAIR; and where there
    is none, a register of ADD or FADD, or the upper one of a pair, at or above REGS gives that of REG_RANGE, each with
    the register and its field code. Of several such fields the record names the first, which is the model's choice (log
    entries 53, 86). (R126, R125, R98, R66, R216, R420.) -/
def Obligations.ArithmeticChecksRaise : Prop :=
  ∀ (s : State) (l : Bool) (d a b : BitVec 8), s.canIssue = true → s.enabledLanes ≠ [] → s.cx.run = .running →
    let stops := fun (i : Instr) (code d0 d1 : Nat) =>
      ∃ t r, exec i s = .next t ∧ s.regsKept t [] [] ∧ t.dram = s.dram ∧ t.sysMem = s.sysMem ∧
        t.cx.run = .stopping ∧ t.cx.cause = .fault ∧ t.cx.fault = some r ∧
        r.code = code ∧ r.flags = 3 ∧ r.ctx = s.issue.ctx ∧ r.part = s.cx.part ∧ r.gang = s.issue.gang ∧
        r.slices = s.issue.slices ∧ r.widx = s.issue.widx ∧ r.hdr = s.issue.hdr ∧ r.pc = s.issue.pc ∧
        r.detail0 = d0 ∧ r.detail1 = d1 ∧ r.cycle = s.cycle (dieOf s.cx.core)
    let types := fun (ok : Nat → Bool) => s.issuing.filter (fun k => !ok (modeOf (s.gg.slice k).mode).type)
    (∀ k ks, types isInt = k :: ks →
      stops (.add l d a b) 0x0004 (modeOf (s.gg.slice k).mode).type (maskOf (k :: ks))) ∧
    (∀ k ks, types isFloat = k :: ks →
      stops (.fadd l d a b) 0x0004 (modeOf (s.gg.slice k).mode).type (maskOf (k :: ks))) ∧
    let fields := [(0, d.toNat), (1, a.toNat), (2, b.toNat)]
    let width := if s.anyWide then 2 else 1
    (∀ code r, types isInt = [] → s.anyWide = true → fields.find? (fun e => e.2 % 2 == 1) = some (code, r) →
      stops (.add l d a b) 0x0003 r code) ∧
    (∀ code r, types isInt = [] → s.anyWide = false ∨ fields.all (fun e => e.2 % 2 == 0) = true →
      fields.find? (fun e => s.cx.regsN < e.2 + width) = some (code, r) → stops (.add l d a b) 0x0002 (max r s.cx.regsN) code) ∧
    (∀ code r, types isFloat = [] → fields.find? (fun e => s.cx.regsN < e.2 + 1) = some (code, r) →
      stops (.fadd l d a b) 0x0002 (max r s.cx.regsN) code)

/-- Where a gang's count has reached 256 words, QUANTUM_EXPIRY gives the turn to the runnable sub-gang that comes next
    in rising order of lowest slice, with its count at 0. Where a gathering of a unit has lasted its limit,
    COMPACTION_GATHERING_LIMIT ends it. Neither changes a register or a memory. Choices of the model that it rests on:
    log entry 1. (R95, R117, spec/04_core_execution.md.) -/
def Obligations.QuantumAndGatheringLimit : Prop :=
  ∀ (s : State) (c g u : Nat) (x : Ctx), s.ctxOf c = some x →
    (g < x.gangs.length → 256 ≤ (x.gang g).quantum →
      ∃ t y, exec (.quantumExpiry c g) s = .next t ∧ s.onlyRegs t [] [] ∧ t.ctxOf c = some y ∧
        ∀ sub k, (x.gang g).cur = some sub →
          (x.gang g).runnableLowest.filter (fun i =>
            leastOr 0 ((x.gang g).which (fun sl => sl.live && sl.sub == sub)) < i) = k :: ((x.gang g).runnableLowest.filter (fun i =>
            leastOr 0 ((x.gang g).which (fun sl => sl.live && sl.sub == sub)) < i)).tail →
          (y.gang g).cur = some ((x.gang g).slice k).sub ∧ (y.gang g).quantum = 0) ∧
    (∃ t y, exec (.compactionGatheringLimit c u) s = .next t ∧ s.onlyRegs t [] [] ∧ t.ctxOf c = some y ∧
      ∀ k ∈ x.gatherings, k.unit = u → k.since + Config.gatheringLimit ≤ s.cycle (dieOf x.core) → k ∉ y.gatherings)

namespace Sys2Proof.Claims

/-- A memory word whose checks pass: a lane is enabled, its registers are below REGS, no address is poisoned, and every
enabled lane has a target here, not at a peer; ts lists the lanes with their targets. -/
def addressed (s : State) (fs : List Field) (addrRegs : List Nat) (tgt : Nat → LaneFail ⊕ Target) (ts : List (Nat × Target)) :
    Bool :=
  s.canIssue && ts != [] && s.inRange fs && s.poisonedLanes addrRegs == [] && s.tagRoom 0 &&
  s.enabledLanes.map (fun k => (k, tgt k)) == ts.map (fun e => (e.1, .inr e.2)) && ts.all (fun e => !e.2.atPeer)

/-- No window, no package memory, no sys memory and no register changes. -/
def sameData (s t : State) : Prop :=
  t.dram = s.dram ∧ t.dramMarks = s.dramMarks ∧ t.sysMem = s.sysMem ∧ t.sysMarks = s.sysMarks ∧
  (∀ c, ((t.ctxOf c).getD {}).window = ((s.ctxOf c).getD {}).window ∧
    ((t.ctxOf c).getD {}).windowMarks = ((s.ctxOf c).getD {}).windowMarks) ∧
  ∀ c g r k, t.regAt c g r k = s.regAt c g r k

/-- The access that the word enters into its gang. -/
def entered (s t : State) (x : Access) : Prop := Tab.find s.gg.nextAccess t.gg.accesses = some x

/-- What a load leaves: an access whose results are what its lanes read, its registers pending, its completion due. -/
def loads (s : State) (i : Instr) (d n : Nat) (ts : List (Nat × Target)) : Prop :=
  ∃ t x, exec i s = .next t ∧ sameData s t ∧ entered s t x ∧ x.kind = .load ∧ x.home = true ∧ x.dest = d ∧
    x.width = (if n = 8 then 2 else 1) ∧ x.results.map (·.lane) = ts.map (·.1) ∧
    (∀ j, j < x.width → NatSet.has (d + j) t.gg.pend = true) ∧
    Instr.loadCompletion s.issue.ctx s.issue.gang s.gg.nextAccess ∈ t.agenda ∧
    (∀ r ∈ x.results, ∀ o, (r.lane, Target.window o) ∈ ts → r.value = ofLeBytes (s.cx.window.bytes o n)) ∧
    (∀ k p, ts = [(k, .mem p)] → homeOf p.loc = .package → p.loc % 32 + n ≤ 32 → s.core s.cx.core = {} →
      s.rdc (dieOf s.cx.core) = [] → x.results.map (·.value) = [ofLeBytes (s.dram.bytes p.loc n)])

/-- Two targets of n bytes do not meet. -/
def apart (n : Nat) : Target → Target → Bool
  | .window a, .window b => a + n ≤ b || b + n ≤ a
  | .mem p, .mem q => p.loc + n ≤ q.loc || q.loc + n ≤ p.loc
  | _, _ => true

/-- Every byte outside the n bytes of each target is as before: of every window, of the package's memory, of the memory
behind the ports. -/
def otherBytesKept (s t : State) (n : Nat) (ts : List Target) : Prop :=
  (∀ o, (∀ b, Target.window b ∈ ts → o < b ∨ b + n ≤ o) → t.cx.window.get o = s.cx.window.get o) ∧
  (∀ c, c ≠ s.issue.ctx → ((t.ctxOf c).getD {}).window = ((s.ctxOf c).getD {}).window) ∧
  (∀ q, (∀ p, Target.mem p ∈ ts → homeOf p.loc = .package → q < p.loc ∨ p.loc + n ≤ q) → t.dram.get q = s.dram.get q) ∧
  (∀ q, (∀ p, Target.mem p ∈ ts → homeOf p.loc = .sys → q < p.loc - sysBase ∨ p.loc - sysBase + n ≤ q) →
    t.sysMem.get q = s.sysMem.get q)

/-- The byte that a target's memory holds at an offset from it. -/
def byteAt (s : State) (j : Nat) : Target → Byte
  | .window b => s.cx.window.get (b + j)
  | .mem p => if homeOf p.loc = .sys then s.sysMem.get (p.loc - sysBase + j) else s.dram.get (p.loc + j)

/-- The target's n bytes hold byte b of the window, or of the package's memory. -/
def holdsByte (win : Bool) (n b : Nat) : Target → Bool
  | .window o => win && o ≤ b && b < o + n
  | .mem p => !win && homeOf p.loc == .package && p.loc ≤ b && b < p.loc + n

/-- The mark of a unit of u bytes after a store (R177): set where a poisoned lane writes a byte of it, clear where the
lanes write every byte of it and none is poisoned, else as before. -/
def markAfter (win : Bool) (u n k : Nat) (bad : Nat → Bool) (ts : List (Nat × Target)) (old : Bool) : Bool :=
  let bs := (List.range u).map (fun i => u * k + i)
  if ts.any (fun e => bad e.1 && bs.any (fun b => holdsByte win n b e.2)) then true
  else old && !bs.all (fun b => ts.any (fun e => holdsByte win n b e.2))

/-- Every word of the window and every sector of the package's memory has the mark that R177 gives it after a store of
n bytes by lanes of which bad tells the poisoned ones. -/
def marksAfter (s t : State) (n : Nat) (bad : Nat → Bool) (ts : List (Nat × Target)) : Prop :=
  ∀ k, NatSet.has k t.cx.windowMarks = markAfter true 4 n k bad ts (NatSet.has k s.cx.windowMarks) ∧
    NatSet.has k t.dramMarks = markAfter false 32 n k bad ts (NatSet.has k s.dramMarks)

/-- What a store leaves: its lanes' bytes at their targets, every other byte as before, the units marked as R177 says,
an access that its acknowledgement completes. -/
def stores (s : State) (i : Instr) (d : BitVec 8) (n : Nat) (ts : List (Nat × Target)) : Prop :=
  ∃ t x, exec i s = .next t ∧ (∀ c g r k, t.regAt c g r k = s.regAt c g r k) ∧ otherBytesKept s t n (ts.map (·.2)) ∧
    marksAfter s t n (s.poisonAt (n == 8) d.toNat) ts ∧ entered s t x ∧ x.kind = .store ∧ x.home = true ∧
    Instr.storeAcknowledgement s.issue.ctx s.issue.gang s.gg.nextAccess ∈ t.agenda ∧
    ∀ e ∈ ts, (∀ f ∈ ts, f = e ∨ apart n e.2 f.2 = true) →
      ∀ j, j < n → byteAt t j e.2 = nthOr 0 (leBytes n (s.bitsAt (n == 8) d.toNat e.1)) j

/-- No access of the gang is outstanding and no loss is known: what a release does not wait for. -/
def quiet (s : State) : Bool := s.gg.accesses == [] && s.gg.lost == []

/-- The mark of a target of n bytes. -/
def markedAt (s : State) (n : Nat) : Target → Bool
  | .window o => (List.range n).any (fun i => NatSet.has ((o + i) / 4) s.cx.windowMarks)
  | .mem p => s.homeMark p.loc

/-- The number that a target's n bytes hold. -/
def numberAt (s : State) (n : Nat) (t : Target) : Nat := ofLeBytes ((List.range n).map (fun j => byteAt s j t))

/-- What an atomic of one unpoisoned lane on an unmarked target leaves: its new value in memory where it writes one, every
other byte and every mark as before, and an access whose result is the old value. -/
def atomics (s : State) (i : Instr) (kind : AccKind) (n k : Nat) (tg : Target) (new : Option Nat) : Prop :=
  ∃ t x, exec i s = .next t ∧ (∀ c g r q, t.regAt c g r q = s.regAt c g r q) ∧ otherBytesKept s t n [tg] ∧
    entered s t x ∧ x.kind = kind ∧ x.home = true ∧
    x.results = (if kind = .atomic then [{ lane := k, value := numberAt s n tg, p := false }] else []) ∧
    t.dramMarks = s.dramMarks ∧ t.cx.windowMarks = s.cx.windowMarks ∧
    ∀ j, j < n → byteAt t j tg = nthOr 0 (leBytes n (new.getD (numberAt s n tg))) j

end Sys2Proof.Claims

/-- Where the checks of a load pass, no target is at a peer, and the release of an .sc load has nothing to wait for, LD, LDS
    and LDC complete: the gang has a new access
    whose results are, lane by lane, the little-endian bytes of the window, or for one lane without cached copies
    those of the package's memory; the destination registers are pending; the completion is due; and no register, no
    byte of memory and no mark changes. Choices of the model that it rests on: log entries 8, 9. (R186, R163, R178,
    R180, R185, R69, R5.) -/
def Obligations.LoadResults : Prop :=
  ∀ (s : State) (l : Bool) (d a : BitVec 8) (sem scope : BitVec 3) (size : BitVec 2) (ts : List (Nat × Target)),
    let n := 2 ^ size.toNat
    ((semReleases sem = true → Claims.quiet s = true) →
      (Claims.addressed s [dataField d n, pairField a] [a.toNat, a.toNat + 1]
          (fun k => s.vaTarget (s.bitsAt true a.toNat k) n n { r := true }) ts = true →
        Claims.loads s (.ld l d a sem scope size) d.toNat n ts) ∧
      (Claims.addressed s [dataField d n, oneField a] [a.toNat] (fun k => s.scratchTarget (s.bitsAt false a.toNat k) n) ts = true →
        Claims.loads s (.lds l d a sem size) d.toNat n ts)) ∧
    (Claims.addressed s [dataField d n, oneField a] [a.toNat]
        (fun k => s.constTarget ((s.cx.cbase + s.bitsAt false a.toNat k) % 2 ^ 64) n) ts = true →
      Claims.loads s (.ldc l d a size) d.toNat n ts)

/-- For an outstanding access of a gang without parts at peers, which no snapshot logs, the completion writes each result into the lanes of
    slices that have not exited, one register or a pair, makes the registers available, takes the access off its flag
    A and out of the gang, and changes no other register and no memory; the acknowledgement of a store does the same
    without results. Choices of the model that it rests on: log entry 9. (R67, R68, R69, R115, R186.) -/
def Obligations.CompletionsSettleAccesses : Prop :=
  ∀ (s : State) (c g k : Nat) (x : Ctx) (a : Access), s.ctxOf c = some x → g < x.gangs.length →
    Tab.find k (x.gang g).accesses = some a → a.home = true → a.remote = [] → (∀ r ∈ a.results, r.lane < 32) →
    (a.results.map (·.lane)).Nodup → (a.kind.loads = false → a.results = []) → (a.sys = true → s.domOf x.part = 0) →
    ∃ t, exec (if a.kind.loads then .loadCompletion c g k else .storeAcknowledgement c g k) s = .next t ∧
      t.dram = s.dram ∧ t.sysMem = s.sysMem ∧ (∀ e, ((t.ctxOf e).getD {}).window = ((s.ctxOf e).getD {}).window) ∧
      (∀ r ∈ a.results, ((x.gang g).slice (r.lane / 4)).live = true →
        t.regAt c g a.dest r.lane = { val := BitVec.ofNat 32 r.value, p := r.p } ∧
        (a.width = 2 → t.regAt c g (a.dest + 1) r.lane = { val := BitVec.ofNat 32 (r.value / 2 ^ 32), p := r.p })) ∧
      (∀ e h r q, q < 32 → (e, h) ≠ (c, g) ∨ (r ≠ a.dest ∧ (a.width = 2 → r ≠ a.dest + 1)) ∨ q ∉ a.results.map (·.lane) →
        t.regAt e h r q = s.regAt e h r q) ∧
      (let y := ((t.ctxOf c).getD {}).gang g
       Tab.find k y.accesses = none ∧ (∀ j, j < a.width → NatSet.has (a.dest + j) y.pend = false) ∧
       ∀ f, a.flagA = some f → a.flagB = none → f < (x.gang g).flags.length →
         (nthOr {} y.flags f).count = (nthOr {} (x.gang g).flags f).count - 1)

/-- Where the checks of a store pass, no target is at a peer or on a live barrier word, and a release finds nothing to
    wait for, ST and STS complete: every lane's bytes stand at its target, low byte first, where no other lane's meet
    them; every byte of the windows, of the package's memory and of the memory behind the ports outside the targets,
    and every register, is as before; a window word or a memory sector is marked where a poisoned lane wrote it, loses
    its mark where unpoisoned lanes wrote all of it, and else keeps it; the store waits for its acknowledgement. Choices
    of the model that it rests on: log entry 9. (R186, R163, R177, R178, R180, R185, R204, R5, R68.) -/
def Obligations.StoreResults : Prop :=
  ∀ (s : State) (l : Bool) (d a : BitVec 8) (sem scope : BitVec 3) (size : BitVec 2) (ts : List (Nat × Target)),
    let n := 2 ^ size.toNat
    (semReleases sem = true → Claims.quiet s = true) → ts.all (fun e => !s.onBarrier n e.2) = true →
    (Claims.addressed s [dataField d n, pairField a] [a.toNat, a.toNat + 1]
        (fun k => s.vaTarget (s.bitsAt true a.toNat k) n n { w := true }) ts = true →
      Claims.stores s (.st l d a sem scope size) d n ts) ∧
    (Claims.addressed s [dataField d n, oneField a] [a.toNat] (fun k => s.scratchTarget (s.bitsAt false a.toNat k) n) ts = true →
      Claims.stores s (.sts l d a sem size) d n ts)

/-- For one enabled lane whose target is here, unmarked and on no live barrier word, with unpoisoned operands and a
    valid op word, ATOM and ATOMNR write the new value that the op word gives for the old value and the operand, CAS
    writes the new value exactly where the old one equals the compare value; ATOM and CAS have the old value as
    result, ATOMNR has none; every other byte, every mark and every register is as before. Where the operand is poisoned
    or, but for an exchange, the target is marked, ATOM marks the target's units and no other. Choices of the model that
    it rests on: log entry 9. (R177, R187, R188, R189, R190, R185, R204.) -/
def Obligations.AtomicResults : Prop :=
  ∀ (s : State) (l : Bool) (d a : BitVec 8) (sem scope : BitVec 3) (z : BitVec 1) (k : Nat) (tg : Target),
    let n := if z = 1 then 8 else 4
    let w := n == 8
    let w1 := if n = 8 then 2 else 1
    let tgt := fun (e : Nat) => s.vaTarget (s.bitsAt true a.toNat e) n n { r := true, w := true, noSys := true }
    let old := Claims.numberAt s n tg
    (semReleases sem = true → Claims.quiet s = true) → s.onBarrier n tg = false →
    (Claims.addressed s [dataField d n, pairField a, { code := 3, reg := d.toNat + 2, isElem := false }]
        [a.toNat, a.toNat + 1] tgt [(k, tg)] = true → s.opWordFault (d.toNat + 2) n = none →
      s.poisonAt w d.toNat k || (opCode (s.lead (d.toNat + 2)).val.toNat != 6 && Claims.markedAt s n tg) = true →
      ∃ t, exec (.atom l d a sem scope z) s = .next t ∧ Claims.otherBytesKept s t n [tg] ∧
        Claims.marksAfter s t n (fun _ => true) [(k, tg)]) ∧
    (Claims.markedAt s n tg = false → s.poisonAt w d.toNat k = false →
    (Claims.addressed s [dataField d n, pairField a, { code := 3, reg := d.toNat + 2, isElem := false }]
        [a.toNat, a.toNat + 1] tgt [(k, tg)] = true → s.opWordFault (d.toNat + 2) n = none →
      let opw := (s.lead (d.toNat + 2)).val.toNat
      let new := some (atomNew opw n old (s.bitsAt w d.toNat k))
      Claims.atomics s (.atom l d a sem scope z) .atomic n k tg new ∧
      Claims.atomics s (.atomnr l d a sem scope z) .atomicNoResult n k tg new) ∧
    (Claims.addressed s [dataField d n, pairField a, { code := 3, reg := d.toNat + w1, isElem := false, count := w1 }]
        [a.toNat, a.toNat + 1] tgt [(k, tg)] = true → s.poisonAt w (d.toNat + w1) k = false →
      Claims.atomics s (.cas l d a sem scope z) .atomic n k tg
        (if old = s.bitsAt w d.toNat k then some (s.bitsAt w (d.toNat + w1) k) else none)))

/-- Where nothing is outstanding, FENCE completes, and with an acquire above core scope empties the issuing core's L1;
    PFENCE empties the L1 for the LS or ROW path and the constant cache for CONST; CCTL invl1 empties the L1, CCTL inv
    takes every enabled lane's line out of it; PREF and CCTL of a line enter an access that completes later. None of
    them changes a register, a byte of memory or a mark. Choices of the model that it rests on: log entry 8. (R50,
    R51, R191, R192, R195, R196, R103.) -/
def Obligations.FenceAndCacheResults : Prop :=
  ∀ (s : State) (l : Bool) (a : BitVec 8) (sem scope : BitVec 3) (paths : BitVec 4) (lev : BitVec 1), s.canIssue = true →
    (Claims.quiet s = true →
      (∃ t, exec (.fence sem scope) s = .next t ∧ Claims.sameData s t ∧
        (semAcquires sem = true → scope ≠ 0 → (t.core s.cx.core).l1 = [])) ∧
      (∃ t, exec (.pfence paths scope) s = .next t ∧ Claims.sameData s t ∧
        (paths.getLsbD 0 = true ∨ paths.getLsbD 3 = true → (t.core s.cx.core).l1 = []) ∧
        (paths.getLsbD 1 = true → (t.core s.cx.core).consts = []))) ∧
    (s.enabledLanes ≠ [] →
      (∃ t, exec .cctlInvl1 s = .next t ∧ Claims.sameData s t ∧ (t.core s.cx.core).l1 = []) ∧
      (a.toNat + 2 ≤ s.cx.regsN → s.tagRoom 0 = true →
        (∃ t x, exec (.cctlInv l a) s = .next t ∧ Claims.sameData s t ∧ Claims.entered s t x ∧ x.kind = .cctl ∧
          ∀ e ∈ s.lineLanes a, ∀ q ∈ (t.core s.cx.core).l1, q.1 / 4 ≠ e.2.loc / 128) ∧
        (∃ t x, exec (.cctlWb l a) s = .next t ∧ Claims.sameData s t ∧ Claims.entered s t x ∧ x.kind = .cctl) ∧
        ((s.lineLanes a).all (fun e => homeOf e.2.loc != .fabric) = true →
          ∃ t x, exec (.pref l lev a) s = .next t ∧ Claims.sameData s t ∧ Claims.entered s t x ∧ x.kind = .prefetch ∧
            Instr.loadCompletion s.issue.ctx s.issue.gang s.gg.nextAccess ∈ t.agenda)))

/-- MONITOR completes wherever its pair is below REGS and unpoisoned, every enabled lane's address translates with PR, and
    the lowest enabled lane's target is in the package (the conditions of R193): the issuing slices have a watch, not yet
    fired, on the 128-byte line of that target; the other lanes' targets may be anywhere, which is the model's reading
    (log entry 53). MWAIT completes in every state
    that can issue: without a watch it goes on, with a fired watch it disarms it and goes on, and with a watch that has
    not fired its slices wait, and the slices that go on stand at the next word (R194). MWAIT_WAKE completes where the
    watch of waiting slices of a running context has fired: it disarms it and their wait is over. No register and no
    memory changes. (R193, R194, R56.) -/
def Obligations.WatchResults : Prop :=
  (∀ (s : State) (l : Bool) (a : BitVec 8) (k : Nat) (tg : Target) (ts : List (Nat × Target)), s.canIssue = true →
    s.inRange [pairField a] = true → s.poisonedLanes [a.toNat, a.toNat + 1] = [] →
    s.enabledLanes.map (fun e => (e, s.vaTarget (s.bitsAt true a.toNat e) 1 1 { r := true })) =
      ((k, tg) :: ts).map (fun e => (e.1, .inr e.2)) → tg.countsB = false →
      let watched := Claims.updated s (fun _ sl => { sl with watch := some (match tg with
        | .window o => { window := true, line := o / 128 } | .mem p => { window := false, line := p.loc / 128 }) })
      ∃ t, exec (.monitor l a) s = .next t ∧ watched.onlyRegs t [] []) ∧
  (∀ s : State, s.canIssue = true → s.issuing.all (fun k => k < s.gg.slices.length) = true →
    let watch := fun (test : Watch → Bool) => s.issuing.any (fun k => ((s.gg.slice k).watch.map test).getD false)
    let onward := fun (t : State) => s.midClause = true → ∀ k ∈ s.issuing,
      (t.gg.slice k).pc = s.issue.pc + 4 ∧ (t.gg.slice k).widx = s.issue.widx + 1 ∧ (t.gg.slice k).st = (s.gg.slice k).st
    (watch (fun _ => true) = false → ∃ t, exec .mwait s = .next t ∧ s.onlyRegs t [] [] ∧ onward t) ∧
    (watch (·.fired) = true → ∃ t, exec .mwait s = .next t ∧
      (Claims.updated s (fun _ sl => { sl with watch := none })).onlyRegs t [] [] ∧ onward t) ∧
    (watch (fun _ => true) = true → watch (·.fired) = false →
      ∃ t, exec .mwait s = .next t ∧ s.onlyRegs t [] [] ∧ ∀ k ∈ s.issuing, (t.gg.slice k).st = .waiting .mwait)) ∧
  (∀ (s : State) (c g sub : Nat) (x : Ctx), s.ctxOf c = some x → g < x.gangs.length → x.run = .running →
    let is := (x.gang g).which (fun sl => sl.st == .waiting .mwait && sl.sub == sub)
    is.any (fun k => (((x.gang g).slice k).watch.map (·.fired)).getD false) = true → is.all (fun k => k < 8) = true →
    ∃ t y, exec (.mwaitWake c g sub) s = .next t ∧ t.dram = s.dram ∧ t.sysMem = s.sysMem ∧ t.ctxOf c = some y ∧
      (∀ e h r q, t.regAt e h r q = s.regAt e h r q) ∧
      ∀ k ∈ is, ((y.gang g).slice k).watch = none ∧ ((y.gang g).slice k).st ≠ .waiting .mwait)

namespace Sys2Proof.Claims

/-- The word writes one value with P clear into every lane of the issuing slices of d, and no other register. -/
def scalar (s t : State) (d : Nat) (v : Nat) : Prop :=
  s.regsKept t [d] (lanesOf s.issue.slices) ∧
  ∀ k ∈ lanesOf s.issue.slices, t.regAt s.issue.ctx s.issue.gang d k = { val := BitVec.ofNat 32 v, p := false }

/-- The package's memory outside 8 bytes, the memory behind the ports and every window are as before. -/
def onlyWord (s t : State) (loc : Nat) : Prop :=
  (∀ q, q < loc ∨ loc + 8 ≤ q → t.dram.get q = s.dram.get q) ∧ t.sysMem = s.sysMem ∧
  ∀ c, ((t.ctxOf c).getD {}).window = ((s.ctxOf c).getD {}).window

/-- The issuing slices arrive at a barrier for the first time in the phase, and nothing holds the arrival up. -/
def mayArrive (s : State) (bar : BarName) : Bool :=
  running s && quiet s && s.issue.slices < 256 && (s.gg.marksOf bar &&& s.issue.slices) == 0 && !bit (s.gg.marksOf bar) 8

/-- The context has stopped for a fault with a record; no register and no memory has changed. -/
def stopped (s t : State) (c : Nat) (ok : FaultRec → Prop) : Prop :=
  t.dram = s.dram ∧ t.sysMem = s.sysMem ∧ (∀ e g q k, t.regAt e g q k = s.regAt e g q k) ∧
  ∃ r y, t.ctxOf c = some y ∧ y.run = .stopping ∧ y.cause = .fault ∧ y.fault = some r ∧ ok r

end Sys2Proof.Claims

/-- BARINIT, where its checks pass, sets EXPECT to the leader's count and binds or unbinds the barrier's word, keeping
    ARRIVED. BARARR marks the issuing slices; where every live slice of the gang is then marked, the gang's arrival is
    counted, and where that is the last one that the phase expects, the phase number rises by one modulo 2^24, ARRIVED
    is 0 and the barrier's ERR is what engine arrivals gathered. No register and no memory of the package changes.
    Choices of the model that it rests on: log entry 53. (R199, R200, R201, R207.) -/
def Obligations.NamedBarrierResults : Prop :=
  ∀ (s : State) (l : Bool) (x y : BitVec 8) (b : BitVec 5), b.toNat < s.cx.bars.length →
    let c := s.issue.ctx
    let old := s.namedBar c b.toNat
    let same := fun (t : State) => (∀ e g q k, t.regAt e g q k = s.regAt e g q k) ∧ t.dram = s.dram ∧ t.sysMem = s.sysMem
    (s.canIssue = true → s.barinitFault x y b.toNat = none →
      let n := (s.lead y.toNat).val.toNat
      let o := (s.lead x.toNat).val.toNat
      ∃ t, exec (.barinit l x y b) s = .next t ∧ same t ∧
        t.namedBar c b.toNat = { old with expect := n, bound := if o = 0xFFFFFFFF then none else some o } ∧
        (o ≠ 0xFFFFFFFF → t.cx.window.bytes o 8 = leBytes 8 (old.phase % 2 ^ 24 + 2 ^ 30 + 2 ^ 31 * ofBool old.err + 2 ^ 48 * (n % 2 ^ 16)))) ∧
    (b.toNat < s.cx.nbar → Claims.mayArrive s (.named b.toNat) = true →
      let m := s.gg.marksOf (.named b.toNat) ||| s.issue.slices
      ((s.gg.liveMask &&& m) ≠ s.gg.liveMask →
        ∃ t, exec (.bararr b) s = .next t ∧ same t ∧ t.gg.marksOf (.named b.toNat) = m ∧ t.namedBar c b.toNat = old) ∧
      ((s.gg.liveMask &&& m) = s.gg.liveMask → old.arrived + 1 < old.expect →
        ∃ t, exec (.bararr b) s = .next t ∧ same t ∧
          t.namedBar c b.toNat = { old with arrived := old.arrived + 1, amask := old.amask ||| 2 ^ s.issue.gang }) ∧
      ((s.gg.liveMask &&& m) = s.gg.liveMask → old.expect ≤ old.arrived + 1 →
        ∃ t, exec (.bararr b) s = .next t ∧ same t ∧ t.gg.marksOf (.named b.toNat) = 0 ∧
          t.namedBar c b.toNat =
            { old with phase := (old.phase + 1) % 2 ^ 24, arrived := 0, err := old.errNow, errNow := false, amask := 0, earr := 0 }))

/-- Where the phase that the wait names has completed, BARWAIT writes the result word (phase, DONE, ERR) as a scalar
    and goes on; else the issuing slices wait and a watchdog count runs. BARTEST writes the result word with DONE
    telling which. BARRIER_WAIT_RETURN, in every state for waiting slices of a running context whose phase has completed,
    writes the result word and makes them leave the wait. No memory changes. Choices of the model that it rests on: log
    entry 53.
    (R202, R207, R209.) -/
def Obligations.NamedBarrierWaits : Prop :=
  (∀ (s : State) (x : BitVec 8) (b : BitVec 5), Claims.running s = true → x.toNat < s.cx.regsN → b.toNat < s.cx.nbar →
    let c := s.issue.ctx
    let bar := s.namedBar c b.toNat
    let p := s.gg.waitPhase (.named b.toNat) bar.phase
    let same := fun (t : State) => t.dram = s.dram ∧ t.sysMem = s.sysMem ∧ t.cx.window = s.cx.window ∧ t.cx.bars = s.cx.bars
    let word := fun (done : Bool) => (bar.phase + 2 ^ 24 - 1) % 2 ^ 24 + 2 ^ 30 * ofBool done + 2 ^ 31 * ofBool bar.err
    (p ≠ bar.phase → ∃ t, exec (.barwait x b) s = .next t ∧ same t ∧ Claims.scalar s t x.toNat (word true)) ∧
    (p = bar.phase → ∃ t, exec (.barwait x b) s = .next t ∧ same t ∧ (∀ e g q k, t.regAt e g q k = s.regAt e g q k) ∧
      (∀ k ∈ s.issuing, (t.gg.slice k).st = .waiting (.barrier (.named b.toNat) p x.toNat 0)) ∧
      t.cx.watches.any (fun w => w.kind == .named b.toNat) = true) ∧
    (∃ t, exec (.bartest x b) s = .next t ∧ same t ∧ Claims.scalar s t x.toNat (word (p != bar.phase)))) ∧
  ∀ (s : State) (c g sub k b q d scope : Nat) (y : Ctx), s.ctxOf c = some y → y.run = .running → g < y.gangs.length →
    b < y.nbar → d < y.regsN →
    let is := (y.gang g).which (fun sl => (match sl.st with | .waiting (.barrier _ _ _ _) => true | _ => false) && sl.sub == sub)
    let bar := s.namedBar c b
    is.head? = some k → is.all (fun j => j < 8) = true → ((y.gang g).slice k).st = .waiting (.barrier (.named b) q d scope) →
      q ≠ bar.phase →
      ∃ t, exec (.barrierWaitReturn c g sub) s = .next t ∧ t.dram = s.dram ∧ t.sysMem = s.sysMem ∧
        (∀ j ∈ is, ((((t.ctxOf c).getD {}).gang g).slice j).st ≠ ((y.gang g).slice j).st) ∧
        ∀ j ∈ lanesOf (maskOf is), t.regAt c g d j =
          { val := BitVec.ofNat 32 ((bar.phase + 2 ^ 24 - 1) % 2 ^ 24 + 2 ^ 30 + 2 ^ 31 * ofBool bar.err), p := false }

/-- Where the checks of SBAR pass for a location, init writes EXPECT, phase 0 and the scope there and lists the
    barrier; arr counts the gang's arrival or completes the phase; wait returns the result word or waits, test writes
    the result word; fin clears the word's live bit and takes the barrier off the list. No byte of memory outside the
    word's eight changes, and no register but the result of wait and test. Choices of the model that it rests on: log
    entries 9, 53. (R203, R208, R200, R202.) -/
def Obligations.ScopeBarrierResults : Prop :=
  ∀ (s : State) (l : Bool) (x y : BitVec 8) (scope : BitVec 3) (loc : Nat), Claims.running s = true → Claims.quiet s = true →
    sbarScope scope = true →
    let c := s.issue.ctx
    let w := s.scopeWord loc
    let regs := fun (t : State) => ∀ e g q k, t.regAt e g q k = s.regAt e g q k
    (s.sbarFault x y true true false scope.toNat = .inr loc →
      ∃ t, exec (.sbarInit l x y scope) s = .next t ∧ regs t ∧ Claims.onlyWord s t loc ∧
        t.scopeWord loc = { expect := (s.lead y.toNat).val.toNat, arrived := 0, err := false, live := true, scope := scope.toNat, phase := 0 } ∧
        t.scopeBars = s.scopeBars ++ [{ loc := loc, ctx := c, core := s.cx.core }]) ∧
    (s.sbarFault x 0 false false false scope.toNat = .inr loc → Claims.mayArrive s (.scope loc) = true →
      (s.gg.liveMask &&& (s.gg.marksOf (.scope loc) ||| s.issue.slices)) = s.gg.liveMask →
      ∃ t, exec (.sbarArr l x scope) s = .next t ∧ regs t ∧ Claims.onlyWord s t loc ∧
        t.scopeWord loc = (if w.arrived + 1 < w.expect then { w with arrived := w.arrived + 1 }
          else { w with phase := (w.phase + 1) % 2 ^ 24, arrived := 0, err := false })) ∧
    (s.sbarFault x y true false false scope.toNat = .inr loc →
      let done := s.gg.waitPhase (.scope loc) w.phase != w.phase
      let word := fun (d : Bool) => (w.phase + 2 ^ 24 - 1) % 2 ^ 24 + 2 ^ 30 * ofBool d + 2 ^ 31 * ofBool w.err
      (∃ t, exec (.sbarTest l x y scope) s = .next t ∧ t.dram = s.dram ∧ t.sysMem = s.sysMem ∧ Claims.scalar s t y.toNat (word done)) ∧
      (∃ t, exec (.sbarWait l x y scope) s = .next t ∧ t.dram = s.dram ∧ t.sysMem = s.sysMem ∧
        (done = true → Claims.scalar s t y.toNat (word true)) ∧
        (done = false → regs t ∧ ∀ k ∈ s.issuing,
          (t.gg.slice k).st = .waiting (.barrier (.scope loc) (s.gg.waitPhase (.scope loc) w.phase) y.toNat scope.toNat)))) ∧
    (s.sbarFault x 0 false false true scope.toNat = .inr loc →
      ∃ t, exec (.sbarFin l x scope) s = .next t ∧ regs t ∧ Claims.onlyWord s t loc ∧ t.scopeWord loc = { w with live := false } ∧
        ∀ k ∈ t.scopeBars, k.loc ≠ loc)

/-- TRAP completes in every running context that can issue: the context stops (R215, R216) with a precise and resumable
    record of code 0x0030 that holds the word's addresses and its immediate; within a clause the issuing slices stand
    after the word.
    BARRIER_TIMEOUT completes for every watchdog count of a running context: at its limit the context stops with a
    record of code 0x002C that is neither precise nor resumable, names what was waited for, and carries the diagnostic;
    before the limit nothing changes (R209, R210). Choices of the model that it rests on: log entries 22, 53. (R67, R209,
    R210, R215, R216, R420.) -/
def Obligations.TrapAndTimeoutStop : Prop :=
  (∀ (s : State) (code : BitVec 8), s.canIssue = true → s.cx.run = .running →
    ∃ t, exec (.trap code) s = .next t ∧
      Claims.stopped s t s.issue.ctx (fun r =>
        r.code = 0x0030 ∧ r.flags = 3 ∧ r.detail0 = code.toNat ∧ r.ctx = s.issue.ctx ∧ r.part = s.cx.part ∧
        r.pc = s.issue.pc ∧ r.hdr = s.issue.hdr ∧ r.widx = s.issue.widx ∧ r.gang = s.issue.gang ∧ r.slices = s.issue.slices) ∧
      (s.midClause = true → ∀ k ∈ s.issuing, k < s.gg.slices.length →
        (t.gg.slice k).pc = s.issue.pc + 4 ∧ (t.gg.slice k).widx = s.issue.widx + 1)) ∧
  (∀ (s : State) (c k : Nat) (x : Ctx) (w : WatchCount), s.ctxOf c = some x → x.run = .running → x.watches[k]? = some w →
    (s.cycle (dieOf x.core) < w.since + 1024 * x.wdog → exec (.barrierTimeout c k) s = .next s) ∧
    (w.since + 1024 * x.wdog ≤ s.cycle (dieOf x.core) →
      ∃ t, exec (.barrierTimeout c k) s = .next t ∧
        Claims.stopped s t c (fun r => r.code = 0x002C ∧ r.flags = 8 ∧ r.ctx = c ∧ r.part = x.part ∧
          r.cycle = s.cycle (dieOf x.core) ∧ r.diag ≠ [] ∧
          r.detail0 = match w.kind with | .named n => n | .scope _ => 0xFF | .ring n => n)))

/-- SYSR writes the special register that it names into every lane of the issuing slices with P clear: the low cycle
    count, which also latches the high half, each slice's latch, the physical position, partition, context, scratch
    size, sequence, both halves of the constant base and of the kernel argument, wdog, the flags, and the number of
    pre-emptions. SYSW, where the leader's operand is unpoisoned, sets wdog to it, or to the cap that the
    partition had when the context's launch was dispatched where it is 0 or above that cap. Nothing else changes. (R213, R214, R99.) -/
def Obligations.SpecialRegisterResults : Prop :=
  ∀ (s : State) (l : Bool) (x r : BitVec 8), s.canIssue = true → x.toNat < s.cx.regsN →
    let cyc := s.cycle (dieOf s.cx.core)
    let same := fun (t : State) => t.dram = s.dram ∧ t.sysMem = s.sysMem ∧ t.cx.window = s.cx.window
    (r.toNat ≤ 13 → r ≠ 1 →
      ∃ t, exec (.sysr x r) s = .next t ∧ same t ∧ t.cx.wdog = s.cx.wdog ∧
        Claims.scalar s t x.toNat (nthOr 0 [cyc % 2 ^ 32, 0,
          2 ^ 24 * dieOf s.cx.core + 2 ^ 16 * (s.cx.core % Config.coresPerDie) + 2 ^ 14 * s.gg.unit, s.cx.part, s.issue.ctx,
          s.cx.scratch, s.cx.seq % 2 ^ 32, s.cx.cbase % 2 ^ 32, s.cx.cbase / 2 ^ 32, s.cx.karg % 2 ^ 32, s.cx.karg / 2 ^ 32,
          s.cx.wdog, maskOf ((List.range 12).filter s.gg.flagSet), s.cx.npre % 2 ^ 32] r.toNat) ∧
        (r = 0 → ∀ k ∈ s.issuing, k < s.gg.slices.length → (t.gg.slice k).latch = BitVec.ofNat 32 (cyc / 2 ^ 32))) ∧
    (∃ t, exec (.sysr x 1) s = .next t ∧ same t ∧ s.regsKept t [x.toNat] (lanesOf s.issue.slices) ∧
      ∀ k ∈ lanesOf s.issue.slices, t.regAt s.issue.ctx s.issue.gang x.toNat k = { val := (s.gg.slice (k / 4)).latch, p := false }) ∧
    ((s.lead x.toNat).p = false →
      let v := (s.lead x.toNat).val.toNat
      let cap := s.cx.wdcap
      ∃ t, exec (.sysw l x 0x0B) s = .next t ∧ same t ∧ (∀ e g q k, t.regAt e g q k = s.regAt e g q k) ∧
        t.cx.wdog = if v = 0 ∨ cap < v then cap else v)

namespace Sys2Proof.Claims

/-- The engine words with what each fixes: engine, operation, completion kind and its table (Tables 1-3, 1-6, 3-10). -/
def engineWords (l : Bool) (d a : BitVec 8) (b : BitVec 5) : List (Instr × EngSpec) :=
  [(.mma l d a b, matrixSpec 0 mmaBad), (.mmag l d a b, matrixSpec 1 mmagBad), (.maccFill l d a b, matrixSpec 2 maccBad),
   (.maccLoad l d a b, matrixSpec 2 maccBad), (.maccCopy l d a b, matrixSpec 2 maccBad), (.mst l d a b, matrixSpec 3 mstBad),
   (.mpair l d a b, matrixSpec 4 mpairBad), (.mrel l d a b, matrixSpec 5 mrelBad), (.rfwd l d a b, rnsSpec 0 rfwdBad),
   (.rmma l d a b, rnsSpec 1 rmmaBad), (.rrev l d a b, rnsSpec 2 rrevBad), (.rchk l d a b, rnsSpec 3 rchkBad),
   (.rscl l d a b, rnsSpec 4 rsclBad), (.xcp l d a b, xcpSpec), (.xcpr l d a b, xcprSpec), (.xexp l d a b, xexpSpec),
   (.xpack l d a b, xpackSpec), (.xcan l d a b, xcanSpec), (.rowcpy l d a b, rowSpec 0), (.rowfill l d a b, rowSpec 1),
   (.rowand l d a b, rowSpec 2), (.rowor l d a b, rowSpec 3), (.rowxor l d a b, rowSpec 4), (.rownot l d a b, rowSpec 5),
   (.rowq l d a b, rowqSpec), (.snap l d a b, snapSpec 0 snapBad), (.snapq l d a b, snapSpec 1 snapqBad),
   (.snaprel l d a b, snapSpec 2 snaprelBad), (.cgrun l d a b, runSpec 0), (.grun l d a b, runSpec 1), (.erd l d a b, erdSpec)]

/-- An engine word passes its checks, finds its slot free, and no store of its slices waits at core scope. -/
def mayPublish (s : State) (e : EngSpec) (d a : BitVec 8) (b : BitVec 5) : Bool :=
  s.canIssue && s.engineFault e d.toNat a.toNat b.toNat == none && !s.cx.slotBusy (s.cx.seq % 64) &&
  !s.gg.unacked s.issue.slices 0

/-- The command of the leader's eight words is published: the core's own copy, the ring entry, the cleared status word,
the sequence number, the start that is due, and vd, which holds the issue word or is pending. Nothing else is written. -/
def published (s t : State) (e : EngSpec) (d a : BitVec 8) (b : BitVec 5) : Prop :=
  let slot := s.cx.seq % 64
  let entry := s.cx.scratch + 32 * slot
  let status := s.cx.scratch + 2048 + 4 * slot
  let ws := s.cmdWords a.toNat
  let words := (controlWord e b.toNat (nthOr 0 ws 0) :: ws.tail).map (BitVec.ofNat 32)
  (∃ c, t.cmd s.nextCmd = some c ∧ c.words = words ∧ c.ctx = s.issue.ctx ∧ c.eng = e.eng ∧ c.op = e.op ∧ c.state = .published) ∧
  Instr.engineCommandStart s.nextCmd ∈ t.agenda ∧ t.nextCmd = s.nextCmd + 1 ∧ t.cx.seq = (s.cx.seq + 1) % 2 ^ 32 ∧
  Tab.find slot t.cx.slots = some { seq := s.cx.seq, cmd := s.nextCmd } ∧
  t.cx.window.bytes entry 32 = words.flatMap (fun w => leBytes 4 w.toNat) ∧ t.cx.window.bytes status 4 = leBytes 4 0 ∧
  (∀ o, (o < entry ∨ entry + 32 ≤ o) → (o < status ∨ status + 4 ≤ o) → t.cx.window.get o = s.cx.window.get o) ∧
  t.dram = s.dram ∧ t.sysMem = s.sysMem ∧
  (e.flagKind = true → (∀ c g r k, t.regAt c g r k = s.regAt c g r k) ∧ NatSet.has d.toNat t.gg.pend = true) ∧
  (e.flagKind = false → scalar s t d.toNat (2 ^ 16 * (s.cx.seq % 2 ^ 16) + 2 ^ 8 * slot))

/-- What the completion of a ring command leaves in its core: the command is completed and its status word stands in the
window; of package and sys memory nothing changes. -/
def statusWritten (t : State) (k : Nat) (c : Cmd) (r : RingRef) (x : Ctx) : Prop :=
  (t.cmd k).map (·.state) = some .completed ∧
  ((t.ctxOf r.ctx).getD {}).window.bytes (x.scratch + 2048 + 4 * r.slot) 4 =
    leBytes 4 (2 ^ 31 + 2 ^ 30 * ofBool c.err + c.code % 2 ^ 16)

end Sys2Proof.Claims

namespace Sys2Proof.Claims

/-- The mark of a 32-byte sector of package memory after an engine wrote the ranges l: set where a byte written in it is
poisoned, clear where every byte of it is written and none is poisoned, else as before (R177). -/
def sectorMark (l : List Range) (q : Nat) (old : Bool) : Bool :=
  let at_ := fun (e : Range) (test : Nat → Bool) => match e.1 with | .loc p => test p | _ => false
  if l.any (fun e => at_ e (fun p => (List.range e.2.length).any (fun i => (nthOr (0, false) e.2 i).2 && (p + i) / 32 == q))) then true
  else old && !(List.range 32).all (fun i => l.any (fun e => at_ e (fun p => p ≤ 32 * q + i && 32 * q + i < p + e.2.length)))

/-- What a matrix command that ended in error or lost a write becomes at its completion (R197, R242); any other command
is what it was. -/
def ends (c : Cmd) : Cmd :=
  if c.eng = 0 ∧ c.op = 3 ∧ (c.err || c.lostAny) = true then c.failedWrite (if c.err then c.code else 0x0020) else c

/-- A started copy of a ring command of a running context that has yet to write, has nothing out, and is not sent on. -/
def copies (s : State) (k : Nat) (c : Cmd) (r : RingRef) (x : Ctx) : Bool :=
  s.cmd k == some c && c.ring == some r && s.ctxOf r.ctx == some x && c.ctx == r.ctx && x.run == .running && c.eng == 2 &&
  c.pos == 0 && c.state == .started && !c.err && !c.cancelled && c.toRead == [] && c.toWrite == [] && c.remote == [] &&
  !c.dwg && x.bars.all (·.bound.isNone)

/-- A published command of a ring, of one engine and operation and without ACQ, that may start. -/
def mayBegin (s : State) (k : Nat) (c : Cmd) (r : RingRef) (x : Ctx) (eng op : Nat) : Bool :=
  s.cmd k == some c && c.ring == some r && s.ctxOf r.ctx == some x && c.ctx == r.ctx && c.eng == eng && c.op == op &&
  !c.acq && s.mayStart k c && (s.array x.array).slots.length == 4 && (s.array x.array).pairs.length == 2

/-- The command as it starts on the core of its context. -/
def begins (c : Cmd) (x : Ctx) : Cmd := { c with state := .started, core := x.core }

/-- A slot as a command that claims its array finds it (R226). -/
def slotBefore (s : State) (a u : Nat) : AccSlot := if (s.array a).claim = none then {} else s.slot a u

/-- The command changes slots f to f + n - 1 of array a and no other slot of any array. -/
def onlySlots (s t : State) (a f n : Nat) : Prop :=
  (∀ b u, b ≠ a → t.slot b u = s.slot b u) ∧ ∀ u, u < 4 → u < f ∨ f + n ≤ u → t.slot a u = slotBefore s a u

/-- R232 and R234 of one slot: each element is the chain of fused multiply-adds in ascending k from the old element, or
from +0 under ZERO; the flag is set where a poisoned element was read, and kept unless ZERO. -/
def accumulated (old new : AccSlot) (zero : Bool) (rows depth : Nat) (a b : Nat → Nat → Elem) : Prop :=
  (∀ i j, i < rows → j < 64 → new.cell i j =
    ((List.range depth).foldl (fun z k => fp32.fma {} (a i k).val (b k j).val z) (if zero then 0 else old.cell i j)) % 2 ^ 32) ∧
  (new.poisoned = true ↔ (zero = false ∧ old.poisoned = true) ∨
    ∃ k, k < depth ∧ ((∃ i, i < rows ∧ (a i k).p = true) ∨ ∃ j, j < 64 ∧ (b k j).p = true))

end Sys2Proof.Claims

/-- Where the checks of an engine instruction pass, its ring slot is free and no store of its slices waits, it
    completes: the command whose words are the leader lane's eight words with the control word of Table 1-3 is in the
    core's own copy and in the ring entry, its status word is 0, the sequence number has risen by one, its start is
    due, and vd holds the issue word as a scalar (barrier kind) or is pending (flag kind); no other register and no
    other byte of memory changes. (R12, R13, R14, R16, R18, R20, R21, R81.) -/
def Obligations.EngineWordsPublish : Prop :=
  ∀ (s : State) (l : Bool) (d a : BitVec 8) (b : BitVec 5), ∀ ie ∈ Claims.engineWords l d a b,
    Claims.mayPublish s ie.2 d a b = true → ∃ t, exec ie.1 s = .next t ∧ Claims.published s t ie.2 d a b

/-- A published row command that may start, without ACQ, is started with the code that its acceptance or ROWQ gives,
    and its completion is due; no memory changes. The completion of a row command of one frame that meets no live
    barrier word and no upset writes the frame's bytes at their places and no other byte of the package's memory, and
    marks the sectors as R177 says. The completion of a command of the matrix (but for MMAG), RNS, snapshot, collective
    and energy engines and of XCAN, where nothing of it is out, writes its status word; a flag-kind command's result
    stands in its register, which is no longer pending, and a barrier-kind command's arrival is counted at its barrier.
    A copy whose ranges lie in windows and in the package's memory, on no live barrier word, writes its bytes there and
    no other byte of any memory but its status word; one from window to window moves each row's bytes. A copy that has
    written ends with its status word and either its arrival or the wait for its destination. Choices of the model that
    it rests on: log entries 7, 50, 53. (R17, R18, R19, R20, R21, R22, R23, R177, R286, R291, R313, R314.) -/
def Obligations.EngineStartAndCompletion : Prop :=
  (∀ (s : State) (k : Nat) (c : Cmd) (r : RingRef), s.cmd k = some c → c.ring = some r → c.eng = 3 → c.acq = false →
    s.mayStart k c = true →
      let (code, res) := if c.op = 6 then s.rowqWord c else (s.rowCode c, 0)
      ∃ t y, exec (.engineCommandStart k) s = .next t ∧ t.cmd k = some y ∧ y.state = .started ∧ y.words = c.words ∧
        y.err = (code != 0) ∧ y.code = code ∧ y.result = res ∧ Instr.commandCompletion k ∈ t.agenda ∧ t.dram = s.dram ∧
        t.sysMem = s.sysMem ∧ t.ctxs = s.ctxs) ∧
  (∀ (s : State) (k : Nat) (c : Cmd) (l : List Range), s.cmd k = some c → c.eng = 3 → c.op ≤ 5 → c.frames = 1 →
    c.state = .started → c.settled = true → c.err = false → c.cancelled = false → c.data = [] →
    s.clearRanges (s.frameRanges c 0) = (l, none) → l.all (fun e => match e.1 with | .loc _ => true | _ => false) = true →
      ∃ t, exec (.commandCompletion k) s = .next t ∧
        (∀ q, NatSet.has q t.dramMarks = Claims.sectorMark l q (NatSet.has q s.dramMarks)) ∧
        (∀ q, (∀ p bs, (Spot.loc p, bs) ∈ l → q < p ∨ p + bs.length ≤ q) → t.dram.get q = s.dram.get q) ∧
        (l.Pairwise (fun e f => ∀ p q, e.1 = .loc p → f.1 = .loc q → p + e.2.length ≤ q ∨ q + f.2.length ≤ p) →
          ∀ p bs, (Spot.loc p, bs) ∈ l → t.dram.bytes p bs.length = bs.map (·.1))) ∧
  (∀ (s : State) (k : Nat) (c : Cmd) (r : RingRef) (x : Ctx), s.cmd k = some c → c.ring = some r → s.ctxOf r.ctx = some x →
    r.gang < x.gangs.length → x.takesCompletions = true → c.cancelled = false → c.state = .started → s.stillOut k c = false →
    (c.eng = 0 ∧ (c.op = 1 → c.err = true)) ∨ c.eng = 1 ∨ (c.eng = 2 ∧ c.op = 4) ∨ c.eng = 4 ∨ (c.eng = 5 ∧ c.op ≠ 2) ∨ c.eng = 6 →
      (c.flagKind = true → ∃ t, exec (.commandCompletion k) s = .next t ∧ Claims.statusWritten t k (Claims.ends c) r x ∧
        (∀ o, (o < x.scratch + 2048 + 4 * r.slot ∨ x.scratch + 2052 + 4 * r.slot ≤ o) →
          ((t.ctxOf r.ctx).getD {}).window.get o = x.window.get o) ∧
        t.dram = s.dram ∧ t.sysMem = s.sysMem ∧
        (∀ j ∈ lanesOf r.slices, t.regAt r.ctx r.gang r.dest j = { val := (Claims.ends c).result, p := false }) ∧
        NatSet.has r.dest (((t.ctxOf r.ctx).getD {}).gang r.gang).pend = false) ∧
      (c.flagKind = false → c.cn < x.bars.length → (s.namedBar r.ctx c.cn).arrived + 1 < (s.namedBar r.ctx c.cn).expect →
        ∃ t, exec (.commandCompletion k) s = .next t ∧ Claims.statusWritten t k (Claims.ends c) r x ∧
          (∀ e g q j, t.regAt e g q j = s.regAt e g q j) ∧ t.dram = s.dram ∧ t.sysMem = s.sysMem ∧
          (let old := s.namedBar r.ctx c.cn
           t.namedBar r.ctx c.cn = { old with arrived := old.arrived + 1, errNow := old.errNow || (Claims.ends c).err, earr := old.earr + 1 }))) ∧
  (∀ (s : State) (k : Nat) (c : Cmd) (r : RingRef) (x : Ctx) (most last l : List Range), Claims.copies s k c r x = true →
    c.op = 0 ∨ c.op = 2 ∨ c.op = 3 → s.copyRanges c x = (most, last) → l = most ++ last → s.clearRanges l = (l, none) →
    l.all (fun e => match e.1 with | .loc p => decide (p < fabricBase) | .window _ _ => true | .raw _ _ => false) = true →
    l.Pairwise (fun e f => match e.1, f.1 with
      | .loc p, .loc q => p + e.2.length ≤ q ∨ q + f.2.length ≤ p
      | .window m p, .window n q => m ≠ n ∨ p + e.2.length ≤ q ∨ q + f.2.length ≤ p
      | _, _ => True) →
      let status := x.scratch + 2048 + 4 * r.slot
      ∃ t, exec (.commandCompletion k) s = .next t ∧ t.sysMem = s.sysMem ∧
        (∀ p bs, (Spot.loc p, bs) ∈ l → t.dram.bytes p bs.length = bs.map (·.1)) ∧
        (∀ q, (∀ p bs, (Spot.loc p, bs) ∈ l → q < p ∨ p + bs.length ≤ q) → t.dram.get q = s.dram.get q) ∧
        (∀ q, NatSet.has q t.dramMarks = Claims.sectorMark l q (NatSet.has q s.dramMarks)) ∧
        (∀ e p bs, (Spot.window e p, bs) ∈ l → (s.ctxOf e).isSome = true → e ≠ r.ctx ∨ p + bs.length ≤ status ∨ status + 4 ≤ p →
          ((t.ctxOf e).getD {}).window.bytes p bs.length = bs.map (·.1)) ∧
        (∀ e o, (∀ p bs, (Spot.window e p, bs) ∈ l → o < p ∨ p + bs.length ≤ o) → e ≠ r.ctx ∨ o < status ∨ status + 4 ≤ o →
          ((t.ctxOf e).getD {}).window.get o = ((s.ctxOf e).getD {}).window.get o)) ∧
  (∀ (s : State) (k : Nat) (c : Cmd) (r : RingRef) (x : Ctx), Claims.copies s k c r x = true → c.op = 0 → c.sk = 1 → c.dk = 1 →
    let p := c.shape
    let source := fun (e : Nat × Nat) => p.src + e.1 * p.splane + e.2 * p.spitch
    let dest := fun (e : Nat × Nat) => p.dst + e.1 * p.dplane + e.2 * p.dpitch
    let status := x.scratch + 2048 + 4 * r.slot
    p.rows.Pairwise (fun e f => dest e + p.rowb ≤ dest f ∨ dest f + p.rowb ≤ dest e) →
      ∃ t y, exec (.commandCompletion k) s = .next t ∧ t.ctxOf r.ctx = some y ∧ t.dram = s.dram ∧ t.sysMem = s.sysMem ∧
        (∀ e ∈ p.rows, ∀ i, i < p.rowb → dest e + i < status ∨ status + 4 ≤ dest e + i →
          y.window.get (dest e + i) = x.window.get (source e + i)) ∧
        (∀ o, (∀ e ∈ p.rows, o < dest e ∨ dest e + p.rowb ≤ o) → o < status ∨ status + 4 ≤ o → y.window.get o = x.window.get o)) ∧
  (∀ (s : State) (k : Nat) (c : Cmd) (r : RingRef) (x : Ctx), s.cmd k = some c → c.ring = some r → s.ctxOf r.ctx = some x →
    x.takesCompletions = true → c.cancelled = false → c.eng = 2 → c.op ≤ 3 → c.state = .started → c.pos = 1 → c.settled = true →
    s.flitsWait k = false → c.flagKind = false → c.dwg = false → c.remoteArr = false → c.cn < x.nbar → c.cn < x.bars.length →
    (s.namedBar r.ctx c.cn).arrived + 1 < (s.namedBar r.ctx c.cn).expect →
      let c1 := if c.lostAny && !c.err then c.fail 0xC010 else c
      let old := s.namedBar r.ctx c.cn
      ∃ t, exec (.commandCompletion k) s = .next t ∧ Claims.statusWritten t k c1 r x ∧ t.dram = s.dram ∧ t.sysMem = s.sysMem ∧
        (c.remote.any (fun q => q.lanes == []) = true → Instr.destinationArrival k ∈ t.agenda) ∧
        (c.remote.any (fun q => q.lanes == []) = false →
          t.namedBar r.ctx c.cn = { old with arrived := old.arrived + 1, errNow := old.errNow || (c1.err || c.lostAny), earr := old.earr + 1 }))

/-- Once the ring slot is free, RING_STALL_END publishes the stalled engine instruction's command. A pair formation
    whose limit has passed ends every pending MPAIR of the group with PAIR_MISMATCH. The destination arrival of a
    copy, and its RCB arrival once the destination has acknowledged, count at the barrier that the command names, with
    the command's ERR or that of a lost write; no memory of the package changes. A command of one array that its
    acceptance passes changes its slots and no others: MMA multiplies its two operand tiles into them by the chain of
    R232 with the flags of R234, MMAG does so at its completion with the gathered rows, MACC fills them with one value or
    copies them, and RMMA adds the exact products of the residues to each channel that the pair maintains, with the
    pair's flag, channels and bound. Choices of the model that it rests on: log entries 47, 54, 92. (R16, R248, R285,
    R286, R200, R226, R232, R234, R244, R245, R246, R272.) -/
def Obligations.EngineArrivalsAndEnds : Prop :=
  (∀ (s : State) (c g sub : Nat) (l : Bool) (d a : BitVec 8) (b : BitVec 5), ∀ ie ∈ Claims.engineWords l d a b,
    let u := (s.asIssuing c g sub Slice.stalled).modGg (fun y => y.modSlices (s.asIssuing c g sub Slice.stalled).issue.slices
      (fun _ sl => { sl with ringStall := none }))
    let sl := u.gg.slice (leastOr 0 u.issuing)
    (s.asIssuing c g sub Slice.stalled).issuing ≠ [] → u.cx.run = .running → decodeWord (nthOr 0 sl.clause sl.widx) = some ie.1 →
    u.interlocked ie.1 = false → Claims.mayPublish u ie.2 d a b = true →
      ∃ t, exec (.ringStallEnd c g sub) s = .next t ∧ Claims.published u t ie.2 d a b) ∧
  (∀ (s : State) (core : Nat) (q : PairAsk), (s.array (2 * core)).asking = some q → s.pairExpired core = true →
    ∃ t, exec (.pairFormationTimeout core) s = .next t ∧ t.ctxs = s.ctxs ∧ t.dram = s.dram ∧ t.sysMem = s.sysMem ∧
      ∀ m, m < q.arrays → let n := 2 * (core / q.arrays * q.arrays + m)
        (t.array n).asking = none ∧ ∀ p, (s.array n).asking = some p → ∀ k ∈ p.cmd :: p.more, ∀ c, s.cmd k = some c →
          ∃ y, t.cmd k = some y ∧ y.err = true ∧ y.code = 0xA007 ∧ Instr.commandCompletion k ∈ t.agenda) ∧
  (∀ (s : State) (k n : Nat) (c : Cmd) (r : RingRef) (x : Ctx), s.cmd k = some c → c.ring = some r → s.ctxOf r.ctx = some x →
    x.takesCompletions = true → c.cancelled = false → c.eng = 2 → c.settled = true → n < x.nbar → n < x.bars.length →
    (s.namedBar r.ctx n).arrived + 1 < (s.namedBar r.ctx n).expect →
      let old := s.namedBar r.ctx n
      let arrived := fun (t : State) => t.dram = s.dram ∧ t.sysMem = s.sysMem ∧ t.namedBar r.ctx n =
        { old with arrived := old.arrived + 1, errNow := old.errNow || (c.err || c.lostAny), earr := old.earr + 1 }
      (c.pos = 2 → c.destArr = true → c.remoteArr = false → c.dwg = false → c.cn = n →
        ∃ t, exec (.destinationArrival k) s = .next t ∧ arrived t ∧ (t.cmd k).map (·.destArr) = some false) ∧
      (c.pos = 3 → c.remoteArr = true → c.rcb = some n →
        ∃ t, exec (.remoteCompletion k) s = .next t ∧ arrived t ∧ (t.cmd k).map (·.remoteArr) = some false)) ∧
  (∀ (s : State) (k : Nat) (c : Cmd) (r : RingRef) (x : Ctx),
    let a := x.array
    let w0 := c.w 0
    let f := espS0 w0
    let n := espN w0
    let b := Claims.begins c x
    f + n ≤ 4 → espSpan w0 = false →
      (Claims.mayBegin s k c r x 0 0 = true → s.matrixCode b x = 0 →
        ∃ t, exec (.engineCommandStart k) s = .next t ∧ Claims.onlySlots s t a f n ∧ Instr.commandCompletion k ∈ t.agenda ∧
          ∀ q, q < n → Claims.accumulated (Claims.slotBefore s a (f + q)) (t.slot a (f + q)) (bit w0 0) x.rows (bits (c.w 3) 6 0)
            (x.operandElem (c.w 1) 0 (bit (c.w 3) 8)) (x.operandElem (c.w 2) q (bit (c.w 3) 9))) ∧
      (Claims.mayBegin s k c r x 0 2 = true → s.matrixCode b x = 0 →
        (espOpx w0 = 0 → ∃ t, exec (.engineCommandStart k) s = .next t ∧ Claims.onlySlots s t a f n ∧
          ∀ q, q < n → (t.slot a (f + q)).poisoned = fp32.isPoison (c.w 1) ∧
            ∀ i j, i < x.rows → j < 64 → (t.slot a (f + q)).cell i j = c.w 1 % 2 ^ 32) ∧
        (espOpx w0 = 2 → bits (c.w 1) 1 0 + n ≤ 4 → ∃ t, exec (.engineCommandStart k) s = .next t ∧
          Claims.onlySlots s t a (bits (c.w 1) 1 0) n ∧
          ∀ q, q < n → t.slot a (bits (c.w 1) 1 0 + q) = Claims.slotBefore s a (f + q))) ∧
      (s.cmd k = some c → c.ring = some r → s.ctxOf r.ctx = some x → c.ctx = r.ctx → c.eng = 0 → c.op = 1 → c.err = false →
        c.state = .started → s.stillOut k c = false → (s.array a).slots.length = 4 →
        ∃ t, exec (.commandCompletion k) s = .next t ∧ (∀ m u, m ≠ a → t.slot m u = s.slot m u) ∧
          (∀ u, u < 4 → u < f ∨ f + n ≤ u → t.slot a u = s.slot a u) ∧
          ∀ q, q < n → Claims.accumulated (s.slot a (f + q)) (t.slot a (f + q)) (bit w0 0) x.rows (bits (c.w 6) 6 0)
            (gatherElem c (c.gatherRows x.rows)) (x.operandElem (c.w 5) q (bit (c.w 6) 9)))) ∧
  (∀ (s : State) (k : Nat) (c : Cmd) (r : RingRef) (x : Ctx), Claims.mayBegin s k c r x 1 1 = true →
    s.rnsCode (Claims.begins c x) x = 0 →
      let a := x.array
      let p := c.pair
      let zero := bit (c.w 0) 1
      let lo := Claims.slotBefore s a (2 * p)
      let hi := Claims.slotBefore s a (2 * p + 1)
      let old : RnsPair := if (s.array a).claim = none then {} else s.rnsPair a p
      let vch := if zero then s.liveChannels x else s.liveChannels x &&& old.vch
      let left := fun (ch i q : Nat) => if bit (c.w 3) 8 then x.residueElem (c.w 1) ch q i else x.residueElem (c.w 1) ch i q
      let right := fun (ch q j : Nat) => if bit (c.w 3) 9 then x.residueElem (c.w 2) ch j q else x.residueElem (c.w 2) ch q j
      let depth := bits (c.w 3) 6 0
      ∃ t, exec (.engineCommandStart k) s = .next t ∧ Claims.onlySlots s t a (2 * p) 2 ∧ Instr.commandCompletion k ∈ t.agenda ∧
        (t.rnsPair a p).vch = vch ∧ (t.rnsPair a p).bound.toNat =
          min (2 ^ 32 - 1) ((if zero then 0 else old.bound.toNat) + depth * x.maxAbs (c.w 1) * x.maxAbs (c.w 2)) ∧
        (∀ ch ∈ channelsOf vch, ∀ i j, i < x.rows → j < 64 → residueAt (t.slot a (2 * p)) (t.slot a (2 * p + 1)) i j ch =
          ((if zero then 0 else residueAt lo hi i j ch) +
            ((List.range depth).map (fun q => (left ch i q).1 * (right ch q j).1)).sum) % modulus ch) ∧
        ∀ u, u = 2 * p ∨ u = 2 * p + 1 → (t.slot a u).rns = true ∧ ((t.slot a u).poisoned = true ↔
          (zero = false ∧ lo.poisoned = true) ∨ ∃ ch ∈ channelsOf vch, ∃ q, q < depth ∧
            ((∃ i, i < x.rows ∧ (left ch i q).2 = true) ∨ ∃ j, j < 64 ∧ (right ch q j).2 = true)))

/-- Where its checks pass and its release has nothing to wait for, LAUNCH completes: its request is with the walker
    with the leader lane's eight words, vd is pending, the answer is due, and no data changes. LAUNCH_ANSWER gives vd
    a scalar, NODE in bits 31 to 16 and LST in bits 7 to 0: where a check of R212 fails, its LST and no node; where
    all pass and no plug-in is asked, LST 0 and the number of a new launch node, which is in the ready pool. Where the
    checks read a sector at a peer, a step gives this answer once the sector is at hand. Choices of the model that it
    rests on: log entries 17, 80. (R211, R212, R21, R28, R392, R381.) -/
def Obligations.LaunchResults : Prop :=
  (∀ (s : State) (l : Bool) (d a : BitVec 8) (scope : BitVec 3), s.canIssue = true → s.launchFault d.toNat a.toNat = none →
    Claims.quiet s = true →
      ∃ t k, exec (.launch l d a scope) s = .next t ∧ Claims.sameData s t ∧ Tab.find s.nextAsk t.launchAsks = some k ∧
        k.words = (List.range 8).map (fun j => (s.lead (a.toNat + j)).val) ∧ k.ctx = s.issue.ctx ∧ k.gang = s.issue.gang ∧
        k.slices = s.issue.slices ∧ k.dest = d.toNat ∧ k.part = s.cx.part ∧ k.depth = s.cx.depth + 1 ∧ k.scope = scope.toNat ∧
        NatSet.has d.toNat t.gg.pend = true ∧ Instr.launchAnswer s.nextAsk ∈ t.agenda) ∧
  (∀ (s u : State) (n lst : Nat) (k : LaunchAsk) (x : Ctx) (ld : Option Loaded), Tab.find n s.launchAsks = some k →
    s.hooks.contains (.launchRequest n) = false → s.ctxOf k.ctx = some x → k.gang < x.gangs.length →
    s.judgeLaunch k.req = ((lst, ld), u) →
      let answered := fun (t : State) (node : Nat) => Tab.find n t.launchAsks = none ∧ t.dram = s.dram ∧ t.sysMem = s.sysMem ∧
        NatSet.has k.dest (((t.ctxOf k.ctx).getD {}).gang k.gang).pend = false ∧
        ∀ j ∈ lanesOf k.slices, t.regAt k.ctx k.gang k.dest j =
          { val := BitVec.ofNat 32 (2 ^ 16 * (node % 2 ^ 16) + lst), p := false }
      (lst ≠ 0 → ∃ t, exec (.launchAnswer n) s = .next t ∧ answered t 0 ∧ t.launches = s.launches ∧ t.pool = s.pool) ∧
      (lst = 0 → s.hasPlugin k.part = false → ld.isSome = true →
        ∃ t y node, exec (.launchAnswer n) s = .next t ∧ answered t s.nextLaunch ∧
          Tab.find s.nextLaunch t.launches = some y ∧ y.origin = .device ∧ y.next = 0 ∧ y.total = k.req.total ∧
          y.tmpl.part = k.part ∧ y.tmpl.khdr = k.req.khdr ∧ y.tmpl.karg = k.req.karg ∧
          node ∈ t.pool ∧ node.work = .launch s.nextLaunch ∧ node.prio = y.tmpl.prio))

/-- NODE_DISPATCH takes the first node of the pool that can go to its unit. A command leaves the pool and its start is
    due, and so does a chain entry that is a node of its own. A launch starts its next workgroups on the sites found, each a new context of the launch's partition with the
    next ids in the grid, its own core, and as many gangs as the kernel names, running, or placed until the die's
    operating point is stable; the launch counts them as begun. OPERATING_POINT_STABLE sets the die's point to what is
    wanted and lets every context placed on the die run. Choices of the model that it rests on: log entries 31, 57.
    (R28, R93, R97, R392, R393, R397.) -/
def Obligations.DispatchResults : Prop :=
  (∀ (s : State) (i : Nat) (n : PoolNode) (ps : List Site), (s.giveSlots).firstReady s.pool 0 = some (i, n, ps) →
    (∀ k, n.work = .command k → ∃ t, exec .nodeDispatch s = .next t ∧ Instr.engineCommandStart k ∈ t.agenda ∧
      t.pool.length + 1 = s.pool.length ∧ t.ctxs = s.ctxs) ∧
    (∀ v c m, n.work = .entry v c m → ∃ t, exec .nodeDispatch s = .next t ∧
      startOf v c m (s.kindOf v c m) ∈ t.agenda ∧ t.pool.length + 1 = s.pool.length ∧ t.ctxs = s.ctxs) ∧
    (∀ k l, n.work = .launch k → Tab.find k s.giveSlots.launches = some l →
      ∃ t y, exec .nodeDispatch s = .next t ∧ Tab.find k t.launches = some y ∧ y.next = l.next + ps.length ∧ y.total = l.total ∧
        t.dram = s.dram ∧ t.sysMem = s.sysMem ∧
        ∀ j, j < ps.length → ∃ x, t.ctxOf (s.nextCtx + j) = some x ∧ x.part = l.tmpl.part ∧ x.launch = l.tmpl.launch ∧
          x.wgid = groupIds l.tmpl.nwg (l.next + j) ∧ (ps[j]?).map (·.core) = some x.core ∧ x.gangs.length = l.tmpl.gangsN ∧
          (x.run = .running ∨ x.run = .placed))) ∧
  (∀ (s : State) (die w : Nat), die < s.points.length → nthOr none s.rising die = some w →
    ∃ t, exec (.operatingPointStable die) s = .next t ∧ nthOr 0 t.points die = s.wantedPoint die ∧
      nthOr none t.rising die = none ∧ t.dram = s.dram ∧
      ∀ c x, s.ctxOf c = some x → dieOf x.core = die →
        t.ctxOf c = some (if x.run = .placed then { x with run := .running } else x))

/-- A running context whose gangs have ended, whose accesses have been answered and of which nothing is out retires, and so
    does a terminated one of which no copy runs on: it is gone with its scope barriers, and no other context changes
    but the members of its span. A pre-emption request stops a running context and the members of its span, with no
    register changed, and leaves a service context alone. When a stopping context has drained and took no loss, a span of
    which a member runs on is stopped first; and where no member of its span runs or drains, the seal keeps its
    registers and seals its image; with a resumable fault and no plug-in, the image is reported with its record once
    that is in the fault queue. Choices of the model that it rests on: log entries 32, 57. (R25, R216, R219, R221, R250,
    R381, R387.) -/
def Obligations.ContextEnds : Prop :=
  ∀ (s : State) (c : Nat) (x : Ctx), s.ctxOf c = some x →
    (x.run = .running ∧ s.mayRetire c x = true ∨ x.run = .terminated ∧ s.runsOn c = false →
      ∃ t, exec (.workgroupRetire c) s = .next t ∧ t.ctxOf c = none ∧
        (∀ e, e ≠ c → e ∉ s.spanAll c x → t.ctxOf e = s.ctxOf e) ∧ (∀ b ∈ t.scopeBars, b.ctx ≠ c) ∧ t.dram = s.dram ∧ t.sysMem = s.sysMem) ∧
    (x.svc = true → exec (.preemptionRequest c) s = .next s) ∧
    (x.svc = false → x.run = .running →
      ∃ t, exec (.preemptionRequest c) s = .next t ∧ t.dram = s.dram ∧ (∀ e g r k, t.regAt e g r k = s.regAt e g r k) ∧
        ∀ e ∈ s.spanOf c, ∀ y, s.ctxOf e = some y → y.run = .running →
          (t.ctxOf e).map (fun z => (z.run, z.cause)) = some (.stopping, .preempted)) ∧
    (x.run = .stopping → s.drained c x = true → x.firstLoss = none → s.spanRuns c x ≠ [] → x.fault.all (fun r => !r.fatal) = true →
      ∃ t, exec (.imageSeal c) s = .next t ∧ t.ctxOf c = some x ∧ t.dram = s.dram ∧
        ∀ e ∈ s.spanRuns c x, (t.ctxOf e).map (fun z => (z.run, z.cause)) = some (.stopping, .preempted)) ∧
    (x.run = .stopping → s.drained c x = true → x.firstLoss = none → s.spanRuns c x = [] → s.spanDrains c x = false →
      (x.fault = none → ∃ t y, exec (.imageSeal c) s = .next t ∧ t.ctxOf c = some y ∧ y.run = .sealed ∧ y.window = x.window ∧
        (∀ e g r k, t.regAt e g r k = s.regAt e g r k) ∧ t.dram = s.dram ∧ t.sysMem = s.sysMem) ∧
      (∀ r, x.fault = some r → r.fatal = false → s.hasPlugin x.part = false →
        let held := ((s.sealImage c x).faultNotice c r).recordWaits r.part c
        ∃ t y, exec (.imageSeal c) s = .next t ∧ t.ctxOf c = some y ∧ y.run = (if held then .sealed else .reported) ∧
          y.fault = some r ∧ (∀ e g q k, t.regAt e g q k = s.regAt e g q k)))

namespace Sys2Proof.Claims

/-- The expected flit reaches an enabled port and passes its checks (R353, R356, R360). -/
def expected (s : State) (p : Nat) (f : Flit) : Bool :=
  let x := s.port p
  !x.down && x.ren && f.lseq.toNat == x.expect && x.passes f

/-- A transport flit of a kind, of a function that is not torn down on its channel, is the expected one. -/
def arrives (s : State) (p : Nat) (f : Flit) (tk : Nat) : Bool :=
  expected s p f && f.lk == 1 && f.tk.toNat == tk && !s.tornDown.contains (tornKey p f, f.vf)

/-- A flit reaches a die on a channel as its next marker: a posted one of a die path, or the expected one of a port. -/
def marks (s : State) (die : Nat) (ch : Channel) (f : Flit) : Bool :=
  match ch with
  | .diePath _ _ => true
  | .fabric _ p _ => arrives s p f 8 && die == p / 16 && ch == chanOf p f
  | .host _ => false

/-- The allocator's state of a domain's colour. -/
def allocState (s : State) (dom : Nat) (col : Bool) : Option AllocState := (s.domain dom).map (fun d => (d.col col).st)

/-- The state that Table 13-1 gives the allocator's colour once a die's report is noted, from what the dies report. -/
def afterReports (st : AllocState) (all : (DieState → Bool) → Bool) : AllocState :=
  match st with
  | .recording => if all (fun d => d == .closed || d == .drained) then (if all (· == .drained) then .complete else .draining)
      else .recording
  | .draining => if all (· == .drained) then .complete else .draining
  | .releasing => if all (· == .idle) then .free else .releasing
  | st => st

end Sys2Proof.Claims

/-- The allocator rejects the oldest request with its code, or grants it: the colour records under the next SSN and
    the grant is due to the die that asked. The grant completes the request's command and makes an idle die record: it is
    OPEN, or CLOSED where no channel is due, under the SSN, and its epoch is one higher modulo 2^14. A die's report is
    noted and moves the colour as Table 13-1 says, where a die that has not reported counts for nothing. A notice makes
    the die hear the allocator's state, and a release takes it to IDLE or RESETTING. A tier failure and the
    channel-close limit fail a snapshot that has not completed. Choices of the model that it rests on: log entry 24.
    (R323, R324, R325, R330, R340, R341, R345.) -/
def Obligations.SnapshotAllocator : Prop :=
  ∀ (s : State) (dom die : Nat) (col : Bool) (d : Domain), s.domain dom = some d → die < 4 →
    (∀ a rest, d.asks = a :: rest →
      let code := s.requestCode d a (s.farBase d a).1
      (code ≠ 0 → ∃ t, exec (.snapshotStartRequest dom) s = .next t ∧ t.domain dom = some { d with asks := rest } ∧
        ∀ k, a.cmd = some k → Instr.commandCompletion k ∈ t.agenda ∧
          ∀ c, s.cmd k = some c → (t.cmd k).map (fun y => (y.err, y.code)) = some (true, code)) ∧
      (code = 0 → ∃ t y, exec (.snapshotStartRequest dom) s = .next t ∧ t.domain dom = some y ∧ y.asks = rest ∧
        y.ssn = (d.ssn + 1) % 2 ^ 48 ∧ (y.col a.col).st = .recording ∧ (y.col a.col).ssn = y.ssn ∧ (y.col a.col).cmd = a.cmd ∧
        (y.col a.col).tag = a.tag ∧ (a.die < 4 → Instr.colourGrant dom a.die a.col ∈ t.agenda))) ∧
    (∀ k c, (d.col col).cmd = some k → s.cmd k = some c →
      ∃ t, exec (.colourGrant dom die col) s = .next t ∧ (t.cmd k).map (·.state) = some .completed ∧
        ((s.dieCol dom die col).st = .idle →
          (t.dieCol dom die col).st =
            (if (t.dieCol dom die col).due = [] ∧ (t.dieCol dom die col).hostOpen = [] then .closed else .opened) ∧
          (t.dieCol dom die col).ssn = (d.col col).ssn ∧
          (t.epochOf d.part die).ep = ((s.epochOf d.part die).ep + 1) % 2 ^ 14)) ∧
    (∀ st rest, Tab.read [] (colKey dom die col) s.reportsDue = st :: rest →
      let reports := Tab.set die st (d.col col).reports
      ∃ t, exec (.dieStateReport dom die col) s = .next t ∧
        Claims.allocState t dom col = some (Claims.afterReports (d.col col).st
          (fun f => (s.allDies d).all (fun k => (Tab.find k reports).any f)))) ∧
    (∀ st rest, Tab.read [] (colKey dom die col) s.noticesDue = st :: rest →
      ∃ t, exec (.allocatorStateNotice dom die col) s = .next t ∧ Tab.read .free (colKey dom die col) t.notices = st ∧
        Tab.read [] (colKey dom die col) t.noticesDue = rest ∧
        (st ≠ .releasing → t.colours = s.colours) ∧
        (st = .releasing → (t.dieCol dom die col).st =
          if (s.dieCol dom die col).st = .idle ∨
            Tab.read .free (colKey dom die col) s.notices = .complete ∧ (s.dieCol dom die col).st = .drained then .idle
          else .resetting)) ∧
    ((d.col col).st = .recording ∨ (d.col col).st = .draining →
      (∃ t, exec (.tierWriteFailure dom col) s = .next t ∧ Claims.allocState t dom col = some .failed) ∧
      (s.closeLate dom col = true →
        ∃ t, exec (.channelCloseLimit dom col) s = .next t ∧ Claims.allocState t dom col = some .failed))

/-- The first marker of a snapshot makes an idle die record under its SSN; a marker of the SSN in force closes its
    channel, and the die is CLOSED once no channel is open; a marker of a colour that is FREE, or of an SSN that is not
    in force, is counted, and so is one that comes to an idle die after its snapshot. The sweep saves a granule whose
    generation bit differs and which the snapshot needs, and sets the bit; while units are staged they go first.
    Draining moves the oldest staged unit to the records, and so does a staging buffer at its limit. A reset of tags
    takes a RESETTING die to IDLE with its epoch bit clear (the model's choice of value, log entry 24). (R325, R326,
    R327, R333, R339, R340.) -/
def Obligations.SnapshotDies : Prop :=
  ∀ (s : State) (dom die : Nat) (col : Bool) (d : Domain), s.domain dom = some d → die < 4 →
    let k := s.dieCol dom die col
    (∀ ch f, let m := markerIn f
      m.domain = dom → m.colour = col → Claims.marks s die ch f = true →
      ((d.col col).st = .free ∨ (d.col col).ssn ≠ m.ssn →
        ∃ t, exec (.snapshotMarker die ch f) s = .next t ∧ t.discards = s.discards + 1 ∧ t.colours = s.colours) ∧
      ((d.col col).st ≠ .free → (d.col col).ssn = m.ssn → k.st = .idle →
        (k.lastSsn < m.ssn → ∃ t, exec (.snapshotMarker die ch f) s = .next t ∧ (t.dieCol dom die col).ssn = m.ssn ∧
          ((t.dieCol dom die col).st = .opened ∨ (t.dieCol dom die col).st = .closed) ∧ ch ∉ (t.dieCol dom die col).due ∧
          (t.epochOf d.part die).ep = ((s.epochOf d.part die).ep + 1) % 2 ^ 14) ∧
        (m.ssn ≤ k.lastSsn → ∃ t, exec (.snapshotMarker die ch f) s = .next t ∧
          t.dieCol dom die col = { k with stale := k.stale + 1 })) ∧
      ((d.col col).st ≠ .free → (d.col col).ssn = m.ssn → k.ssn = m.ssn → k.st = .opened →
        ∃ t, exec (.snapshotMarker die ch f) s = .next t ∧ ch ∉ (t.dieCol dom die col).due ∧
          (t.dieCol dom die col).st = if (t.dieCol dom die col).due = [] ∧ k.hostOpen = [] then .closed else .opened)) ∧
    (∀ g, k.st = .opened ∨ k.st = .closed → s.firstStaged die = none → s.nextUnit dom die col = some (.granule g) →
      let e := (s.epochOf d.part die).e col
      ∃ t, exec (.colSweepUnit dom die col) s = .next t ∧ (t.dieCol dom die col).sweepAt = k.sweepAt + 1 ∧
        ((s.tagOf (.granule g)).g col = e → (t.dieCol dom die col).records = k.records) ∧
        ((s.tagOf (.granule g)).g col ≠ e → ((t.tagOf (.granule g)).g col = e) ∧
          (t.dieCol dom die col).records = k.records ++ (if k.inc = false ∨ k.inWindow (s.tagOf (.granule g)).wep = true then
            [{ name := .granule g, data := s.unitData (.granule g) }] else []))) ∧
    (∀ u rest, s.firstStaged die = some (dom, col) → k.staged = u :: rest →
      let drained := fun (t : State) => (t.dieCol dom die col).staged = rest ∧ (t.dieCol dom die col).records = k.records ++ [u] ∧
        k.bytes + 32 + u.name.size ≤ (t.dieCol dom die col).bytes
      (∃ t, exec (.colStagingDrain die) s = .next t ∧ drained t) ∧
      (2 ^ 28 ≤ s.stagedBytes die → ∃ t, exec (.stagingBufferRoom die) s = .next t ∧ drained t) ∧
      (s.stagedBytes die < 2 ^ 28 → exec (.stagingBufferRoom die) s = .next s)) ∧
    (k.st = .resetting → ∃ t, exec (.tagResetDone dom die col) s = .next t ∧ (t.dieCol dom die col).st = .idle ∧
      (t.epochOf d.part die).e col = false ∧ Instr.dieStateReport dom die col ∈ t.agenda)

namespace Sys2Proof.Claims

/-- The port expects the next sequence number. -/
def taken (s t : State) (p : Nat) : Prop := (t.port p).expect = ((s.port p).expect + 1) % 4096

/-- An answer of a kind with a payload waits at the port, under the request's function and tag. -/
def replied (s t : State) (p : Nat) (f : Flit) (tk : Nat) (payload : List Byte) : Prop :=
  taken s t p ∧ Instr.flitSend p ∈ t.agenda ∧ ∃ g ∈ (t.port p).waiting, g.tk.toNat = tk ∧ g.vf = f.vf ∧ g.tag = f.tag ∧
    g.dpkg = f.spkg ∧ g.spkg = s.podPos ∧ g.payload = payload

/-- The partition of an address is in no snapshot domain, so that the message is logged nowhere (R335). -/
def unlogged (s : State) (part : Option Nat) : Bool := match part with | some q => s.domOf q == 0 | none => true

/-- The bytes of package memory outside n bytes from an address are as before. -/
def outside (s t : State) (a n : Nat) : Prop := ∀ q, q < a ∨ a + n ≤ q → t.dram.get q = s.dram.get q

/-- A request that a home serves: nothing is refused and no live barrier word is met. -/
def serves (s : State) (addr n : Nat) : Bool := !s.homeRefuses addr n && (s.barrierAt (.loc addr) n).isNone

end Sys2Proof.Claims

/-- The expected flit of a kind is taken. A write, a reduce write and an atomic that the home serves change exactly
    their bytes, as a write, a reduction or an atomic of the package would, and are answered with their status or the
    old value; a read is answered with the bytes and marks; a write that the home refuses is answered with status 2; an
    arrival counts at the named barrier. The last answer of an access completes it: a load's or an atomic's lanes get
    their values and marks, a store leaves its gang, a refused store leaves a loss; an answer to no request is
    counted. Choices of the model that it rests on: log entries 9, 18. (R354, R355, R356, R363, R368, R190, R197,
    R204, R287, R293.) -/
def Obligations.LinkMessages : Prop :=
  (∀ (s : State) (p : Nat) (f : Flit),
    let addr := fieldIn f 0 8
    let n := fieldIn f 8 2
    Claims.unlogged s (s.ownerOf addr) = true →
    (Claims.arrives s p f 1 = true →
      (s.homeRefuses addr n = true → ∃ t, exec (.write p f) s = .next t ∧ t.dram = s.dram ∧ Claims.replied s t p f 6 (leBytes 8 2)) ∧
      (Claims.serves s addr n = true → ∃ t, exec (.write p f) s = .next t ∧ t.dram.bytes addr n = dataIn f 16 n ∧
        Claims.outside s t addr n ∧ Claims.replied s t p f 6 (leBytes 8 0))) ∧
    (Claims.arrives s p f 15 = true → Claims.serves s addr n = true →
      let rop := fieldIn f 11 1
      let r := reduceBytes rop (n / ropSize rop) (s.spotBytes (.loc addr) n) (markedData f 16 n (fieldIn f 10 1))
      ∃ t, exec (.reduceWrite p f) s = .next t ∧ t.dram.bytes addr r.length = r.map (·.1) ∧ Claims.outside s t addr r.length ∧
        Claims.replied s t p f 6 (leBytes 8 0)) ∧
    (Claims.arrives s p f 2 = true → s.homeRefuses addr n = false →
      ∃ t, exec (.readRequest p f) s = .next t ∧ t.dram = s.dram ∧ Claims.replied s t p f 3
        (readPayload (if s.readMarks addr n = 0 then 0 else 3) n (s.readMarks addr n) (s.dram.bytes addr n))) ∧
    (let k := fieldIn f 12 1
     Claims.arrives s p f 4 = true → k = 4 ∨ k = 8 → addr % k = 0 → Claims.serves s addr k = true →
      let old := s.dramNat addr k
      let bad := fieldIn f 14 1 != 0
      let out := if bit (fieldIn f 13 1) 0 then casAt old (s.homeMark addr) (fieldIn f 0x18 8) (fieldIn f 0x10 8) bad
        else atomAt (fieldIn f 8 4) k old (s.homeMark addr) (fieldIn f 0x10 8) bad
      ∃ t, exec (.atomic p f) s = .next t ∧ Claims.outside s t addr k ∧
        t.dram.bytes addr k = (match out.write with | some (v, _) => leBytes k v | none => s.dram.bytes addr k) ∧
        Claims.replied s t p f 5 (atomicReply (if out.oldP then 3 else 0) out.old (ofBool out.oldP)))) ∧
  (∀ (s : State) (p : Nat) (f : Flit) (x : Ctx),
    let c := fieldIn f 0 4
    let b := fieldIn f 4 1
    Claims.arrives s p f 7 = true → s.ctxOf c = some x → Claims.unlogged s (some x.part) = true → x.takesCompletions = true →
    b < x.nbar → b < x.bars.length → (s.namedBar c b).arrived + 1 < (s.namedBar c b).expect →
      let old := s.namedBar c b
      ∃ t, exec (.barrierArrival p f) s = .next t ∧ Claims.replied s t p f 6 (leBytes 8 0) ∧ t.namedBar c b =
        { old with arrived := old.arrived + 1, errNow := old.errNow || fieldIn f 5 1 != 0, earr := old.earr + 1 }) ∧
  (∀ (s : State) (p c g k : Nat) (f : Flit) (x : Ctx) (q : Pending) (a : Access) (r : RemotePart),
    Tab.find (pendKey f.vf f.tag.toNat) s.pendings = some q → q.use = .lanes c g k → s.ctxOf c = some x → g < x.gangs.length →
    Tab.find k (x.gang g).accesses = some a → a.home = false → a.results = [] → a.remote = [r] → r.done = false →
    s.unsent = [] → r.port = q.port → r.tag = f.tag.toNat → (r.lanes.map (·.1)).Nodup → (∀ e ∈ r.lanes, e.1 < 32) → (a.width = 1 ∨ a.width = 2) →
      let st := fieldIn f 0 8
      let isDone := fun (t : State) => Claims.taken s t p ∧ Tab.find k (((t.ctxOf c).getD {}).gang g).accesses = none
      let gets := fun (t : State) (val : Nat × Nat → Nat) (bad : Nat × Nat → Bool) => isDone t ∧
        ∀ e ∈ r.lanes, ((x.gang g).slice (e.1 / 4)).live = true →
          t.regAt c g a.dest e.1 = { val := BitVec.ofNat 32 (val e), p := bad e } ∧
          (a.width = 2 → t.regAt c g (a.dest + 1) e.1 = { val := BitVec.ofNat 32 (val e / 2 ^ 32), p := bad e })
      (Claims.arrives s p f 3 = true → q.kind = 2 → st ≠ 2 → ∃ t, exec (.readResponse p f) s = .next t ∧
        gets t (fun e => ofLeBytes (dataIn f (16 + e.2) a.size)) (fun e => bit (fieldIn f 10 1) (e.2 / 32))) ∧
      (Claims.arrives s p f 5 = true → q.kind = 4 → st ≠ 1 → st ≠ 2 → ∃ t, exec (.atomicResponse p f) s = .next t ∧
        gets t (fun _ => fieldIn f 8 8 % 2 ^ (8 * a.size)) (fun _ => fieldIn f 16 1 != 0)) ∧
      (Claims.arrives s p f 6 = true → q.kind = 1 → a.kind = .store →
        ∃ t, exec (.writeAcknowledgement p f) s = .next t ∧ isDone t ∧
          (st = 0 → (((t.ctxOf c).getD {}).gang g).lost = (x.gang g).lost) ∧
          (st ≠ 0 → ∃ w ∈ (((t.ctxOf c).getD {}).gang g).lost, w.access = k ∧ w.clobber = (st == 1)))) ∧
  (∀ (s : State) (p : Nat) (f : Flit), Tab.find (pendKey f.vf f.tag.toNat) s.pendings = none →
    (Claims.arrives s p f 3 = true → ∃ t, exec (.readResponse p f) s = .next t ∧ t.discards = s.discards + 1 ∧ t.ctxs = s.ctxs) ∧
    (Claims.arrives s p f 5 = true → ∃ t, exec (.atomicResponse p f) s = .next t ∧ t.discards = s.discards + 1 ∧ t.ctxs = s.ctxs) ∧
    (Claims.arrives s p f 6 = true → ∃ t, exec (.writeAcknowledgement p f) s = .next t ∧ t.discards = s.discards + 1 ∧ t.ctxs = s.ctxs))

/-- An acknowledgement frees the copies up to its sequence number and their counts of resends. A NAK is one event of the
    port; it sends the copies again, one more time each, or where one has been resent eight times asks for a retrain; a
    lasting port goes down. A retrain stops the port, or after
    three takes it down, and its completion resumes sending. A key-switch flit moves the receiver to the new slot;
    credits are returned as counted; at the threshold the sender switches to its other key or sets KREQ. A flit that
    is sent goes into the replay buffer under the next sequence number, the active slot and its counter. Choices of
    the model that it rests on: log entries 29, 34, 46. (R353, R356, R357, R358, R360, R361, R363, R365.) -/
def Obligations.LinkControl : Prop :=
  ∀ (s : State) (p : Nat) (f : Flit),
    let x := s.port p
    let down := fun (i : Instr) => ∃ t, exec i s = .next t ∧ (t.port p).down = true
    (∀ (seq : BitVec 12) out g rest, x.replay = out ++ g :: rest → g.lseq = seq → (∀ h ∈ out, h.lseq ≠ seq) →
      ∃ t, exec (.linkAcknowledgement p seq) s = .next t ∧ (t.port p).replay = rest ∧
        (t.port p).resends = x.resends.drop (out.length + 1) ∧ Instr.flitSend p ∈ t.agenda) ∧
    (∀ seq : BitVec 12, (∀ h ∈ x.replay, h.lseq ≠ seq) → x.replay ≠ [] → x.down = false →
      ((s.countEvents 5 p (p / 16) 1).1 = true → down (.linkNak p seq)) ∧
      ((s.countEvents 5 p (p / 16) 1).1 = false →
        ∃ t, exec (.linkNak p seq) s = .next t ∧ t.events = (s.countEvents 5 p (p / 16) 1).2.events ∧
          (x.resends.all (fun n => n < 8) = true →
            t.port p = { x with resends := (List.range x.replay.length).map (fun i => nthOr 0 x.resends i + 1) }) ∧
          (x.resends.any (fun n => 8 ≤ n) = true → t.port p = x ∧ Instr.retrain p ∈ t.agenda))) ∧
    (x.down = false → x.retraining = false → x.replay ≠ [] → x.resends.any (fun n => 8 ≤ n) = true →
      (3 ≤ x.retrains → down (.retrain p)) ∧
      (x.retrains < 3 → ∃ t, exec (.retrain p) s = .next t ∧ t.port p = { x with retraining := true, retrains := x.retrains + 1 } ∧
        Instr.retrainComplete p ∈ t.agenda)) ∧
    (x.retraining = true → ∃ t, exec (.retrainComplete p) s = .next t ∧ (t.port p).retraining = false ∧ (t.port p).resends = [] ∧
      (t.port p).replay = x.replay ∧ (t.port p).seq = x.seq ∧ Instr.flitSend p ∈ t.agenda) ∧
    (Claims.expected s p f = true → f.lk = 2 → let new := bit (fieldIn f 0 1) 0
      ∃ t, exec (.keySwitch p f) s = .next t ∧ Claims.taken s t p ∧ (t.port p).ract = new ∧ (t.port p).rclosed = some (!new)) ∧
    (Claims.expected s p f = true → f.lk = 3 →
      let crs := f.cr.toNat :: (List.range 112).map (fun i => fieldIn f (2 * i) 2)
      let back := fun (reserved : Bool) (k : Nat) => ((crs.filter (fun c => bit c 11 == reserved &&
        (if reserved then 8 * bits c 7 0 + bits c 10 8 else bits c 10 8) == k)).map (fun c => bits c 15 12)).sum
      ∃ t, exec (.credit p f) s = .next t ∧ Claims.taken s t p ∧ Instr.flitSend p ∈ t.agenda ∧
        ∀ k, Tab.read 0 k (t.port p).sharedUsed = Tab.read 0 k x.sharedUsed - back false k ∧
          Tab.read 0 k (t.port p).reservedUsed = Tab.read 0 k x.reservedUsed - back true k) ∧
    (x.atThreshold = true → x.en = true → x.down = false →
      (x.canSwitch = true → x.mayPush = true → ∃ t g, exec (.keySwitchSend p) s = .next t ∧ (t.port p).act = (!x.act) ∧
        (t.port p).replay = x.replay ++ [g] ∧ g.lk = 2 ∧ g.ks = x.act ∧ g.payload = [BitVec.ofNat 8 (ofBool (!x.act))] ∧
        (t.port p).switchSeq = some x.seq) ∧
      (x.canSwitch = false → ∃ t, exec (.keySwitchSend p) s = .next t ∧ t.port p = { x with kreq := true })) ∧
    (∀ y, x.maySend = true → x.atThreshold = false → x.waiting ≠ [] → s.nextFlit p = some (f, y) →
      ∃ t g, exec (.flitSend p) s = .next t ∧ (t.port p).replay = x.replay ++ [g] ∧ g.lseq = BitVec.ofNat 12 x.seq ∧ g.ks = x.act ∧
        g.ctrlo = BitVec.ofNat 32 (x.tx x.act).count ∧ g.tk = f.tk ∧ g.vf = f.vf ∧ g.tag = f.tag ∧ g.payload = f.payload ∧
        (t.port p).seq = (x.seq + 1) % 4096 ∧ (t.port p).waiting = x.waiting.erase f)

/-- The teardown of a live function stops its issue and shows QUAR in VSTAT, and a function-level reset stops its
    chains and drops their entries too. When the wait ends, its reserved credits and chunks are released and it is quarantined, or released at
    once where the partition has no other package. A marker makes the port drop later flits of the function on the
    channel, and on channel 0 is acknowledged. The last acknowledgement frees the id, or after a function-level reset
    makes the function live with its page as after reset. Choices of the model that it rests on: log entry 33. (R367,
    R368, R411, R365.) -/
def Obligations.TeardownResults : Prop :=
  ∀ (s : State) (v : Nat), let x := s.vf v
    (x.st = .live →
      let torn := fun (t : State) => (t.vf v).st = .tearing (s.cycle 0) ∧ t.pageNat v 0x00C 4 = 2 ∧
        Instr.teardownWaitExpiry v ∈ t.agenda ∧ (t.vf v).acks = []
      (∃ t, exec (.vfTeardown v) s = .next t ∧ torn t ∧ (t.vf v).flr = false) ∧
      (∃ t, exec (.vfFunctionLevelReset v) s = .next t ∧ torn t ∧ (t.vf v).flr = true ∧
        ∀ e ∈ t.chains, e.1 / 4 = v → e.2.en = false ∧ e.2.entries = [])) ∧
    (∀ since, x.st = .tearing since → since + 2 ^ 24 ≤ s.cycle 0 →
      ∃ t, exec (.teardownWaitExpiry v) s = .next t ∧ Tab.find v t.chunks = none ∧
        (∀ p k, k / 8 = v → Tab.read 0 k (t.port p).reservedUsed = 0) ∧
        (s.ackPackages x.part = [] → x.flr = false → (t.vf v).st = .unassigned) ∧
        (s.ackPackages x.part ≠ [] → x.acks = [] → maskBits 64 x.ports ≠ [] → (t.vf v).st = .quarantined)) ∧
    (∀ p f, Claims.arrives s p f 9 = true → fieldIn f 0 1 = v →
      (fieldIn f 1 1 = 0 → ∃ t, exec (.teardownMarker p f) s = .next t ∧ Claims.taken s t p ∧ (tornKey p f, v) ∈ t.tornDown ∧
        (f.vc = 0 → ∃ g ∈ (t.port ((s.lowPort v).getD p)).waiting, g.tk = 9 ∧ g.dpkg = f.spkg ∧ g.vf = v ∧
          g.payload = leBytes 1 v ++ leBytes 1 1 ++ leBytes 2 (fieldIn f 2 2))) ∧
      (fieldIn f 1 1 = 1 → x.st = .quarantined →
        let all := (s.ackPackages x.part).all (fun q => (maskBits 64 x.ports).length ≤ ((x.acks ++ [f.spkg]).filter (· == q)).length)
        ∃ t, exec (.teardownAcknowledgement p f) s = .next t ∧ Claims.taken s t p ∧
          (all = false → (t.vf v).st = .quarantined ∧ (t.vf v).acks = x.acks ++ [f.spkg]) ∧
          (all = true → x.flr = false → (t.vf v).st = .unassigned) ∧
          (all = true → x.flr = true → (t.vf v).st = .live ∧ (t.vf v).page = s.freshPage v x.part true)))

/-- A decrement is applied to the run in progress, kept for a run that has not opened or begun, or counted. The engine
    starts the chunk that a function's deficit covers and otherwise adds the weight to the deficit. A node that ends
    finishes and decrements its successors, and the run ends once it is over. An answer to a slot request is recorded;
    a restored run asks again. A result is written and the step is counted. A Spire grants the lowest free slot or
    0xFF, frees a slot that every member has released, and combines a step once every member has contributed. Choices
    of the model that it rests on: log entries 35, 36, 37. (R371, R372, R373, R374, R375, R376, R377, R379.) -/
def Obligations.CollectiveResults : Prop :=
  (∀ (s : State) (p : Nat) (f : Flit) (g : Graph),
    let h := fieldIn f 0 4
    let n := fieldIn f 6 2
    Claims.arrives s p f 10 = true → s.graph h = some g → Claims.unlogged s (some g.part) = true →
      (g.run = none → fieldIn f 4 2 = g.runs % 2 ^ 16 →
        ∃ t, exec (.graphDecrement p f) s = .next t ∧ t.graph h = some { g with held := g.held ++ [n] }) ∧
      (g.run = none → fieldIn f 4 2 ≠ g.runs % 2 ^ 16 →
        ∃ t, exec (.graphDecrement p f) s = .next t ∧ t.graphs = s.graphs ∧ t.discards = s.discards + 1) ∧
      (∀ r, g.run = some r → fieldIn f 4 2 = r.number →
        (r.choosing = true →
          ∃ t, exec (.graphDecrement p f) s = .next t ∧ t.graph h = some { g with run := some { r with early := r.early ++ [n] } }) ∧
        (r.choosing = false → 1 < nthOr 0 r.counts n →
          ∃ t, exec (.graphDecrement p f) s = .next t ∧
            t.graph h = some { g with run := some { r with counts := mapNth n (· - 1) r.counts } }))) ∧
  (∀ (s : State) (v h n : Nat) (g : Graph) (r : Run), s.chunks.map (·.1) = [v] → Tab.read [] v s.chunks = [(h, n)] →
    s.graph h = some g → g.run = some r → n < r.states.length →
      let d := Tab.read 0 v s.chunkDeficits + (s.vf v).weight
      (d < 256 * s.flitsOf h n → ∃ t, exec .chunkDispatch s = .next t ∧ t.chunks = s.chunks ∧ Tab.read 0 v t.chunkDeficits = d) ∧
      (256 * s.flitsOf h n ≤ d → ∃ t q, exec .chunkDispatch s = .next t ∧ Tab.read [] v t.chunks = [] ∧
        (t.graph h).bind (·.run) = some q ∧ (q.stateOf n = .running ∨ q.stateOf n = .failed))) ∧
  (∀ (s : State) (h n : Nat) (g : Graph) (r : Run), s.graph h = some g → g.run = some r → s.nodeEnded h n g r = true →
    r.stateOf n = .running → n < r.states.length → (s.cmdOfNode h n).all (fun e => !e.2.err && !e.2.lostAny) = true →
    (g.chunkAt r n).all (fun b => !(nodeKind b == 1 || nodeKind b == 2) || fieldOf b 0x0E 2 == 0xFFFF) = true →
      let q := r.setState n .finished
      (nodeSuccs g.collective (g.node r n) = [] →
        (q.over = false → ∃ t, exec (.chunkCompletion h n) s = .next t ∧ t.graph h = some { g with run := some q }) ∧
        (q.over = true → ∃ t, exec (.chunkCompletion h n) s = .next t ∧ t.graph h = some { g with run := none } ∧
          Instr.commandCompletion r.cmd ∈ t.agenda)) ∧
      (∀ m, nodeSuccs g.collective (g.node r n) = [m] → g.collective = true → m ≠ n → r.stateOf m = .blocked →
        m < r.states.length → nthOr 0 r.counts m = 1 → ∃ t y, exec (.chunkCompletion h n) s = .next t ∧
          (t.graph h).bind (·.run) = some y ∧ y.stateOf n = .finished ∧ y.stateOf m = .ready ∧
          (h, m) ∈ Tab.read [] ((s.vfOf g.part).getD 0) t.chunks)) ∧
  (∀ (s : State) (p : Nat) (f : Flit) (g : Graph) (r : Run), let h := fieldIn f 0 4
    let slots := Tab.set p (if fieldIn f 8 1 = 0xFF then none else some (fieldIn f 8 1)) r.slots
    Claims.arrives s p f 12 = true → s.graph h = some g → g.run = some r → r.choosing = true → r.again = false →
    fieldIn f 0 8 = s.ikey g.part h r.number → (g.variantOf r.variant).slots.contains p = true →
    g.answered { r with slots := slots } = false → s.deadFlit f = false →
      ∃ t, exec (.slotReply p f) s = .next t ∧ t.graph h = some { g with run := some { r with slots := slots } }) ∧
  (∀ (s : State) (h n p v : Nat) (g : Graph) (r : Run), s.graph h = some g → g.run = some r → r.choosing = false → r.again = true →
    r.stateOf n = .running → r.retried + 2 ^ 16 ≤ s.cycle 0 → p ∈ (g.variantOf r.variant).slots → (Tab.find p r.slots).join = none →
    s.vfOf g.part = some v → (s.vf v).st = .live → bit (s.vf v).ports p = true → (s.port p).down = false →
      ∃ t, exec (.slotRetry h n) s = .next t ∧ ((t.graph h).bind (·.run)).map (·.retried) = some (s.cycle 0) ∧
        ∃ k ∈ (t.port p).waiting, k.tk = 11 ∧ k.vf = v ∧ fieldIn k 0 8 = s.ikey g.part h r.number) ∧
  (∀ (s u : State) (p h n dst : Nat) (f : Flit) (g : Graph) (r : Run), let i := Tab.read 0 n r.steps
    Claims.arrives s p f 14 = true → fieldIn f 1 1 = 1 → s.resultFor p f = some (h, g, r, n) → s.graph h = some g →
    g.run = some r → s.domOf g.part = 0 → chunkAddr r.bases (g.node r n) 0x0A 0x18 = some dst →
    s.deadFlit f = false → ((s.modPort p (Port.take f)).post (.flitSend p)).writeMarked r.cmd g.part h n (dst + 192 * i)
      (markedData f 0x20 (fieldIn f 0x0A 2) (fieldIn f 9 1)) = (true, u) →
      ∃ t y, exec (.result p f) s = .next t ∧ t.dram = u.dram ∧ (t.graph h).bind (·.run) = some y ∧ Tab.read 0 n y.steps = i + 1 ∧
        (swredSteps (g.node r n) ≤ i + 1 → Instr.chunkCompletion h n ∈ t.agenda)) ∧
  (∀ (s : State) (p : Nat) (f : Flit), let us := Tab.read [] p s.spires
    ((∀ u ∈ us, u.ikey ≠ fieldIn f 0 8) → f.spkg = s.podPos →
      ∃ t k, exec (.slotRequest p f) s = .next t ∧ k ∈ Tab.read [] p t.spireOut ∧ k.tk = 12 ∧ k.vf = f.vf ∧
        k.payload = leBytes 8 (fieldIn f 0 8) ++ leBytes 1 ((freeSlot us).getD 0xFF) ∧
        ∀ a, freeSlot us = some a → ∃ u ∈ Tab.read [] p t.spires, u.ikey = fieldIn f 0 8 ∧ u.slot = some a ∧ u.nmem = fieldIn f 8 2) ∧
    (∃ t, exec (.slotRelease p f) s = .next t ∧ ∀ u ∈ us, u.slot = some (fieldIn f 0 1) →
      let w := { u with released := NatSet.add (fieldIn f 1 1) u.released }
      (w.released.length < w.nmem → w ∈ Tab.read [] p t.spires) ∧
      (w.nmem ≤ w.released.length → ∀ y ∈ Tab.read [] p t.spires, y.slot = u.slot → y.released.length < y.nmem)) ∧
    (∀ u, us.find? (fun y => y.slot == some (fieldIn f 0 1)) = some u →
      let step := fieldIn f 4 4
      let got := Tab.set (256 * step + fieldIn f 2 2 % 256) f u.given
      let fs := (got.filter (fun e => e.1 / 256 == step)).map (·.2)
      ∃ t, exec (.contribution p f) s = .next t ∧
        (fs.length < u.nmem → ∃ y ∈ Tab.read [] p t.spires, y.ikey = u.ikey ∧ y.given = got) ∧
        (u.nmem ≤ fs.length → ∀ e ∈ u.members, e.2 = s.podPos → ∃ k ∈ Tab.read [] p t.spireOut, k.tk = 14 ∧
          k.payload = slotPayload (u.slot.getD 0) 1 e.1 step (fs.foldl (fun b y => b ||| fieldIn y 8 1) 0) (combined u.rop fs))))

namespace Sys2Proof.Claims

/-- Entry n is the next of its chain to start, is of a kind, and keeps its row of Table 15-6. -/
def mayStart (s : State) (v c n kind : Nat) (e : Entry) : Bool :=
  (s.chain v c).nextStart == some (n, e) && e.kind == kind && s.entryOk v c n e && (s.vf v).st == .live

/-- Entry n is of a kind and a node of its own that has left the ready pool. -/
def mayAct (s : State) (v c n kind : Nat) (e : Entry) : Bool :=
  s.entry v c n == some e && e.st == .pooled && e.kind == kind && !s.pool.any (fun m => m.work == .entry v c n) &&
  (s.vf v).st == .live

/-- The state in which the entry has been taken up. -/
def begun (s : State) (v c n : Nat) : State := s.modEntry v c n (fun y => { y with st := .started })

/-- The entry has ended with a code and a value, and its completion is due. -/
def ended (t : State) (v c n code value : Nat) : Prop :=
  (t.entry v c n).map (fun e => (e.err, e.code, e.value)) = some (code != 0, code, value) ∧ Instr.chainEntryCompletion v c n ∈ t.agenda

end Sys2Proof.Claims

/-- CHAIN_ENABLE reads BASE and SIZE and starts a chain at 0; NOTIFY takes the published entries of the enabled
    chains, or stops a chain whose TAIL runs too far ahead. An entry that starts in its turn does what its kind says:
    ENGINE enters its command into the ready pool, CHAIN_LAUNCH adds a launch node or ends with its code, RESTORE ends
    with its code or makes the launch of the image; and an entry that has been a node of the pool: GLOAD loads a graph
    and gives its handle, GUNLOAD removes one that is not running, CHAIN_RUN begins a run or ends with its code, TINV and
    CNTR end with their codes and writes. Completion writes RESULT, counts an interrupt where IRQ is set, and CSEQ passes
    every entry completed in order; the page shows it unless a write of the front end still awaits its acknowledgement.
    Choices of the model that it rests on: log entries 38, 39, 40, 80, 82. (R383, R384, R385, R386, R390, R391, R394.) -/
def Obligations.ChainResults : Prop :=
  ∀ (s : State) (v c : Nat), c < 4 → (s.vf v).st = .live →
    let p := (s.vf v).part
    ((s.chain v c).en = false → ∃ t, exec (.chainEnable v c) s = .next t ∧
      (let k := s.chain v c
       t.chain v c = { first := k.head, en := true, base := s.pageNat v (0x040 + 32 * c) 8, size := s.pageNat v (0x048 + 32 * c) 4,
                       head := k.head, cseq := k.head, entries := k.entries.filter (fun e => e.2.st != .done) }) ∧
      t.pageNat v (0x04C + 32 * c) 4 = 1 ∧ t.pageNat v (0x050 + 32 * c) 4 = 0 ∧ t.pageNat v (0x054 + 32 * c) 4 = 0 ∧
      t.pageNat v (0x058 + 32 * c) 8 = 0) ∧
    (s.domOf p = 0 → bit (s.pageNat v 0x228 4) 0 = false → ((s.part p).map (·.waiting)).getD [] = [] → (s.chain v c).en = true →
      let k := s.chain v c
      let ahead := (s.pageNat v (0x050 + 32 * c) 4 + 2 ^ 32 - (k.head - k.first) % 2 ^ 32) % 2 ^ 32
      ∃ t, exec (.notify v) s = .next t ∧ (k.size < ahead → (t.chain v c).en = false) ∧
        (ahead ≤ k.size → (t.chain v c).head = k.head + ahead ∧ 
          t.pageNat v (0x054 + 32 * c) 4 = (k.head - k.first + ahead) % 2 ^ 32)) ∧
    ∀ (n : Nat) (e : Entry), let u := Claims.begun s v c n
      (Claims.mayStart s v c n 1 e = true → ∃ t k, exec (.engine v c n) s = .next t ∧ t.cmd s.nextCmd = some k ∧
        k.origin = .chain v c n ∧ k.part = p ∧ k.words = e.body.map (BitVec.ofNat 32) ∧ ∃ y ∈ t.pool, y.work = .command s.nextCmd) ∧
      (Claims.mayStart s v c n 2 e = true → ∀ lst ld w, u.judgeLaunch (s.entryLaunch v c n e) = ((lst, ld), w) →
        (lst = 4 → ∃ t, exec (.chainLaunch v c n) s = .next t ∧ Claims.ended t v c n 0xF103 0) ∧
        (lst ≠ 0 → lst ≠ 4 → ∃ t, exec (.chainLaunch v c n) s = .next t ∧ Claims.ended t v c n 0xF102 lst) ∧
        (lst = 0 → ld.isSome = true → s.hasPlugin p = false → ∃ t y, exec (.chainLaunch v c n) s = .next t ∧
          Tab.find s.nextLaunch t.launches = some y ∧ y.origin = .chain v c n ∧ (∃ m ∈ t.pool, m.work = .launch s.nextLaunch) ∧
          (t.entry v c n).map (·.value) = some s.nextLaunch)) ∧
      (Claims.mayAct s v c n 3 e = true →
        (∀ w, u.readGraph p e.arg = (none, w) → ∃ t, exec (.gload v c n) s = .next t ∧ Claims.ended t v c n 0xF001 0) ∧
        (∀ g w, u.readGraph p e.arg = (some g, w) → s.graphRoom g = false →
          ∃ t, exec (.gload v c n) s = .next t ∧ Claims.ended t v c n 0xF106 0) ∧
        (∀ g w, u.readGraph p e.arg = (some g, w) → s.graphRoom g = true → ∃ t, exec (.gload v c n) s = .next t ∧
          Claims.ended t v c n 0 s.nextHandle ∧ t.graph s.nextHandle = some g)) ∧
      (Claims.mayAct s v c n 4 e = true → ∀ g, s.graph (nthOr 0 e.body 0) = some g →
        (g.part ≠ p → ∃ t, exec (.gunload v c n) s = .next t ∧ Claims.ended t v c n 0xF001 0 ∧ t.graphs = s.graphs) ∧
        (g.part = p → g.run ≠ none → ∃ t, exec (.gunload v c n) s = .next t ∧ Claims.ended t v c n 0xF003 0 ∧ t.graphs = s.graphs) ∧
        (g.part = p → g.run = none → ∃ t, exec (.gunload v c n) s = .next t ∧ Claims.ended t v c n 0 0 ∧
          t.graph (nthOr 0 e.body 0) = none)) ∧
      (Claims.mayAct s v c n 5 e = true →
        let k := { runCmd p v c n e with state := .started }
        let w := (u.addCmd k).2
        (∀ code y, code ≠ 0 → w.judgeRun k = (.inl code, y) → ∃ t z, exec (.chainRun v c n) s = .next t ∧
          t.cmd s.nextCmd = some z ∧ z.err = true ∧ z.code = code ∧ Instr.commandCompletion s.nextCmd ∈ t.agenda) ∧
        (∀ g bs y, w.judgeRun k = (.inr (g, bs), y) → y.prioOk p g.defPrio = false → ∃ t z, exec (.chainRun v c n) s = .next t ∧
          t.cmd s.nextCmd = some z ∧ z.err = true ∧ z.code = 0xF103 ∧ Instr.commandCompletion s.nextCmd ∈ t.agenda) ∧
        (∀ g bs y, w.judgeRun k = (.inr (g, bs), y) → y.prioOk p g.defPrio = true → s.hasPlugin p = false →
          ∃ t z r, exec (.chainRun v c n) s = .next t ∧
          t.graph (k.w 1) = some z ∧ z.run = some r ∧ r.cmd = s.nextCmd ∧ r.number = g.runs % 2 ^ 16 ∧ r.bases = bs ∧
          z.runs = g.runs + 1)) ∧
      (Claims.mayStart s v c n 6 e = true → ∀ code w,
        u.restore p (.chain v c n) e.arg (nthOr 0 e.body 0) (nthOr 0 e.body 1 + 2 ^ 32 * nthOr 0 e.body 2) = (code, w) →
        ∃ t, exec (.restore v c n) s = .next t ∧ t.ctxs = w.ctxs ∧ t.dram = w.dram ∧ t.launches = w.launches ∧
          (code ≠ 0 → (w.entry v c n).isSome = true → Claims.ended t v c n code 0)) ∧
      (Claims.mayAct s v c n 7 e = true → ∃ t, exec (.tinv v c n) s = .next t ∧ Claims.ended t v c n 0 0 ∧ t.dram = s.dram) ∧
      (Claims.mayAct s v c n 8 e = true → ∀ x w, s.part p = some x → extentOk e.arg 64 = true → u.writeFail p e.arg 64 = none →
        u.writeVa p e.arg x.counters = some w → ∃ t, exec (.cntr v c n) s = .next t ∧ t.dram = w.dram ∧ t.sysMem = w.sysMem ∧
          Claims.ended t v c n 0 0) ∧
      (s.entry v c n = some e → (s.chain v c).first ≤ n → s.entryEnded v c n e = true → s.cmdOfEntry v c n = none → ∀ w,
        s.writeVa p e.result (leBytes 4 (2 ^ 31 + 2 ^ 30 * ofBool e.err + e.code % 2 ^ 16) ++ leBytes 4 e.value) = some w →
        ∃ t, exec (.chainEntryCompletion v c n) s = .next t ∧ t.dram = w.dram ∧
          ((s.chain v c).cseq = n → n < (t.chain v c).cseq) ∧
          (t.vf v).irqs = (s.vf v).irqs + ofBool e.irq ∧
          t.pageNat v (0x058 + 32 * c) 8 = (if w.frontOut p then s.pageNat v (0x058 + 32 * c) 8
            else ((t.chain v c).cseq - (t.chain v c).first) % 2 ^ 64))

/-- The end of a period sends the die's charges to die 0: with the remainders that the die carries they add up to the
    energy metered, in microjoules, and only whole cores are charged directly, to the partition that holds them; the
    contexts get their shares. A charge adds to the partitions' COUNT and DIRECT and to the package's energy. Firmware
    writes the mirror once 64 kJ have passed. A requested reading takes the next RSEQ, stores it, and is written to ROUT,
    with ESTAT showing DONE, or ERR with the page code, once no write of the front end awaits its acknowledgement. A policy's answer on a fault resumes, terminates or reports the context; an answer not listed, and a timeout,
    apply the default, report, and count it. Choices of the model that it rests on: log entries 10, 26, 49, 55, 80. (R399,
    R400, R401, R406, R407, R408, R381, R216.) -/
def Obligations.EnergyAndPolicy : Prop :=
  ∀ (s : State),
    (∀ die m ctxs, die < 4 → die < s.periods.length → die < s.carried.length →
      (s.cycle die < nthOr 0 s.periods die + 2 ^ 16 → exec (.attributionPeriodEnd die m ctxs) s = .next s) ∧
      (nthOr 0 s.periods die + 2 ^ 16 ≤ s.cycle die → ∃ t cs, exec (.attributionPeriodEnd die m ctxs) s = .next t ∧
        nthOr 0 t.periods die = nthOr 0 s.periods die + 2 ^ 16 ∧ Tab.read [] die t.charges = Tab.read [] die s.charges ++ [cs] ∧
        1000 * (cs.map (fun c => c.direct + c.attributed)).sum + nthOr 0 t.carried die = nthOr 0 s.carried die +
          (m.cores.map (·.energy)).sum + m.dram + m.background + m.link + m.col + m.idle ∧
        nthOr 0 t.carried die < 1000 ∧ (∀ p, ((cs.filter (fun c => c.part == p)).map (·.direct)).sum ≠ 0 →
          ∃ u ∈ m.cores, s.splitCore u.core = false ∧ s.holderOf u.core none = p) ∧
        Instr.periodCharge die ∈ t.agenda ∧ ∀ c x, s.ctxOf c = some x → (t.ctxOf c).map (·.ccount) = some (x.ccount +
          if x.resident then ((ctxs.filter (fun e => e.ctx == c)).map (ctxCharge m x.core)).sum else 0))) ∧
    (∀ die cs rest, Tab.read [] die s.charges = cs :: rest → ∃ t, exec (.periodCharge die) s = .next t ∧
      Tab.read [] die t.charges = rest ∧ t.energy = s.energy + (cs.map (fun c => c.direct + c.attributed)).sum ∧
      ∀ q x, s.part q = some x → (t.part q).map (fun y => (y.meter.count, y.meter.direct)) =
        some (x.meter.count + ((cs.filter (fun c => s.chargeOf c == q)).map (fun c => c.direct + c.attributed)).sum,
          x.meter.direct + ((cs.filter (fun c => s.chargeOf c == q)).map (·.direct)).sum)) ∧
    (s.energy < s.mirrored + 64000000000 → exec .mirrorWrite s = .next s) ∧
    (s.ready = true → s.mirrored + 64000000000 ≤ s.energy → ∃ t, exec .mirrorWrite s = .next t ∧ t.mirrored = s.energy ∧
      t.stored.total = s.energy ∧ t.stored.mirror = s.parts.map (fun e => (e.1, e.2.meter)) ∧ t.parts = s.parts) ∧
    (∀ v, (s.vf v).st ≠ .unassigned → bit (s.pageNat v 0x228 4) 0 = true → (s.vf v).ended = none →
      s.frontOut (s.vf v).part = false →
      let out := s.pageNat v 0x220 8
      let p := (s.vf v).part
      let served := fun (t : State) (err : Bool) => t.pageNat v 0x228 4 = 0 ∧ bit (t.pageNat v 0x22C 4) 31 = true ∧
        bit (t.pageNat v 0x22C 4) 30 = err
      (out % 256 ≠ 0 → ∃ t, exec (.signedReading v) s = .next t ∧ served t true ∧ t.stored = s.stored) ∧
      (out % 256 = 0 → extentOk out 256 = true → ∀ code, s.writeFail p out 256 = some code →
        ∃ t, exec (.signedReading v) s = .next t ∧ served t true ∧ t.pageNat v 0x22C 4 % 2 ^ 16 = code % 2 ^ 16 ∧ t.stored = s.stored) ∧
      (out % 256 = 0 → extentOk out 256 = true → s.writeFail p out 256 = none →
        ∀ w, (s.signReading p false ((s.vf v).page.bytes 0x200 32)).2.writeVa p out
          (s.signReading p false ((s.vf v).page.bytes 0x200 32)).1 = some w →
        ∃ t, exec (.signedReading v) s = .next t ∧ t.dram = w.dram ∧ t.sysMem = w.sysMem ∧
          (w.frontOut p = false → served t false) ∧ (w.frontOut p = true → (t.vf v).ended = some (false, 0)) ∧
          t.stored.rseq = s.stored.rseq + 1 ∧ (Tab.read {} p t.stored.audit : Audit).rseq = s.stored.rseq + 1 ∧ t.pageNat v 0x230 8 = (s.stored.rseq + 1) % 2 ^ 64)) ∧
    (∀ c x, s.hooks.contains (.fault c) = true → s.ctxOf c = some x → x.run = .sealed →
      (∃ t, exec (.policyHookAnswer (.fault c) 0) s = .next t ∧ (t.ctxOf c).map (fun y => (y.run, y.cause)) = some (.sealed, .preempted) ∧
        t.hooks.contains (.fault c) = false) ∧
      (∃ t, exec (.policyHookAnswer (.fault c) 1) s = .next t ∧ t.ctxOf c = none ∧ t.hooks.contains (.fault c) = false) ∧
      (∃ t, exec (.policyHookAnswer (.fault c) 2) s = .next t ∧ (t.ctxOf c).map (·.run) = some .reported ∧ t.parts = s.parts) ∧
      (∀ i, i = Instr.policyHookTimeout (.fault c) ∨ (∃ n, 2 < n ∧ i = .policyHookAnswer (.fault c) n) →
        ∃ t, exec i s = .next t ∧ (t.ctxOf c).map (·.run) = some .reported ∧ t.hooks.contains (.fault c) = false ∧
          ∀ y, s.part x.part = some y → (t.part x.part).map (·.defaults) = some (y.defaults + 1)))

namespace Sys2Proof.Claims

/-- A request of the management page has ended with DONE and no error, and GO is clear (Table 17-2). -/
def requestDone (t : State) : Prop := t.mgmtNat 0x014 4 = 2 ^ 31 ∧ t.mgmtNat 0x010 4 = 0

/-- A request of the management page has ended with DONE and ERR, and GO is clear. -/
def requestRefused (t : State) : Prop :=
  bit (t.mgmtNat 0x014 4) 31 = true ∧ bit (t.mgmtNat 0x014 4) 30 = true ∧ t.mgmtNat 0x010 4 = 0

/-- The management page asks for a request code that is served now (Table 17-2, log entry 42). -/
def asks (s : State) (code : Nat) : Bool :=
  bit (s.mgmtNat 0x010 4) 31 && s.mgmtNat 0x010 1 == code && s.servesCode code

/-- A request is served, none waits behind it, and the page still shows it (log entry 43). -/
def servesOnly (s : State) (code : Nat) : Bool :=
  s.serves code && s.requests.length ≤ 1 && sameRequest s.servedRequest s.mgmt

/-- What stands after a reset whose bring-up passes: no context but those kept, no chain, cycle counters at 0, the booted
image, its minimum SVN, READY, no request. -/
def broughtUp (s t : State) (f : Firmware) (keep : Tab Ctx) : Prop :=
  t.ctxs = keep ∧ t.chains = [] ∧ t.cycles = [0, 0, 0, 0] ∧ t.pool = [] ∧ t.cmds = [] ∧ t.running = some f ∧ t.ready = true ∧
  t.stored.minSvn = Nat.max s.stored.minSvn f.svn ∧ t.sysMem = s.sysMem ∧ t.requests = []

end Sys2Proof.Claims

/-- A register write stores an argument, begins the request that the page asks for, puts a further request behind the
    one that is served, asks for what its NOTIFY names, writes a key, or ends an unlisted code with 0xF201. Each request
    of Table 17-3 that passes its checks does what its row says and ends with DONE, and one that does not ends with ERR;
    its end begins the request that waits behind it. A power limit reached lowers operating points and changes no
    context. Cold and unexpected resets bring the package up with no context, counters from the mirror and the gap bound
    (for a cold reset read from Table 17-4); a warm reset stops what runs, and then comes up with the images kept, the
    charges applied and no gap. Choices of the model that it rests on: log entries 10, 41, 42, 43, 45, 69. (R362, R382,
    R384, R398, R406, R411, R412, R413, R414, R415, R416, R417.) -/
def Obligations.ManagementResults : Prop :=
  ∀ (s : State),
    (∀ off value, 0x020 ≤ off → off < 0x060 → off % 4 = 0 →
      ∃ t, exec (.registerWrite (.mgmt off) value) s = .next t ∧ t.mgmtNat off 4 = value % 2 ^ 32 ∧ t.dram = s.dram) ∧
    (∀ code, Claims.asks s code = true →
      (∀ ev, s.requests = [] → requestOf code = some ev →
        ∃ t, exec (.registerWrite (.mgmt 0) 0) s = .next t ∧ ev ∈ t.agenda ∧ t.requests = [s.mgmt]) ∧
      (s.requests = [] → code = 0 ∨ 9 < code → ∃ t, exec (.registerWrite (.mgmt 0) 0) s = .next t ∧
        t.mgmtNat 0x014 4 = 2 ^ 31 + 2 ^ 30 + 0xF201 ∧ t.mgmtNat 0x010 4 = 0 ∧ t.requests = []) ∧
      (s.requests ≠ [] → s.requests.any (fun m => sameRequest m s.mgmt) = false →
        ∃ t, exec (.registerWrite (.mgmt 0) 0) s = .next t ∧ t.requests = s.requests ++ [s.mgmt] ∧ t.agenda = s.agenda)) ∧
    (∀ v value, (s.vf v).st ≠ .unassigned →
      ∃ t, exec (.registerWrite (.vcp v 0) value) s = .next t ∧ Instr.notify v ∈ t.agenda) ∧
    (∀ p key, p < 64 → (s.port p).act = true ∨ (s.port p).tx0.valid = false → (s.port p).ret = false ∨ (s.port p).act = false →
      ∃ t, exec (.registerWrite (.port p 0x020) key) s = .next t ∧ (t.port p).tx0 = { key := key % 2 ^ 256, valid := true }) ∧
    (∀ r, Claims.servesOnly s 1 = true → s.reqNat 0x020 4 = r.id →
      (s.recordOk r = true → s.remaps r = false ∨ s.translating r.id = false → s.restripes r = false → s.reroutes r = false →
        ∃ t, exec (.partitionCreate r) s = .next t ∧ Claims.requestDone t ∧ (t.part r.id).map (·.record) = some r ∧
          r ∈ t.stored.records) ∧
      (s.recordOk r = false → ∃ t, exec (.partitionCreate r) s = .next t ∧ Claims.requestRefused t ∧ t.parts = s.parts)) ∧
    (Claims.servesOnly s 2 = true → let p := s.reqNat 0x020 4
      (p ≠ 0 → (s.part p).isSome = true → s.partHolds p = false →
        ∃ t, exec .partitionDelete s = .next t ∧ Claims.requestDone t ∧ t.part p = none) ∧
      (p = 0 ∨ s.part p = none ∨ s.partHolds p = true →
        ∃ t, exec .partitionDelete s = .next t ∧ Claims.requestRefused t ∧ t.parts = s.parts)) ∧
    (Claims.servesOnly s 3 = true → let die := s.reqNat 0x020 4
      let cls := s.reqNat 0x024 4
      let n := s.reqNat 0x030 8
      (die < 4 → 1 ≤ cls → cls ≤ 9 → leastThreshold cls ≤ n → ∃ t, exec .faultWindowSet s = .next t ∧ Claims.requestDone t ∧
        t.window cls die = (s.reqNat 0x028 8, n) ∧ t.events = s.events) ∧
      (4 ≤ die ∨ cls = 0 ∨ 9 < cls ∨ n < leastThreshold cls →
        ∃ t, exec .faultWindowSet s = .next t ∧ Claims.requestRefused t ∧ t.windows = s.windows)) ∧
    (Claims.servesOnly s 4 = true →
      let head := s.sysMem.bytes (s.reqNat 0x020 8) 512
      let n := fieldOf head 0x0C 4
      let ok := 512 + n ≤ s.reqNat 0x028 8 && imageOk head (s.sysMem.bytes (s.reqNat 0x020 8 + 512) n) s.stored.minSvn
      (ok = true → ∃ t, exec .firmwareStage s = .next t ∧ Claims.requestDone t ∧ t.stored.staged = true ∧
        t.stored.active = s.stored.active ∧ t.stored.slots = mapNth (1 - s.stored.active)
          (fun _ => { svn := fieldOf head 0x08 4, digest := (head.drop 0x10).take 64 }) s.stored.slots) ∧
      (ok = false → ∃ t, exec .firmwareStage s = .next t ∧ Claims.requestRefused t ∧ t.stored = s.stored)) ∧
    (∀ f, s.running = some f → s.attested = true → s.reqNat 0x060 8 % 64 = 0 →
      (Claims.servesOnly s 5 = true → let body := s.reportBody f (s.servedRequest.bytes 0x020 32) (s.stored.aseq + 1)
        ∃ t, exec .attestationReport s = .next t ∧ Claims.requestDone t ∧ t.stored.aseq = s.stored.aseq + 1 ∧
          t.sysMem.bytes (s.reqNat 0x060 8) 384 = sized 384 (body ++ signature s.attestation body)) ∧
      (Claims.servesOnly s 6 = true → let body := publicKey s.attestation ++ leBytes 4 f.svn ++ sized 64 f.digest
        ∃ t, exec .attestationCertificate s = .next t ∧ Claims.requestDone t ∧
          t.sysMem.bytes (s.reqNat 0x060 8) 333 = body ++ signature Config.identityKey body)) ∧
    (s.serves 8 = true → ∀ m rest ev, s.requests.tail = m :: rest → ofLeBytes (m.bytes 0x010 1) ≠ 1 →
      requestOf (ofLeBytes (m.bytes 0x010 1)) = some ev →
        ∃ t, exec .powerLimitSet s = .next t ∧ t.requests = m :: rest ∧ ev ∈ t.agenda) ∧
    (Claims.servesOnly s 8 = true → let w := s.reqNat 0x020 8
      (1000 ≤ w → w ≤ 3600 → ∃ t, exec .powerLimitSet s = .next t ∧ Claims.requestDone t ∧ t.powerLimit = w) ∧
      (w < 1000 ∨ 3600 < w → ∃ t, exec .powerLimitSet s = .next t ∧ Claims.requestRefused t ∧ t.powerLimit = s.powerLimit)) ∧
    (Claims.servesOnly s 9 = true → let p := s.reqNat 0x020 4
      (p < 64 → s.reqNat 0x024 4 = 0 → (s.port p).act = true → (s.port p).ret = false → ∃ t, exec .linkKeyWrite s = .next t ∧
        Claims.requestDone t ∧ (t.port p).tx0 = { key := s.reqNat 0x028 32 % 2 ^ 256, valid := true }) ∧
      (64 ≤ p ∨ 4 ≤ s.reqNat 0x024 4 → ∃ t, exec .linkKeyWrite s = .next t ∧ Claims.requestRefused t ∧ t.ports = s.ports)) ∧
    (∃ t, exec .powerLimitReached s = .next t ∧ t.ctxs = s.ctxs ∧
      ∀ d, d < 4 → d < s.points.length → 1 < nthOr 0 s.points d → 1 < nthOr 7 s.allowed d →
        1 ≤ nthOr 0 t.allowed d ∧ nthOr 0 t.allowed d < nthOr 7 s.allowed d ∧ nthOr 0 t.points d < nthOr 0 s.points d) ∧
    (∀ f, s.bootFails = 0 → s.activate.stored.bootImage = some f →
      let gapped := fun (t : State) => t.stored.gaps = s.stored.gaps + 1 ∧ ∀ r ∈ s.stored.records,
        (s.stored.records.map (·.id)).Nodup → (Tab.read {} r.id t.stored.audit : Audit).gapMark = true ∧
          (t.part r.id).map (fun p => (p.record, p.meter)) = some (r,
            let m : Meter := Tab.read {} r.id s.stored.mirror
            { m with gapu := m.gapu + 64004000000 })
      (∃ t, exec .coldReset s = .next t ∧ Claims.broughtUp s t f [] ∧ gapped t ∧ t.stored.staged = false) ∧
      (s.stored.staged = false → ∃ t, exec .unexpectedReset s = .next t ∧ Claims.broughtUp s t f [] ∧ gapped t) ∧
      (s.ctxs.all (fun e => e.2.run != .running && e.2.run != .placed && e.2.run != .stopping) = true →
        ∃ t, exec .warmReset s = .next t ∧ Claims.broughtUp s t f s.heldForHost ∧ t.stored.gaps = s.stored.gaps ∧
          t.stored.audit = s.stored.audit ∧ t.stored.mirror =
            (if s.ready then s.takeCharges.parts.map (fun e => (e.1, e.2.meter)) else s.stored.mirror))) ∧
    (∀ c x, s.ctxOf c = some x → x.run = .running → ∃ t y, exec .warmReset s = .next t ∧ t.ctxOf c = some y ∧ y.run = .stopping ∧
      (∀ e g r k, t.regAt e g r k = s.regAt e g r k) ∧ t.pool = [] ∧ t.chains = [] ∧ Instr.warmReset ∈ t.agenda)
end

