-- ==== Sys2Proof/Laws/Tab.lean ====
section
/-! SUPPORT. The laws of tables: reading after writing, and the canonical form that every operation keeps. -/

namespace Sys2Proof.Machine

variable {α : Type}

theorem beq_self_nat (a : Nat) : Nat.beq a a = true := Nat.beq_refl a

theorem beq_ne_nat {a b : Nat} (h : a ≠ b) : Nat.beq a b = false := by
  cases hb : Nat.beq a b
  · rfl
  · exact absurd (Nat.eq_of_beq_eq_true hb) h

/-! ### Finding -/

theorem Tab.find_place_self (k : Nat) (v : α) (t : Tab α) (h : Tab.find k t = none) :
    Tab.find k (Tab.place k v t) = some v := by
  induction t with
  | nil => simp [Tab.place, Tab.find]
  | cons e t ih =>
    unfold Tab.place
    split
    · simp [Tab.find]
    · by_cases he : e.1 = k
      · simp [Tab.find, he] at h
      · simp [Tab.find, beq_ne_nat he] at h ⊢
        exact ih h

theorem Tab.find_place_ne {k j : Nat} (v : α) (t : Tab α) (h : j ≠ k) :
    Tab.find j (Tab.place k v t) = Tab.find j t := by
  induction t with
  | nil => simp [Tab.place, Tab.find, beq_ne_nat (Ne.symm h)]
  | cons e t ih =>
    unfold Tab.place
    split
    · simp [Tab.find, beq_ne_nat (Ne.symm h)]
    · simp [Tab.find, ih]

@[simp] theorem Tab.find_drop_self (k : Nat) (t : Tab α) : Tab.find k (Tab.drop k t) = none := by
  induction t with
  | nil => rfl
  | cons e t ih =>
    by_cases he : e.1 = k
    · simpa [Tab.drop, he, beq_self_nat] using ih
    · simpa [Tab.drop, Tab.find, beq_ne_nat he] using ih

theorem Tab.find_drop_ne {k j : Nat} (t : Tab α) (h : j ≠ k) : Tab.find j (Tab.drop k t) = Tab.find j t := by
  induction t with
  | nil => rfl
  | cons e t ih =>
    by_cases he : e.1 = k
    · have hj : e.1 ≠ j := by omega
      simp only [Tab.find, beq_ne_nat hj]
      simpa [Tab.drop, he, beq_self_nat] using ih
    · simp only [Tab.drop, List.filter, beq_ne_nat he, Bool.not_false, Tab.find] at ih ⊢
      simp only [ih]

@[simp] theorem Tab.find_set_self (k : Nat) (v : α) (t : Tab α) : Tab.find k (Tab.set k v t) = some v :=
  Tab.find_place_self k v _ (Tab.find_drop_self k t)

theorem Tab.find_set_ne {k j : Nat} (v : α) (t : Tab α) (h : j ≠ k) : Tab.find j (Tab.set k v t) = Tab.find j t := by
  rw [Tab.set, Tab.find_place_ne v _ h, Tab.find_drop_ne t h]

@[simp] theorem Tab.find_update_self (k : Nat) (f : α → α) (t : Tab α) :
    Tab.find k (Tab.update k f t) = (Tab.find k t).map f := by
  induction t with
  | nil => rfl
  | cons e t ih =>
    by_cases he : e.1 = k
    · simp [Tab.update, Tab.find, he]
    · simp only [Tab.update, List.map_cons, beq_ne_nat he, Tab.find] at ih ⊢
      simpa [beq_ne_nat he] using ih

theorem Tab.find_update_ne {k j : Nat} (f : α → α) (t : Tab α) (h : j ≠ k) :
    Tab.find j (Tab.update k f t) = Tab.find j t := by
  induction t with
  | nil => rfl
  | cons e t ih =>
    by_cases he : e.1 = k
    · have hj : e.1 ≠ j := by omega
      simp only [Tab.update, List.map_cons, he, beq_self_nat, Tab.find, if_true] at ih ⊢
      simp only [beq_ne_nat (show k ≠ j from fun hc => h hc.symm)]
      simpa using ih
    · simp only [Tab.update, List.map_cons, beq_ne_nat he, Tab.find] at ih ⊢
      simp only [Bool.false_eq_true, if_false, ih]

/-! ### Reading after writing -/

@[simp] theorem Tab.read_write_self [DecidableEq α] (d : α) (k : Nat) (v : α) (t : Tab α) :
    Tab.read d k (Tab.write d k v t) = v := by
  unfold Tab.read Tab.write
  split
  · simp_all
  · simp

theorem Tab.read_write_ne [DecidableEq α] {k j : Nat} (d v : α) (t : Tab α) (h : j ≠ k) :
    Tab.read d j (Tab.write d k v t) = Tab.read d j t := by
  unfold Tab.read Tab.write
  split
  · rw [Tab.find_drop_ne t h]
  · rw [Tab.find_set_ne v t h]

/-! ### The canonical form -/

theorem Tab.rising_tail {e : Nat × α} {t : Tab α} (h : Tab.rising (e :: t) = true) : Tab.rising t = true := by
  cases t with
  | nil => rfl
  | cons b t => simp only [Tab.rising, Bool.and_eq_true] at h; exact h.2

theorem Tab.rising_head {e : Nat × α} {t : Tab α} (h : Tab.rising (e :: t) = true) : ∀ b ∈ t, e.1 < b.1 := by
  induction t generalizing e with
  | nil => intro b hb; cases hb
  | cons c t ih =>
    simp only [Tab.rising, Bool.and_eq_true, decide_eq_true_eq] at h
    intro b hb
    rcases List.mem_cons.1 hb with rfl | hb
    · exact h.1
    · exact Nat.lt_trans h.1 (ih h.2 b hb)

theorem Tab.rising_cons {e : Nat × α} {t : Tab α} (ht : Tab.rising t = true) (h : ∀ b ∈ t, e.1 < b.1) :
    Tab.rising (e :: t) = true := by
  cases t with
  | nil => rfl
  | cons b t => simp only [Tab.rising, Bool.and_eq_true, decide_eq_true_eq]; exact ⟨h b (by simp), ht⟩

theorem Tab.rising_filter (p : Nat × α → Bool) {t : Tab α} (h : Tab.rising t = true) : Tab.rising (t.filter p) = true := by
  induction t with
  | nil => rfl
  | cons e t ih =>
    have ht := ih (Tab.rising_tail h)
    by_cases hp : p e
    · rw [List.filter_cons_of_pos hp]
      exact Tab.rising_cons ht (fun b hb => Tab.rising_head h b ((List.mem_filter.1 hb).1))
    · rwa [List.filter_cons_of_neg hp]

theorem Tab.mem_place {k : Nat} {v : α} {t : Tab α} {b : Nat × α} (h : b ∈ Tab.place k v t) : b = (k, v) ∨ b ∈ t := by
  induction t with
  | nil => simpa [Tab.place] using h
  | cons e t ih =>
    unfold Tab.place at h
    split at h
    · simpa using h
    · rcases List.mem_cons.1 h with rfl | h
      · simp
      · rcases ih h with h | h <;> simp [h]

theorem Tab.rising_place {k : Nat} {v : α} {t : Tab α} (h : Tab.rising t = true) (hk : ∀ b ∈ t, b.1 ≠ k) :
    Tab.rising (Tab.place k v t) = true := by
  induction t with
  | nil => rfl
  | cons e t ih =>
    unfold Tab.place
    split
    · rename_i hlt
      apply Tab.rising_cons h
      intro b hb
      rcases List.mem_cons.1 hb with rfl | hb
      · exact hlt
      · exact Nat.lt_trans hlt (Tab.rising_head h b hb)
    · rename_i hlt
      have he : e.1 ≠ k := hk e (by simp)
      apply Tab.rising_cons (ih (Tab.rising_tail h) (fun b hb => hk b (by simp [hb])))
      intro b hb
      rcases Tab.mem_place hb with rfl | hb
      · simp only; omega
      · exact Tab.rising_head h b hb

theorem Tab.drop_ne {k : Nat} {t : Tab α} {b : Nat × α} (h : b ∈ Tab.drop k t) : b.1 ≠ k := by
  have h2 := (List.mem_filter.1 h).2
  intro hb
  rw [hb, beq_self_nat] at h2
  exact absurd h2 (by decide)

theorem Tab.rising_drop (k : Nat) {t : Tab α} (h : Tab.rising t = true) : Tab.rising (Tab.drop k t) = true :=
  Tab.rising_filter _ h

theorem Tab.rising_set (k : Nat) (v : α) {t : Tab α} (h : Tab.rising t = true) : Tab.rising (Tab.set k v t) = true :=
  Tab.rising_place (Tab.rising_drop k h) (fun _ hb => Tab.drop_ne hb)

theorem Tab.rising_write [DecidableEq α] (d : α) (k : Nat) (v : α) {t : Tab α} (h : Tab.rising t = true) :
    Tab.rising (Tab.write d k v t) = true := by
  unfold Tab.write
  split
  · exact Tab.rising_drop k h
  · exact Tab.rising_set k v h

theorem Tab.wf_drop [DecidableEq α] (d : α) (k : Nat) {t : Tab α} (h : Tab.wf d t = true) : Tab.wf d (Tab.drop k t) = true := by
  simp only [Tab.wf, Bool.and_eq_true, List.all_eq_true] at h ⊢
  exact ⟨Tab.rising_drop k h.1, fun b hb => h.2 b ((List.mem_filter.1 hb).1)⟩

theorem Tab.wf_write [DecidableEq α] (d : α) (k : Nat) (v : α) {t : Tab α} (h : Tab.wf d t = true) :
    Tab.wf d (Tab.write d k v t) = true := by
  unfold Tab.write
  split
  · exact Tab.wf_drop d k h
  · rename_i hv
    simp only [Tab.wf, Bool.and_eq_true, List.all_eq_true] at h ⊢
    refine ⟨Tab.rising_set k v h.1, fun b hb => ?_⟩
    rcases Tab.mem_place hb with rfl | hb
    · simpa using hv
    · exact h.2 b ((List.mem_filter.1 hb).1)

/-! ### Memory -/

@[simp] theorem Memory.get_put_self (a : Nat) (b : Byte) (m : Memory) : (m.put a b).get a = b := Tab.read_write_self _ _ _ _

theorem Memory.get_put_ne {a c : Nat} (b : Byte) (m : Memory) (h : c ≠ a) : (m.put a b).get c = m.get c :=
  Tab.read_write_ne _ _ _ h

theorem Memory.wf_put (a : Nat) (b : Byte) {m : Memory} (h : m.wf = true) : (m.put a b).wf = true := Tab.wf_write _ _ _ h

theorem Memory.wf_putBytes (bs : List Byte) (a : Nat) {m : Memory} (h : m.wf = true) : (m.putBytes a bs).wf = true := by
  induction bs generalizing a m with
  | nil => exact h
  | cons b bs ih => exact ih (a + 1) (Memory.wf_put a b h)

/-- Bytes outside those written read as before. -/
theorem Memory.get_putBytes_out (bs : List Byte) (a c : Nat) (m : Memory) (h : c < a ∨ a + bs.length ≤ c) :
    (m.putBytes a bs).get c = m.get c := by
  induction bs generalizing a m with
  | nil => rfl
  | cons b bs ih =>
    simp only [List.length_cons] at h
    rw [Memory.putBytes, ih (a + 1) _ (by omega), Memory.get_put_ne b m (by omega)]

/-- A byte that was written reads as written. -/
theorem Memory.get_putBytes_in (bs : List Byte) (a i : Nat) (m : Memory) (h : i < bs.length) :
    (m.putBytes a bs).get (a + i) = bs[i] := by
  induction bs generalizing a i m with
  | nil => cases h
  | cons b bs ih =>
    cases i with
    | zero => rw [Memory.putBytes, Nat.add_zero, Memory.get_putBytes_out bs _ _ _ (by omega), Memory.get_put_self]; rfl
    | succ i =>
      have := ih (a + 1) i (Memory.put a b m) (by simpa using h)
      rw [Memory.putBytes, show a + (i + 1) = a + 1 + i by omega, this]
      rfl

/-- Bytes that were written read as written. -/
theorem Memory.bytes_putBytes (bs : List Byte) (a : Nat) (m : Memory) : (m.putBytes a bs).bytes a bs.length = bs := by
  apply List.ext_getElem (by simp [Memory.bytes])
  intro i h1 h2
  simpa [Memory.bytes] using Memory.get_putBytes_in bs a i m h2

end Sys2Proof.Machine
end

