-- ==== Sys2Proof/Laws/Canonical.lean ====
section
/-! SUPPORT. What no function of the model breaks: the canonical form of the package's memory and of the memory behind
its ports, and the pod position, which installation sets (R350). One lemma per function that answers a state, in the
order of the calls; a lemma named after a meaning speaks of the state that the meaning answers. -/

set_option linter.unusedVariables false
set_option linter.unusedSimpArgs false

namespace Sys2Proof.Machine

/-- The memories are in their canonical form and the package is at pod position p0. -/
def MemOk (p0 : Nat) (s : State) : Prop := s.dram.wf = true ∧ s.sysMem.wf = true ∧ s.podPos = p0
variable {p0 : Nat}

theorem memOk_foldl {β : Type} (l : List β) (f : State → β → State) (hf : ∀ t b, MemOk p0 t → MemOk p0 (f t b)) {s : State}
    (h : MemOk p0 s) : MemOk p0 (l.foldl f s) := by
  induction l generalizing s with
  | nil => exact h
  | cons b l ih => exact ih (hf s b h)
theorem memOk_foldl2 {α β : Type} (l : List β) (f : α × State → β → α × State)
    (hf : ∀ x t b, MemOk p0 t → MemOk p0 (f (x, t) b).2) {x : α} {s : State} (h : MemOk p0 s) : MemOk p0 (l.foldl f (x, s)).2 := by
  induction l generalizing x s with
  | nil => exact h
  | cons b l ih => exact ih (x := (f (x, s) b).1) (hf x s b h)
theorem memOk_id {s : State} (h : MemOk p0 s) : MemOk p0 (id s) := h
theorem memOk_getD {o : Option State} {d : State} (h : ∀ t, o = some t → MemOk p0 t) (h0 : MemOk p0 d) : MemOk p0 (o.getD d) := by
  cases o with
  | none => exact h0
  | some t => exact h t rfl
theorem memOk_elim {α : Type} {o : Option α} {d : State} {f : α → State} (h : ∀ a, MemOk p0 (f a)) (h0 : MemOk p0 d) :
    MemOk p0 (o.elim d f) := by
  cases o with
  | none => exact h0
  | some a => exact h a
theorem putSegs_wf (gs : List Seg) {m : Memory} (h : m.wf = true) : (putSegs gs m).wf = true := by
  unfold putSegs
  induction gs generalizing m with
  | nil => exact h
  | cons g gs ih => exact ih (Memory.wf_putBytes g.bytes g.at_ h)
theorem memOk_mk {x0 x1 x2 x3 x4 x5 x6 x7 x8 x9 x10 x11 x12 dram x14 sysMem x16 x17 x18 x19 x20 x21 x22 x23 x24 x25 x26 x27 x28 x29 x30 x31 x32 x33 x34 x35 x36 x37 x38 x39 x40 x41 x42 x43 x44 x45 x46 x47 x48 x49 x50 x51 x52 x53 x54 x55 x56 x57 x58 x59 x60 x61 x62 x63 x64 x65 x66 x67 x68 x69 x70 x71 x72 x73 x74 x75 x76 x77 x78 x79 x80 x81 x82 x83 x84 x85 x86 x87 x88} :
    MemOk p0 (State.mk x0 x1 x2 x3 x4 x5 x6 x7 x8 x9 x10 x11 x12 dram x14 sysMem x16 x17 x18 x19 x20 x21 x22 x23 x24 x25 x26 x27 x28 x29 x30 x31 x32 x33 x34 x35 x36 x37 x38 x39 x40 x41 x42 x43 x44 x45 x46 x47 x48 x49 x50 x51 x52 x53 x54 x55 x56 x57 x58 x59 x60 x61 x62 x63 x64 x65 x66 x67 x68 x69 x70 x71 x72 x73 x74 x75 x76 x77 x78 x79 x80 x81 x82 x83 x84 x85 x86 x87 x88) = (dram.wf = true ∧ sysMem.wf = true ∧ x44 = p0) := rfl
theorem memOk_fold {s : State} (h : MemOk p0 s) : s.dram.wf = true ∧ s.sysMem.wf = true ∧ s.podPos = p0 := h
theorem State.freeBytes_memOk (n : Nat) {s : State} (h1 : MemOk p0 s) :
    MemOk p0 (State.freeBytes n s).2 := by
  unfold State.freeBytes
  with_reducible repeat' first
    | assumption
    | intro _
    | split
    | simp only [memOk_mk]
    | apply memOk_fold
theorem State.freeBytes_memOk_eq {n : Nat} {s : State} {o_ t_} (e : (State.freeBytes n s) = (o_, t_)) (h1 : MemOk p0 s) :
    MemOk p0 t_ := by
  have := State.freeBytes_memOk n h1
  rwa [e] at this
theorem State.frontPiece_memOk (x0 : Piece) {s : State} (h1 : MemOk p0 s) :
    MemOk p0 (State.frontPiece x0 s).2 := by
  unfold State.frontPiece
  with_reducible repeat' first
    | assumption
    | intro _
    | split
    | simp only [memOk_mk]
    | apply memOk_fold
theorem State.frontPiece_memOk_eq {x0 : Piece} {s : State} {o_ t_} (e : (State.frontPiece x0 s) = (o_, t_)) (h1 : MemOk p0 s) :
    MemOk p0 t_ := by
  have := State.frontPiece_memOk x0 h1
  rwa [e] at this
theorem State.frontRead_memOk (p : Nat) (va : Nat) (n : Nat) (need : Need) {s : State} (h4 : MemOk p0 s) :
    MemOk p0 (State.frontRead p va n need s).2 := by
  unfold State.frontRead
  with_reducible repeat' first
    | assumption
    | intro _
    | apply State.frontPiece_memOk
    | (refine State.frontPiece_memOk_eq (by assumption) ?_)
    | apply memOk_foldl
    | apply memOk_foldl2
    | split
    | simp only [memOk_mk]
    | apply memOk_fold
theorem State.frontRead_memOk_eq {p : Nat} {va : Nat} {n : Nat} {need : Need} {s : State} {o_ t_} (e : (State.frontRead p va n need s) = (o_, t_)) (h4 : MemOk p0 s) :
    MemOk p0 t_ := by
  have := State.frontRead_memOk p va n need h4
  rwa [e] at this
theorem State.readTable_memOk (p : Nat) (va : Nat) (codeSize : Nat) {s : State} (h3 : MemOk p0 s) :
    MemOk p0 (State.readTable p va codeSize s).2 := by
  unfold State.readTable
  with_reducible repeat' first
    | assumption
    | intro _
    | apply State.frontRead_memOk
    | (refine State.frontRead_memOk_eq (by assumption) ?_)
    | split
    | simp only [memOk_mk]
    | apply memOk_fold
theorem State.readTable_memOk_eq {p : Nat} {va : Nat} {codeSize : Nat} {s : State} {o_ t_} (e : (State.readTable p va codeSize s) = (o_, t_)) (h3 : MemOk p0 s) :
    MemOk p0 t_ := by
  have := State.readTable_memOk p va codeSize h3
  rwa [e] at this
theorem State.readTables_memOk (p : Nat) (khdr : Nat) (codeSize : Nat) (x3 : List Nat) {x4 : State} (h4 : MemOk p0 x4) :
    MemOk p0 (State.readTables p khdr codeSize x3 x4).2 := by
  induction x3 generalizing x4 with
  | nil =>
    unfold State.readTables
    with_reducible repeat' first
      | assumption
      | intro _
      | apply State.readTable_memOk
      | (refine State.readTable_memOk_eq (by assumption) ?_)
      | split
      | simp only [memOk_mk]
      | apply memOk_fold
  | cons b_ l_ ih =>
    have ih2 : ∀ {s_ t_ o_}, State.readTables p khdr codeSize l_ s_ = (o_, t_) → MemOk p0 s_ → MemOk p0 t_ := by
      intro s_ t_ o_ e h
      have := ih h
      rwa [e] at this
    unfold State.readTables
    with_reducible repeat' first
      | assumption
      | intro _
      | apply ih
      | (refine ih2 (by assumption) ?_)
      | apply State.readTable_memOk
      | (refine State.readTable_memOk_eq (by assumption) ?_)
      | split
      | simp only [memOk_mk]
      | apply memOk_fold
theorem State.readTables_memOk_eq {p : Nat} {khdr : Nat} {codeSize : Nat} {x3 : List Nat} {x4 : State} {o_ t_} (e : (State.readTables p khdr codeSize x3 x4) = (o_, t_)) (h4 : MemOk p0 x4) :
    MemOk p0 t_ := by
  have := State.readTables_memOk p khdr codeSize x3 h4
  rwa [e] at this
theorem State.loadKernel_memOk (p : Nat) (khdr : Nat) {s : State} (h2 : MemOk p0 s) :
    MemOk p0 (State.loadKernel p khdr s).2 := by
  unfold State.loadKernel
  with_reducible repeat' first
    | assumption
    | intro _
    | apply State.frontRead_memOk
    | (refine State.frontRead_memOk_eq (by assumption) ?_)
    | apply State.readTables_memOk
    | (refine State.readTables_memOk_eq (by assumption) ?_)
    | split
    | simp only [memOk_mk]
    | apply memOk_fold
theorem State.loadKernel_memOk_eq {p : Nat} {khdr : Nat} {s : State} {o_ t_} (e : (State.loadKernel p khdr s) = (o_, t_)) (h2 : MemOk p0 s) :
    MemOk p0 t_ := by
  have := State.loadKernel_memOk p khdr h2
  rwa [e] at this
theorem State.judgeLaunch_memOk (r : LaunchReq) {s : State} (h1 : MemOk p0 s) :
    MemOk p0 (State.judgeLaunch r s).2 := by
  unfold State.judgeLaunch
  with_reducible repeat' first
    | assumption
    | intro _
    | apply State.loadKernel_memOk
    | (refine State.loadKernel_memOk_eq (by assumption) ?_)
    | split
    | simp only [memOk_mk]
    | apply memOk_fold
theorem State.judgeLaunch_memOk_eq {r : LaunchReq} {s : State} {o_ t_} (e : (State.judgeLaunch r s) = (o_, t_)) (h1 : MemOk p0 s) :
    MemOk p0 t_ := by
  have := State.judgeLaunch_memOk r h1
  rwa [e] at this
theorem State.post_memOk (ev : Sys2Proof.Instr) {s : State} (h1 : MemOk p0 s) :
    MemOk p0 (State.post ev s) := by
  unfold State.post
  with_reducible repeat' first
    | assumption
    | intro _
    | split
    | simp only [memOk_mk]
    | apply memOk_fold
theorem State.enqueue_memOk (n : PoolNode) {s : State} (h1 : MemOk p0 s) :
    MemOk p0 (State.enqueue n s) := by
  unfold State.enqueue
  with_reducible repeat' first
    | assumption
    | intro _
    | apply State.post_memOk
    | split
    | simp only [memOk_mk]
    | apply memOk_fold
theorem State.free_memOk {s : State} (h0 : MemOk p0 s) :
    MemOk p0 (State.free s).2 := by
  unfold State.free
  with_reducible repeat' first
    | assumption
    | intro _
    | split
    | simp only [memOk_mk]
    | apply memOk_fold
theorem State.free_memOk_eq {s : State} {o_ t_} (e : (State.free s) = (o_, t_)) (h0 : MemOk p0 s) :
    MemOk p0 t_ := by
  have := State.free_memOk  h0
  rwa [e] at this
theorem State.giveSlot_memOk (n : Nat) {s : State} (h1 : MemOk p0 s) :
    MemOk p0 (State.giveSlot n s) := by
  unfold State.giveSlot
  with_reducible repeat' first
    | assumption
    | intro _
    | apply State.free_memOk
    | (refine State.free_memOk_eq (by assumption) ?_)
    | split
    | simp only [memOk_mk]
    | apply memOk_fold
theorem State.addLaunch_memOk (r : LaunchReq) (k : Loaded) (ctx : Nat) {s : State} (h3 : MemOk p0 s) :
    MemOk p0 (State.addLaunch r k ctx s).2 := by
  unfold State.addLaunch
  with_reducible repeat' first
    | assumption
    | intro _
    | apply State.enqueue_memOk
    | apply State.giveSlot_memOk
    | split
    | simp only [memOk_mk]
    | apply memOk_fold
theorem State.addLaunch_memOk_eq {r : LaunchReq} {k : Loaded} {ctx : Nat} {s : State} {o_ t_} (e : (State.addLaunch r k ctx s) = (o_, t_)) (h3 : MemOk p0 s) :
    MemOk p0 t_ := by
  have := State.addLaunch_memOk r k ctx h3
  rwa [e] at this
theorem State.modGraph_memOk (h : Nat) (f : Graph → Graph) {s : State} (h2 : MemOk p0 s) :
    MemOk p0 (State.modGraph h f s) := by
  unfold State.modGraph
  with_reducible repeat' first
    | assumption
    | intro _
    | split
    | simp only [memOk_mk]
    | apply memOk_fold
theorem State.modRun_memOk (h : Nat) (f : Run → Run) {s : State} (h2 : MemOk p0 s) :
    MemOk p0 (State.modRun h f s) := by
  unfold State.modRun
  with_reducible repeat' first
    | assumption
    | intro _
    | apply State.modGraph_memOk
    | split
    | simp only [memOk_mk]
    | apply memOk_fold
theorem State.failNode_memOk (h : Nat) (n : Nat) {s : State} (h2 : MemOk p0 s) :
    MemOk p0 (State.failNode h n s) := by
  unfold State.failNode
  with_reducible repeat' first
    | assumption
    | intro _
    | apply State.post_memOk
    | apply State.modRun_memOk
    | split
    | simp only [memOk_mk]
    | apply memOk_fold
theorem State.enterLaunch_memOk (h : Nat) (n : Nat) (cls : Nat) (q : LaunchReq) {s : State} (h4 : MemOk p0 s) :
    MemOk p0 (State.enterLaunch h n cls q s) := by
  unfold State.enterLaunch
  with_reducible repeat' first
    | assumption
    | intro _
    | apply State.judgeLaunch_memOk
    | (refine State.judgeLaunch_memOk_eq (by assumption) ?_)
    | apply State.failNode_memOk
    | apply State.addLaunch_memOk
    | (refine State.addLaunch_memOk_eq (by assumption) ?_)
    | apply memOk_foldl
    | apply memOk_foldl2
    | split
    | simp only [memOk_mk]
    | apply memOk_fold
theorem State.modCore_memOk (n : Nat) (f : Core → Core) {s : State} (h2 : MemOk p0 s) :
    MemOk p0 (State.modCore n f s) := by
  unfold State.modCore
  with_reducible repeat' first
    | assumption
    | intro _
    | split
    | simp only [memOk_mk]
    | apply memOk_fold
theorem State.fireIn_memOk (cs : List (Nat × Ctx)) (test : Watch → Bool) {s : State} (h2 : MemOk p0 s) :
    MemOk p0 (State.fireIn cs test s) := by
  unfold State.fireIn
  with_reducible repeat' first
    | assumption
    | intro _
    | split
    | simp only [memOk_mk]
    | apply memOk_fold
theorem State.fireLines_memOk (lines : List Nat) {s : State} (h1 : MemOk p0 s) :
    MemOk p0 (State.fireLines lines s) := by
  unfold State.fireLines
  with_reducible repeat' first
    | assumption
    | intro _
    | apply State.fireIn_memOk
    | split
    | simp only [memOk_mk]
    | apply memOk_fold
theorem State.modCtx_memOk (c : Nat) (f : Ctx → Ctx) {s : State} (h2 : MemOk p0 s) :
    MemOk p0 (State.modCtx c f s) := by
  unfold State.modCtx
  with_reducible repeat' first
    | assumption
    | intro _
    | split
    | simp only [memOk_mk]
    | apply memOk_fold
theorem State.setTag_memOk {s : State} (v : Tag) (a : UnitName) (h0 : MemOk p0 s) :
    MemOk p0 (State.setTag s v a) := by
  unfold State.setTag
  with_reducible repeat' first
    | assumption
    | intro _
    | apply State.modCore_memOk
    | apply State.modCtx_memOk
    | split
    | simp only [memOk_mk]
    | apply memOk_fold
theorem State.modDieCol_memOk (dom : Nat) (die : Nat) (col : Bool) (f : DieColour → DieColour) {s : State} (h4 : MemOk p0 s) :
    MemOk p0 (State.modDieCol dom die col f s) := by
  unfold State.modDieCol
  with_reducible repeat' first
    | assumption
    | intro _
    | split
    | simp only [memOk_mk]
    | apply memOk_fold
theorem State.stageUnit_memOk (dom : Nat) (die : Nat) (col : Bool) (u : UnitName) {s : State} (h4 : MemOk p0 s) :
    MemOk p0 (State.stageUnit dom die col u s) := by
  unfold State.stageUnit
  with_reducible repeat' first
    | assumption
    | intro _
    | apply State.modDieCol_memOk
    | split
    | simp only [memOk_mk]
    | apply memOk_fold
theorem State.saveFor_memOk (dom : Nat) (die : Nat) (part : Nat) (u : UnitName) {s : State} (col : Bool) (h4 : MemOk p0 s) :
    MemOk p0 (State.saveFor dom die part u s col) := by
  unfold State.saveFor
  with_reducible repeat' first
    | assumption
    | intro _
    | apply State.stageUnit_memOk
    | apply State.setTag_memOk
    | split
    | simp only [memOk_mk]
    | apply memOk_fold
theorem State.beforeWrite_memOk (u : UnitName) {s : State} (h1 : MemOk p0 s) :
    MemOk p0 (State.beforeWrite u s) := by
  unfold State.beforeWrite
  with_reducible repeat' first
    | assumption
    | intro _
    | apply State.saveFor_memOk
    | apply State.setTag_memOk
    | apply memOk_foldl
    | apply memOk_foldl2
    | split
    | simp only [memOk_mk]
    | apply memOk_fold
theorem State.beforeWrites_memOk (us : List UnitName) {s : State} (h1 : MemOk p0 s) :
    MemOk p0 (State.beforeWrites us s) := by
  unfold State.beforeWrites
  with_reducible repeat' first
    | assumption
    | intro _
    | apply State.beforeWrite_memOk
    | apply memOk_foldl
    | apply memOk_foldl2
    | split
    | simp only [memOk_mk]
    | apply memOk_fold
theorem State.modRdc_memOk (die : Nat) (f : Tab Sector → Tab Sector) {s : State} (h2 : MemOk p0 s) :
    MemOk p0 (State.modRdc die f s) := by
  unfold State.modRdc
  with_reducible repeat' first
    | assumption
    | intro _
    | split
    | simp only [memOk_mk]
    | apply memOk_fold
theorem State.dropRdc_memOk (die : Nat) (test : Nat → Sector → Bool) {s : State} (h2 : MemOk p0 s) :
    MemOk p0 (State.dropRdc die test s) := by
  unfold State.dropRdc
  with_reducible repeat' first
    | assumption
    | intro _
    | apply State.modRdc_memOk
    | split
    | simp only [memOk_mk]
    | apply memOk_fold
theorem State.dropCoherent_memOk (sectors : List Nat) {s : State} (h1 : MemOk p0 s) :
    MemOk p0 (State.dropCoherent sectors s) := by
  unfold State.dropCoherent
  with_reducible repeat' first
    | assumption
    | intro _
    | apply State.dropRdc_memOk
    | apply memOk_foldl
    | apply memOk_foldl2
    | split
    | simp only [memOk_mk]
    | apply memOk_fold
theorem State.writeDram_memOk (gs : List Seg) (poison : List Nat) {s : State} (h2 : MemOk p0 s) :
    MemOk p0 (State.writeDram gs poison s) := by
  unfold State.writeDram
  have hb := State.beforeWrites_memOk ((segUnits 4096 gs).map UnitName.granule) h2
  repeat' first
    | with_reducible apply State.fireLines_memOk
    | with_reducible apply State.dropCoherent_memOk
    | (simp only [memOk_mk]; exact ⟨putSegs_wf gs hb.1, hb.2⟩)
theorem State.writeSys_memOk (gs : List Seg) (poison : List Nat) {s : State} (h2 : MemOk p0 s) :
    MemOk p0 (State.writeSys gs poison s) := by
  unfold State.writeSys
  simp only [memOk_mk]
  exact ⟨h2.1, putSegs_wf gs h2.2.1, h2.2.2⟩
theorem State.modPort_memOk (p : Nat) (f : Port → Port) {s : State} (h2 : MemOk p0 s) :
    MemOk p0 (State.modPort p f s) := by
  unfold State.modPort
  with_reducible repeat' first
    | assumption
    | intro _
    | split
    | simp only [memOk_mk]
    | apply memOk_fold
theorem State.queueFlit_memOk (p : Nat) (f : Sys2Proof.Flit) {s : State} (h2 : MemOk p0 s) :
    MemOk p0 (State.queueFlit p f s) := by
  unfold State.queueFlit
  with_reducible repeat' first
    | assumption
    | intro _
    | apply State.post_memOk
    | apply State.modPort_memOk
    | split
    | simp only [memOk_mk]
    | apply memOk_fold
theorem State.modVf_memOk (v : Nat) (f : Vf → Vf) {s : State} (h2 : MemOk p0 s) :
    MemOk p0 (State.modVf v f s) := by
  unfold State.modVf
  with_reducible repeat' first
    | assumption
    | intro _
    | split
    | simp only [memOk_mk]
    | apply memOk_fold
theorem State.request_memOk (r : Route) (use : TagUse) (tk : Nat) (vc : Nat) (payload : List Sys2Proof.Byte) {s : State} (h5 : MemOk p0 s) :
    MemOk p0 (State.request r use tk vc payload s).2 := by
  unfold State.request
  with_reducible repeat' first
    | assumption
    | intro _
    | apply State.modVf_memOk
    | apply State.queueFlit_memOk
    | split
    | simp only [memOk_mk]
    | apply memOk_fold
theorem State.request_memOk_eq {r : Route} {use : TagUse} {tk : Nat} {vc : Nat} {payload : List Sys2Proof.Byte} {s : State} {o_ t_} (e : (State.request r use tk vc payload s) = (o_, t_)) (h5 : MemOk p0 s) :
    MemOk p0 t_ := by
  have := State.request_memOk r use tk vc payload h5
  rwa [e] at this
theorem State.requestOrWait_memOk (r : Route) (m : Unsent) {s : State} (h2 : MemOk p0 s) :
    MemOk p0 (State.requestOrWait r m s) := by
  unfold State.requestOrWait
  with_reducible repeat' first
    | assumption
    | intro _
    | apply State.request_memOk
    | (refine State.request_memOk_eq (by assumption) ?_)
    | split
    | simp only [memOk_mk]
    | apply memOk_fold
theorem State.frontSend_memOk (p : Nat) {s : State} (g : Seg) (h1 : MemOk p0 s) :
    MemOk p0 (State.frontSend p s g) := by
  unfold State.frontSend
  with_reducible repeat' first
    | assumption
    | intro _
    | apply State.requestOrWait_memOk
    | split
    | simp only [memOk_mk]
    | apply memOk_fold
theorem State.writeVa_memOk {p va : Nat} {bs : List Byte} {s t_ : State} (e : State.writeVa p va bs s = some t_)
    (h : MemOk p0 s) : MemOk p0 t_ := by
  unfold State.writeVa at e
  split at e
  · cases e
  · injection e with e
    subst e
    exact memOk_foldl _ _ (fun t b ht => State.frontSend_memOk _ _ ht) (State.writeSys_memOk _ _ (State.writeDram_memOk _ _ h))
theorem State.setPage_memOk (v : Nat) (off : Nat) (n : Nat) (value : Nat) {s : State} (h4 : MemOk p0 s) :
    MemOk p0 (State.setPage v off n value s) := by
  unfold State.setPage
  with_reducible repeat' first
    | assumption
    | intro _
    | apply State.modVf_memOk
    | split
    | simp only [memOk_mk]
    | apply memOk_fold
theorem State.modPart_memOk (p : Nat) (f : Part → Part) {s : State} (h2 : MemOk p0 s) :
    MemOk p0 (State.modPart p f s) := by
  unfold State.modPart
  with_reducible repeat' first
    | assumption
    | intro _
    | split
    | simp only [memOk_mk]
    | apply memOk_fold
theorem State.showPage_memOk {s : State} (v : Nat) (h0 : MemOk p0 s) :
    MemOk p0 (State.showPage s v) := by
  unfold State.showPage
  with_reducible repeat' first
    | assumption
    | intro _
    | apply State.setPage_memOk
    | apply State.modVf_memOk
    | apply memOk_foldl
    | apply memOk_foldl2
    | split
    | simp only [memOk_mk]
    | apply memOk_fold
theorem State.showPages_memOk (p : Nat) {s : State} (h1 : MemOk p0 s) :
    MemOk p0 (State.showPages p s) := by
  unfold State.showPages
  with_reducible repeat' first
    | assumption
    | intro _
    | apply State.showPage_memOk
    | apply memOk_foldl
    | apply memOk_foldl2
    | split
    | simp only [memOk_mk]
    | apply memOk_fold
theorem State.tryNotice_memOk {p kind : Nat} {body : List Byte} {s t_ : State}
    (e : State.tryNotice p kind body s = some t_) (h : MemOk p0 s) : MemOk p0 t_ := by
  unfold State.tryNotice at e
  split at e
  · simp only [] at e
    split at e
    · split at e
      · rename_i e2
        injection e with e
        subst e
        exact State.showPages_memOk _ (State.modPart_memOk _ _ (State.modVf_memOk _ _ (State.writeVa_memOk e2 h)))
      · cases e
    · cases e
  · cases e
theorem State.notice_memOk (p : Nat) (kind : Nat) (body : List Sys2Proof.Byte) {s : State} (h3 : MemOk p0 s) :
    MemOk p0 (State.notice p kind body s) := by
  unfold State.notice
  with_reducible repeat' first
    | assumption
    | intro _
    | (refine State.tryNotice_memOk (by assumption) ?_)
    | apply State.setPage_memOk
    | split
    | simp only [memOk_mk]
    | apply memOk_fold
theorem State.retireNotices_memOk (ps : List Nat) (cls : Nat) (unit : Nat) (die : Nat) {s : State} (h4 : MemOk p0 s) :
    MemOk p0 (State.retireNotices ps cls unit die s) := by
  unfold State.retireNotices
  with_reducible repeat' first
    | assumption
    | intro _
    | apply State.modPart_memOk
    | apply State.notice_memOk
    | apply memOk_foldl
    | apply memOk_foldl2
    | split
    | simp only [memOk_mk]
    | apply memOk_fold
theorem State.retireCore_memOk (core : Nat) {s : State} (h1 : MemOk p0 s) :
    MemOk p0 (State.retireCore core s) := by
  unfold State.retireCore
  with_reducible repeat' first
    | assumption
    | intro _
    | apply State.modCore_memOk
    | apply State.retireNotices_memOk
    | split
    | simp only [memOk_mk]
    | apply memOk_fold
theorem State.retireLane_memOk (core : Nat) (unit : Nat) (phys : Nat) {s : State} (h3 : MemOk p0 s) :
    MemOk p0 (State.retireLane core unit phys s) := by
  unfold State.retireLane
  with_reducible repeat' first
    | assumption
    | intro _
    | apply State.retireCore_memOk
    | apply State.retireNotices_memOk
    | apply State.modCore_memOk
    | split
    | simp only [memOk_mk]
    | apply memOk_fold
theorem State.countEvents_memOk (cls : Nat) (unit : Nat) (die : Nat) (n : Nat) {s : State} (h4 : MemOk p0 s) :
    MemOk p0 (State.countEvents cls unit die n s).2 := by
  unfold State.countEvents
  with_reducible repeat' first
    | assumption
    | intro _
    | split
    | simp only [memOk_mk]
    | apply memOk_fold
theorem State.countEvents_memOk_eq {cls : Nat} {unit : Nat} {die : Nat} {n : Nat} {s : State} {o_ t_} (e : (State.countEvents cls unit die n s) = (o_, t_)) (h4 : MemOk p0 s) :
    MemOk p0 t_ := by
  have := State.countEvents_memOk cls unit die n h4
  rwa [e] at this
theorem State.sourceEvents_memOk (cls : Nat) (unit : Nat) (die : Nat) (n : Nat) (ps : List Nat) (corrected : Bool) {s : State} (h6 : MemOk p0 s) :
    MemOk p0 (State.sourceEvents cls unit die n ps corrected s).2 := by
  unfold State.sourceEvents
  with_reducible repeat' first
    | assumption
    | intro _
    | apply State.countEvents_memOk
    | (refine State.countEvents_memOk_eq (by assumption) ?_)
    | apply State.modPart_memOk
    | apply memOk_foldl
    | apply memOk_foldl2
    | split
    | simp only [memOk_mk]
    | apply memOk_fold
theorem State.sourceEvents_memOk_eq {cls : Nat} {unit : Nat} {die : Nat} {n : Nat} {ps : List Nat} {corrected : Bool} {s : State} {o_ t_} (e : (State.sourceEvents cls unit die n ps corrected s) = (o_, t_)) (h6 : MemOk p0 s) :
    MemOk p0 t_ := by
  have := State.sourceEvents_memOk cls unit die n ps corrected h6
  rwa [e] at this
theorem State.laneEvent_memOk (core : Nat) (unit : Nat) (phys : Nat) {s : State} (h3 : MemOk p0 s) :
    MemOk p0 (State.laneEvent core unit phys s).2 := by
  unfold State.laneEvent
  with_reducible repeat' first
    | assumption
    | intro _
    | apply State.sourceEvents_memOk
    | (refine State.sourceEvents_memOk_eq (by assumption) ?_)
    | apply State.retireLane_memOk
    | split
    | simp only [memOk_mk]
    | apply memOk_fold
theorem State.laneEvent_memOk_eq {core : Nat} {unit : Nat} {phys : Nat} {s : State} {o_ t_} (e : (State.laneEvent core unit phys s) = (o_, t_)) (h3 : MemOk p0 s) :
    MemOk p0 t_ := by
  have := State.laneEvent_memOk core unit phys h3
  rwa [e] at this
theorem State.strike_memOk (sh : Shadow) (outs : List LaneOut) (x2 : List Upset) {x3 : State} (h3 : MemOk p0 x3) :
    MemOk p0 (State.strike sh outs x2 x3).2 := by
  induction x2 generalizing x3 with
  | nil =>
    unfold State.strike
    with_reducible repeat' first
      | assumption
      | intro _
      | apply State.laneEvent_memOk
      | (refine State.laneEvent_memOk_eq (by assumption) ?_)
      | split
      | simp only [memOk_mk]
      | apply memOk_fold
  | cons b_ l_ ih =>
    have ih2 : ∀ {s_ t_ o_}, State.strike sh outs l_ s_ = (o_, t_) → MemOk p0 s_ → MemOk p0 t_ := by
      intro s_ t_ o_ e h
      have := ih h
      rwa [e] at this
    unfold State.strike
    with_reducible repeat' first
      | assumption
      | intro _
      | apply ih
      | (refine ih2 (by assumption) ?_)
      | apply State.laneEvent_memOk
      | (refine State.laneEvent_memOk_eq (by assumption) ?_)
      | split
      | simp only [memOk_mk]
      | apply memOk_fold
theorem State.strike_memOk_eq {sh : Shadow} {outs : List LaneOut} {x2 : List Upset} {x3 : State} {o_ t_} (e : (State.strike sh outs x2 x3) = (o_, t_)) (h3 : MemOk p0 x3) :
    MemOk p0 t_ := by
  have := State.strike_memOk sh outs x2 h3
  rwa [e] at this
theorem State.stopCtx_memOk (c : Nat) (r : FaultRec) {s : State} (h2 : MemOk p0 s) :
    MemOk p0 (State.stopCtx c r s) := by
  unfold State.stopCtx
  with_reducible repeat' first
    | assumption
    | intro _
    | apply State.modCtx_memOk
    | split
    | simp only [memOk_mk]
    | apply memOk_fold
theorem State.modGang_memOk (c : Nat) (g : Nat) (f : Gang → Gang) {s : State} (h3 : MemOk p0 s) :
    MemOk p0 (State.modGang c g f s) := by
  unfold State.modGang
  with_reducible repeat' first
    | assumption
    | intro _
    | apply State.modCtx_memOk
    | split
    | simp only [memOk_mk]
    | apply memOk_fold
theorem State.modGg_memOk (f : Gang → Gang) {s : State} (h1 : MemOk p0 s) :
    MemOk p0 (State.modGg f s) := by
  unfold State.modGg
  with_reducible repeat' first
    | assumption
    | intro _
    | apply State.modGang_memOk
    | split
    | simp only [memOk_mk]
    | apply memOk_fold
theorem State.raiseAt_memOk (f : FaultInfo) (hdr : Nat) (pc : Nat) (widx : Nat) {s : State} (h4 : MemOk p0 s) :
    MemOk p0 (State.raiseAt f hdr pc widx s) := by
  unfold State.raiseAt
  with_reducible repeat' first
    | assumption
    | intro _
    | apply State.stopCtx_memOk
    | apply State.modGg_memOk
    | split
    | simp only [memOk_mk]
    | apply memOk_fold
theorem State.raise_memOk (f : FaultInfo) {s : State} (h1 : MemOk p0 s) :
    MemOk p0 (State.raise f s) := by
  unfold State.raise
  with_reducible repeat' first
    | assumption
    | intro _
    | apply State.raiseAt_memOk
    | split
    | simp only [memOk_mk]
    | apply memOk_fold
theorem State.struck_memOk (sh : Shadow) (outs : List LaneOut) (act : State → State) {s : State} (h2 : ∀ t, MemOk p0 t → MemOk p0 (act t)) (h3 : MemOk p0 s) :
    MemOk p0 (State.struck sh outs act s) := by
  unfold State.struck
  with_reducible repeat' first
    | assumption
    | intro _
    | apply State.strike_memOk
    | (refine State.strike_memOk_eq (by assumption) ?_)
    | apply State.raise_memOk
    | split
    | simp only [memOk_mk]
    | apply memOk_fold
    | apply h2
theorem State.checked_memOk (f : Option FaultInfo) (act : State → State) {s : State} (h1 : ∀ t, MemOk p0 t → MemOk p0 (act t)) (h2 : MemOk p0 s) :
    MemOk p0 (State.checked f act s) := by
  unfold State.checked
  with_reducible repeat' first
    | assumption
    | intro _
    | apply State.raise_memOk
    | split
    | simp only [memOk_mk]
    | apply memOk_fold
    | apply h1
theorem State.beforeRegs_memOk (c : Nat) (g : Nat) (rs : List Nat) {s : State} (h3 : MemOk p0 s) :
    MemOk p0 (State.beforeRegs c g rs s) := by
  unfold State.beforeRegs
  with_reducible repeat' first
    | assumption
    | intro _
    | apply State.beforeWrites_memOk
    | split
    | simp only [memOk_mk]
    | apply memOk_fold
theorem State.putOuts_memOk (d : Nat) (outs : List LaneOut) {s : State} (h2 : MemOk p0 s) :
    MemOk p0 (State.putOuts d outs s) := by
  unfold State.putOuts
  with_reducible repeat' first
    | assumption
    | intro _
    | apply State.modGg_memOk
    | apply State.beforeRegs_memOk
    | split
    | simp only [memOk_mk]
    | apply memOk_fold
theorem State.countWord_memOk {s : State} (h0 : MemOk p0 s) :
    MemOk p0 (State.countWord s) := by
  unfold State.countWord
  with_reducible repeat' first
    | assumption
    | intro _
    | apply State.modGg_memOk
    | split
    | simp only [memOk_mk]
    | apply memOk_fold
theorem State.noteGatherings_memOk (c : Nat) (g : Nat) (mask : Nat) {s : State} (h3 : MemOk p0 s) :
    MemOk p0 (State.noteGatherings c g mask s) := by
  unfold State.noteGatherings
  with_reducible repeat' first
    | assumption
    | intro _
    | apply State.modCtx_memOk
    | apply memOk_foldl
    | apply memOk_foldl2
    | split
    | simp only [memOk_mk]
    | apply memOk_fold
theorem State.raiseFrame_memOk (c : Nat) (g : Nat) (f : Frame) (info : FaultInfo) {s : State} (h4 : MemOk p0 s) :
    MemOk p0 (State.raiseFrame c g f info s) := by
  unfold State.raiseFrame
  with_reducible repeat' first
    | assumption
    | intro _
    | apply State.stopCtx_memOk
    | apply State.modGang_memOk
    | apply memOk_getD
    | split
    | simp only [memOk_mk]
    | apply memOk_fold
theorem State.settleOnce_memOk (c : Nat) (g : Nat) {s : State} (h2 : MemOk p0 s) :
    MemOk p0 (State.settleOnce c g s) := by
  unfold State.settleOnce
  with_reducible repeat' first
    | assumption
    | intro _
    | apply State.modGang_memOk
    | apply State.raiseFrame_memOk
    | apply memOk_getD
    | split
    | simp only [memOk_mk]
    | apply memOk_fold
theorem State.settleGang_memOk (c : Nat) (g : Nat) {s : State} (h2 : MemOk p0 s) :
    MemOk p0 (State.settleGang c g s) := by
  unfold State.settleGang
  with_reducible repeat' first
    | assumption
    | intro _
    | apply State.modGang_memOk
    | apply State.settleOnce_memOk
    | apply memOk_foldl
    | apply memOk_foldl2
    | apply memOk_getD
    | split
    | simp only [memOk_mk]
    | apply memOk_fold
theorem State.afterMove_memOk {s : State} (h0 : MemOk p0 s) :
    MemOk p0 (State.afterMove s) := by
  unfold State.afterMove
  with_reducible repeat' first
    | assumption
    | intro _
    | apply State.modCtx_memOk
    | apply State.settleGang_memOk
    | split
    | simp only [memOk_mk]
    | apply memOk_fold
theorem State.nextTurn_memOk (turn : Bool) (here : Nat) {s : State} (h2 : MemOk p0 s) :
    MemOk p0 (State.nextTurn turn here s) := by
  unfold State.nextTurn
  with_reducible repeat' first
    | assumption
    | intro _
    | apply State.modGg_memOk
    | split
    | simp only [memOk_mk]
    | apply memOk_fold
theorem State.yieldNow_memOk (ask : YieldAsk) (turn : Bool) (here : Nat) {s : State} (h3 : MemOk p0 s) :
    MemOk p0 (State.yieldNow ask turn here s) := by
  unfold State.yieldNow
  with_reducible repeat' first
    | assumption
    | intro _
    | apply State.afterMove_memOk
    | apply State.noteGatherings_memOk
    | apply State.modGg_memOk
    | apply State.nextTurn_memOk
    | split
    | simp only [memOk_mk]
    | apply memOk_fold
theorem State.leaveClause_memOk (ds : List Dest) {s : State} (h1 : MemOk p0 s) :
    MemOk p0 (State.leaveClause ds s) := by
  unfold State.leaveClause
  with_reducible repeat' first
    | assumption
    | intro _
    | apply State.yieldNow_memOk
    | apply State.modGg_memOk
    | split
    | simp only [memOk_mk]
    | apply memOk_fold
theorem State.advance_memOk {s : State} (h0 : MemOk p0 s) :
    MemOk p0 (State.advance s) := by
  unfold State.advance
  with_reducible repeat' first
    | assumption
    | intro _
    | apply State.modGg_memOk
    | apply State.leaveClause_memOk
    | split
    | simp only [memOk_mk]
    | apply memOk_fold
theorem State.endWord_memOk {s : State} (h0 : MemOk p0 s) :
    MemOk p0 (State.endWord s) := by
  unfold State.endWord
  with_reducible repeat' first
    | assumption
    | intro _
    | apply State.advance_memOk
    | apply State.countWord_memOk
    | split
    | simp only [memOk_mk]
    | apply memOk_fold
theorem State.unstage_memOk (l : Bool) (a : Nat) (n : Nat) {s : State} (h3 : MemOk p0 s) :
    MemOk p0 (State.unstage l a n s) := by
  unfold State.unstage
  with_reducible repeat' first
    | assumption
    | intro _
    | apply State.modGg_memOk
    | split
    | simp only [memOk_mk]
    | apply memOk_fold
theorem State.endWordL_memOk (l : Bool) (a : Nat) (n : Nat) {s : State} (h3 : MemOk p0 s) :
    MemOk p0 (State.endWordL l a n s) := by
  unfold State.endWordL
  with_reducible repeat' first
    | assumption
    | intro _
    | apply State.endWord_memOk
    | apply State.unstage_memOk
    | split
    | simp only [memOk_mk]
    | apply memOk_fold
theorem State.computeAs_memOk (sh : Shadow) (fs : List Field) (l : Bool) (d : Nat) (a : Nat) (n : Nat) (out : Gang → Nat → LaneOut) {s : State} (h7 : MemOk p0 s) :
    MemOk p0 (State.computeAs sh fs l d a n out s) := by
  unfold State.computeAs
  with_reducible repeat' first
    | assumption
    | intro _
    | apply State.endWordL_memOk
    | apply State.checked_memOk
    | apply State.struck_memOk
    | apply State.putOuts_memOk
    | split
    | simp only [memOk_mk]
    | apply memOk_fold
theorem State.shuffle_memOk (sel : Nat → Nat → Nat) (l : Bool) (d : BitVec 8) (a : BitVec 8) (b : BitVec 8) {s : State} (h5 : MemOk p0 s) :
    MemOk p0 (State.shuffle sel l d a b s) := by
  unfold State.shuffle
  with_reducible repeat' first
    | assumption
    | intro _
    | apply State.computeAs_memOk
    | split
    | simp only [memOk_mk]
    | apply memOk_fold
theorem execShfldn_memOk {l : Bool} {d : BitVec 8} {a : BitVec 8} {b : BitVec 8} {s : State} {t_ : State} (e : (execShfldn l d a b s) = .next t_) (h4 : MemOk p0 s) :
    MemOk p0 t_ := by
  unfold execShfldn at e
  injection e with e
  subst e
  with_reducible repeat' first
    | assumption
    | intro _
    | apply State.shuffle_memOk
    | split
    | simp only [memOk_mk]
    | apply memOk_fold
theorem State.startWatch_memOk (c : Nat) (g : Nat) (va : Nat) (kind : WatchKind) {s : State} (h4 : MemOk p0 s) :
    MemOk p0 (State.startWatch c g va kind s) := by
  unfold State.startWatch
  with_reducible repeat' first
    | assumption
    | intro _
    | apply State.modCtx_memOk
    | split
    | simp only [memOk_mk]
    | apply memOk_fold
theorem State.stallRing_memOk (slot : Nat) {s : State} (h1 : MemOk p0 s) :
    MemOk p0 (State.stallRing slot s) := by
  unfold State.stallRing
  with_reducible repeat' first
    | assumption
    | intro _
    | apply State.startWatch_memOk
    | apply State.modGg_memOk
    | apply memOk_getD
    | split
    | simp only [memOk_mk]
    | apply memOk_fold
theorem State.takeLost_memOk {slices : Nat} {s t_ : State} {o_} (e : State.takeLost slices s = some (t_, o_)) (h : MemOk p0 s) :
    MemOk p0 t_ := by
  unfold State.takeLost at e
  split at e
  · cases e
    exact State.modGg_memOk _ h
  · cases e
theorem State.drainWrites_memOk (scope : Nat) (slices : Nat) (act : State → State) {s : State} (h2 : ∀ t, MemOk p0 t → MemOk p0 (act t)) (h3 : MemOk p0 s) :
    MemOk p0 (State.drainWrites scope slices act s) := by
  unfold State.drainWrites
  with_reducible repeat' first
    | assumption
    | intro _
    | split
    | simp only [memOk_mk]
    | apply memOk_fold
    | apply h2
theorem State.released_memOk (scope : Nat) (slices : Nat) (act : State → State) {s : State}
    (h2 : ∀ t, MemOk p0 t → MemOk p0 (act t)) (h3 : MemOk p0 s) : MemOk p0 (State.released scope slices act s) := by
  unfold State.released
  split
  · rename_i e
    split at e
    · exact State.raise_memOk _ (State.takeLost_memOk e h3)
    · cases e
  · exact State.drainWrites_memOk _ _ _ h2 h3
theorem State.modCx_memOk (f : Ctx → Ctx) {s : State} (h1 : MemOk p0 s) :
    MemOk p0 (State.modCx f s) := by
  unfold State.modCx
  with_reducible repeat' first
    | assumption
    | intro _
    | apply State.modCtx_memOk
    | split
    | simp only [memOk_mk]
    | apply memOk_fold
theorem State.fireWindow_memOk (c : Nat) (lines : List Nat) {s : State} (h2 : MemOk p0 s) :
    MemOk p0 (State.fireWindow c lines s) := by
  unfold State.fireWindow
  with_reducible repeat' first
    | assumption
    | intro _
    | apply State.fireIn_memOk
    | split
    | simp only [memOk_mk]
    | apply memOk_fold
theorem State.writeWindow_memOk (c : Nat) (gs : List Seg) (poison : List Nat) {s : State} (h3 : MemOk p0 s) :
    MemOk p0 (State.writeWindow c gs poison s) := by
  unfold State.writeWindow
  with_reducible repeat' first
    | assumption
    | intro _
    | apply State.fireWindow_memOk
    | apply State.modCtx_memOk
    | apply State.beforeWrites_memOk
    | split
    | simp only [memOk_mk]
    | apply memOk_fold
theorem State.publish_memOk (x0 : EngSpec) (l : Bool) (d : Nat) (a : Nat) (b : Nat) {s : State} (h5 : MemOk p0 s) :
    MemOk p0 (State.publish x0 l d a b s) := by
  unfold State.publish
  with_reducible repeat' first
    | assumption
    | intro _
    | apply State.writeWindow_memOk
    | apply State.modCx_memOk
    | apply State.modGg_memOk
    | apply State.beforeRegs_memOk
    | apply State.endWordL_memOk
    | apply State.post_memOk
    | split
    | simp only [memOk_mk]
    | apply memOk_fold
theorem State.issueEngine_memOk (x0 : EngSpec) (l : Bool) (d : BitVec 8) (a : BitVec 8) (b : BitVec 5) {s : State} (h5 : MemOk p0 s) :
    MemOk p0 (State.issueEngine x0 l d a b s) := by
  unfold State.issueEngine
  with_reducible repeat' first
    | assumption
    | intro _
    | apply State.checked_memOk
    | apply State.stallRing_memOk
    | apply State.released_memOk
    | apply State.publish_memOk
    | split
    | simp only [memOk_mk]
    | apply memOk_fold
theorem execXcpr_memOk {l : Bool} {d : BitVec 8} {a : BitVec 8} {b : BitVec 5} {s : State} {t_ : State} (e : (execXcpr l d a b s) = .next t_) (h4 : MemOk p0 s) :
    MemOk p0 t_ := by
  unfold execXcpr at e
  injection e with e
  subst e
  with_reducible repeat' first
    | assumption
    | intro _
    | apply State.issueEngine_memOk
    | split
    | simp only [memOk_mk]
    | apply memOk_fold
theorem State.modArray_memOk (a : Nat) (f : MArray → MArray) {s : State} (h2 : MemOk p0 s) :
    MemOk p0 (State.modArray a f s) := by
  unfold State.modArray
  with_reducible repeat' first
    | assumption
    | intro _
    | split
    | simp only [memOk_mk]
    | apply memOk_fold
theorem State.putSlot_memOk (a : Nat) (t : Nat) (f : AccSlot → AccSlot) {s : State} (h3 : MemOk p0 s) :
    MemOk p0 (State.putSlot a t f s) := by
  unfold State.putSlot
  with_reducible repeat' first
    | assumption
    | intro _
    | apply State.modArray_memOk
    | apply State.beforeWrite_memOk
    | split
    | simp only [memOk_mk]
    | apply memOk_fold
theorem State.modCmd_memOk (k : Nat) (f : Cmd → Cmd) {s : State} (h2 : MemOk p0 s) :
    MemOk p0 (State.modCmd k f s) := by
  unfold State.modCmd
  with_reducible repeat' first
    | assumption
    | intro _
    | split
    | simp only [memOk_mk]
    | apply memOk_fold
theorem State.endCmd_memOk (k : Nat) (code : Nat) (r : Sys2Proof.Word) {s : State} (h3 : MemOk p0 s) :
    MemOk p0 (State.endCmd k code r s) := by
  unfold State.endCmd
  with_reducible repeat' first
    | assumption
    | intro _
    | apply State.post_memOk
    | apply State.modCmd_memOk
    | split
    | simp only [memOk_mk]
    | apply memOk_fold
theorem State.endMatrix_memOk (k : Nat) (ms : List Member) (ts : List Nat) {s : State} (h3 : MemOk p0 s) :
    MemOk p0 (State.endMatrix k ms ts s) := by
  unfold State.endMatrix
  with_reducible repeat' first
    | assumption
    | intro _
    | apply State.endCmd_memOk
    | split
    | simp only [memOk_mk]
    | apply memOk_fold
theorem State.doMma_memOk (k : Nat) (c : Cmd) (x : Ctx) {s : State} (h3 : MemOk p0 s) :
    MemOk p0 (State.doMma k c x s) := by
  unfold State.doMma
  with_reducible repeat' first
    | assumption
    | intro _
    | apply State.endMatrix_memOk
    | apply State.putSlot_memOk
    | apply memOk_foldl
    | apply memOk_foldl2
    | split
    | simp only [memOk_mk]
    | apply memOk_fold
theorem State.endPairs_memOk (as : List Nat) (code : Nat) {s : State} (h2 : MemOk p0 s) :
    MemOk p0 (State.endPairs as code s) := by
  unfold State.endPairs
  with_reducible repeat' first
    | assumption
    | intro _
    | apply State.endCmd_memOk
    | apply State.modArray_memOk
    | apply memOk_foldl
    | apply memOk_foldl2
    | split
    | simp only [memOk_mk]
    | apply memOk_fold
theorem State.doMpair_memOk (k : Nat) (c : Cmd) (x : Ctx) {s : State} (h3 : MemOk p0 s) :
    MemOk p0 (State.doMpair k c x s) := by
  unfold State.doMpair
  with_reducible repeat' first
    | assumption
    | intro _
    | apply State.modArray_memOk
    | apply State.endPairs_memOk
    | apply memOk_foldl
    | apply memOk_foldl2
    | apply memOk_getD
    | split
    | simp only [memOk_mk]
    | apply memOk_fold
theorem State.claimArray_memOk (a : Nat) (c : Nat) {s : State} (h2 : MemOk p0 s) :
    MemOk p0 (State.claimArray a c s) := by
  unfold State.claimArray
  with_reducible repeat' first
    | assumption
    | intro _
    | apply State.modArray_memOk
    | split
    | simp only [memOk_mk]
    | apply memOk_fold
theorem State.sendArrived_memOk (k : Nat) (part : Nat) (o : Outgoing) {s : State} (h3 : MemOk p0 s) :
    MemOk p0 (State.sendArrived k part o s) := by
  unfold State.sendArrived
  with_reducible repeat' first
    | assumption
    | intro _
    | apply State.modCmd_memOk
    | apply State.request_memOk
    | (refine State.request_memOk_eq (by assumption) ?_)
    | split
    | simp only [memOk_mk]
    | apply memOk_fold
theorem State.sendWrite_memOk (k : Nat) (part : Nat) (o : Outgoing) {s : State} (h3 : MemOk p0 s) :
    MemOk p0 (State.sendWrite k part o s) := by
  unfold State.sendWrite
  with_reducible repeat' first
    | assumption
    | intro _
    | apply State.sendArrived_memOk
    | apply State.modCmd_memOk
    | apply State.request_memOk
    | (refine State.request_memOk_eq (by assumption) ?_)
    | split
    | simp only [memOk_mk]
    | apply memOk_fold
theorem State.sendRead_memOk (k : Nat) (part : Nat) (r : RemotePart) {s : State} (h3 : MemOk p0 s) :
    MemOk p0 (State.sendRead k part r s) := by
  unfold State.sendRead
  with_reducible repeat' first
    | assumption
    | intro _
    | apply State.modCmd_memOk
    | apply State.request_memOk
    | (refine State.request_memOk_eq (by assumption) ?_)
    | split
    | simp only [memOk_mk]
    | apply memOk_fold
theorem State.pump_memOk (k : Nat) (x1 : Nat) {x2 : State} (h2 : MemOk p0 x2) :
    MemOk p0 (State.pump k x1 x2) := by
  induction x1 generalizing x2 with
  | zero =>
    unfold State.pump
    with_reducible repeat' first
      | assumption
      | intro _
      | apply State.modCmd_memOk
      | apply State.sendRead_memOk
      | apply State.sendWrite_memOk
      | split
      | simp only [memOk_mk]
      | apply memOk_fold
  | succ f_ ih =>
    unfold State.pump
    with_reducible repeat' first
      | assumption
      | intro _
      | apply ih
      | apply State.modCmd_memOk
      | apply State.sendRead_memOk
      | apply State.sendWrite_memOk
      | split
      | simp only [memOk_mk]
      | apply memOk_fold
theorem State.pumpCmd_memOk (k : Nat) {s : State} (h1 : MemOk p0 s) :
    MemOk p0 (State.pumpCmd k s) := by
  unfold State.pumpCmd
  with_reducible repeat' first
    | assumption
    | intro _
    | apply State.pump_memOk
    | split
    | simp only [memOk_mk]
    | apply memOk_fold
theorem State.askReads_memOk (k : Nat) (rs : List RemotePart) {s : State} (h2 : MemOk p0 s) :
    MemOk p0 (State.askReads k rs s) := by
  unfold State.askReads
  with_reducible repeat' first
    | assumption
    | intro _
    | apply State.pumpCmd_memOk
    | apply State.modCmd_memOk
    | split
    | simp only [memOk_mk]
    | apply memOk_fold
theorem State.gather_memOk (k : Nat) (c : Cmd) (x : Ctx) {s : State} (h3 : MemOk p0 s) :
    MemOk p0 (State.gather k c x s) := by
  unfold State.gather
  with_reducible repeat' first
    | assumption
    | intro _
    | apply State.modCmd_memOk
    | apply State.askReads_memOk
    | apply memOk_foldl
    | apply memOk_foldl2
    | split
    | simp only [memOk_mk]
    | apply memOk_fold
theorem State.startMmag_memOk (k : Nat) (c : Cmd) (x : Ctx) {s : State} (h3 : MemOk p0 s) :
    MemOk p0 (State.startMmag k c x s) := by
  unfold State.startMmag
  with_reducible repeat' first
    | assumption
    | intro _
    | apply State.gather_memOk
    | apply State.modCmd_memOk
    | apply State.post_memOk
    | apply memOk_foldl
    | apply memOk_foldl2
    | split
    | simp only [memOk_mk]
    | apply memOk_fold
theorem State.doMacc_memOk (k : Nat) (c : Cmd) (x : Ctx) {s : State} (h3 : MemOk p0 s) :
    MemOk p0 (State.doMacc k c x s) := by
  unfold State.doMacc
  with_reducible repeat' first
    | assumption
    | intro _
    | apply State.endMatrix_memOk
    | apply State.putSlot_memOk
    | apply memOk_foldl
    | apply memOk_foldl2
    | split
    | simp only [memOk_mk]
    | apply memOk_fold
theorem State.askWrites_memOk (k : Nat) (os : List Outgoing) {s : State} (h2 : MemOk p0 s) :
    MemOk p0 (State.askWrites k os s) := by
  unfold State.askWrites
  with_reducible repeat' first
    | assumption
    | intro _
    | apply State.pumpCmd_memOk
    | apply State.modCmd_memOk
    | split
    | simp only [memOk_mk]
    | apply memOk_fold
theorem State.writeRaw_memOk (rs : List Range) {s : State} (core : Nat) (h1 : MemOk p0 s) :
    MemOk p0 (State.writeRaw rs s core) := by
  unfold State.writeRaw
  with_reducible repeat' first
    | assumption
    | intro _
    | apply State.modCore_memOk
    | apply State.beforeWrites_memOk
    | split
    | simp only [memOk_mk]
    | apply memOk_fold
theorem State.writeWin_memOk (rs : List Range) {s : State} (c : Nat) (h1 : MemOk p0 s) :
    MemOk p0 (State.writeWin rs s c) := by
  unfold State.writeWin
  with_reducible repeat' first
    | assumption
    | intro _
    | apply State.writeWindow_memOk
    | split
    | simp only [memOk_mk]
    | apply memOk_fold
theorem State.engWrite_memOk (core : Nat) (rs : List Range) {s : State} (h2 : MemOk p0 s) :
    MemOk p0 (State.engWrite core rs s) := by
  unfold State.engWrite
  with_reducible repeat' first
    | assumption
    | intro _
    | apply State.writeWin_memOk
    | apply State.writeRaw_memOk
    | apply State.writeDram_memOk
    | apply State.writeSys_memOk
    | apply State.dropRdc_memOk
    | apply memOk_foldl
    | apply memOk_foldl2
    | split
    | simp only [memOk_mk]
    | apply memOk_fold
theorem State.modBar_memOk (c : Nat) (n : Nat) (f : NamedBar → NamedBar) {s : State} (h3 : MemOk p0 s) :
    MemOk p0 (State.modBar c n f s) := by
  unfold State.modBar
  with_reducible repeat' first
    | assumption
    | intro _
    | apply State.modCtx_memOk
    | split
    | simp only [memOk_mk]
    | apply memOk_fold
theorem State.writeBound_memOk (c : Nat) (n : Nat) {s : State} (h2 : MemOk p0 s) :
    MemOk p0 (State.writeBound c n s) := by
  unfold State.writeBound
  with_reducible repeat' first
    | assumption
    | intro _
    | apply State.writeWindow_memOk
    | split
    | simp only [memOk_mk]
    | apply memOk_fold
theorem State.completeNamed_memOk (c : Nat) (n : Nat) (err : Bool) {s : State} (h3 : MemOk p0 s) :
    MemOk p0 (State.completeNamed c n err s) := by
  unfold State.completeNamed
  with_reducible repeat' first
    | assumption
    | intro _
    | apply State.modCtx_memOk
    | apply State.modBar_memOk
    | apply State.writeBound_memOk
    | split
    | simp only [memOk_mk]
    | apply memOk_fold
theorem State.dropCopies_memOk (k : Nat) {s : State} (h1 : MemOk p0 s) :
    MemOk p0 (State.dropCopies k s) := by
  unfold State.dropCopies
  with_reducible repeat' first
    | assumption
    | intro _
    | apply State.modCore_memOk
    | apply State.modRdc_memOk
    | apply memOk_foldl
    | apply memOk_foldl2
    | split
    | simp only [memOk_mk]
    | apply memOk_fold
theorem State.putScope_memOk (loc : Nat) (w : BarWord) {s : State} (h2 : MemOk p0 s) :
    MemOk p0 (State.putScope loc w s) := by
  unfold State.putScope
  with_reducible repeat' first
    | assumption
    | intro _
    | apply State.dropCopies_memOk
    | apply State.writeDram_memOk
    | split
    | simp only [memOk_mk]
    | apply memOk_fold
theorem State.completeScope_memOk (loc : Nat) (err : Bool) {s : State} (h2 : MemOk p0 s) :
    MemOk p0 (State.completeScope loc err s) := by
  unfold State.completeScope
  with_reducible repeat' first
    | assumption
    | intro _
    | apply State.putScope_memOk
    | split
    | simp only [memOk_mk]
    | apply memOk_fold
theorem State.forcePhase_memOk (c : Nat) (bar : BarName) {s : State} (h2 : MemOk p0 s) :
    MemOk p0 (State.forcePhase c bar s) := by
  unfold State.forcePhase
  with_reducible repeat' first
    | assumption
    | intro _
    | apply State.completeNamed_memOk
    | apply State.completeScope_memOk
    | split
    | simp only [memOk_mk]
    | apply memOk_fold
theorem State.forceMet_memOk (m : Nat × BarName) {s : State} (h1 : MemOk p0 s) :
    MemOk p0 (State.forceMet m s) := by
  unfold State.forceMet
  with_reducible repeat' first
    | assumption
    | intro _
    | apply State.forcePhase_memOk
    | split
    | simp only [memOk_mk]
    | apply memOk_fold
theorem State.writeRanges_memOk (k : Nat) (core : Nat) (rs : List Range) {s : State} (h3 : MemOk p0 s) :
    MemOk p0 (State.writeRanges k core rs s) := by
  unfold State.writeRanges
  with_reducible repeat' first
    | assumption
    | intro _
    | apply State.modCmd_memOk
    | apply State.engWrite_memOk
    | apply State.forceMet_memOk
    | split
    | simp only [memOk_mk]
    | apply memOk_fold
theorem State.doMst_memOk (k : Nat) (c : Cmd) (x : Ctx) {s : State} (h3 : MemOk p0 s) :
    MemOk p0 (State.doMst k c x s) := by
  unfold State.doMst
  with_reducible repeat' first
    | assumption
    | intro _
    | apply State.post_memOk
    | apply State.modCmd_memOk
    | apply State.free_memOk
    | (refine State.free_memOk_eq (by assumption) ?_)
    | apply State.writeRanges_memOk
    | apply State.askWrites_memOk
    | split
    | simp only [memOk_mk]
    | apply memOk_fold
theorem State.leaveSpan_memOk {s : State} (c : Nat) (h0 : MemOk p0 s) :
    MemOk p0 (State.leaveSpan s c) := by
  unfold State.leaveSpan
  with_reducible repeat' first
    | assumption
    | intro _
    | apply State.modArray_memOk
    | apply State.modCtx_memOk
    | split
    | simp only [memOk_mk]
    | apply memOk_fold
theorem State.dissolveSpan_memOk (c : Nat) (x : Ctx) {s : State} (h2 : MemOk p0 s) :
    MemOk p0 (State.dissolveSpan c x s) := by
  unfold State.dissolveSpan
  with_reducible repeat' first
    | assumption
    | intro _
    | apply State.leaveSpan_memOk
    | apply memOk_foldl
    | apply memOk_foldl2
    | split
    | simp only [memOk_mk]
    | apply memOk_fold
theorem State.doMrel_memOk (k : Nat) (c : Cmd) (x : Ctx) {s : State} (h3 : MemOk p0 s) :
    MemOk p0 (State.doMrel k c x s) := by
  unfold State.doMrel
  with_reducible repeat' first
    | assumption
    | intro _
    | apply State.dissolveSpan_memOk
    | apply State.endCmd_memOk
    | split
    | simp only [memOk_mk]
    | apply memOk_fold
theorem State.startMatrix_memOk (k : Nat) (c : Cmd) (x : Ctx) {s : State} (h3 : MemOk p0 s) :
    MemOk p0 (State.startMatrix k c x s) := by
  unfold State.startMatrix
  with_reducible repeat' first
    | assumption
    | intro _
    | apply State.endCmd_memOk
    | apply State.claimArray_memOk
    | apply State.doMma_memOk
    | apply State.startMmag_memOk
    | apply State.doMacc_memOk
    | apply State.doMst_memOk
    | apply State.doMpair_memOk
    | apply State.doMrel_memOk
    | split
    | simp only [memOk_mk]
    | apply memOk_fold
theorem State.modChain_memOk (v : Nat) (c : Nat) (f : Chain → Chain) {s : State} (h3 : MemOk p0 s) :
    MemOk p0 (State.modChain v c f s) := by
  unfold State.modChain
  with_reducible repeat' first
    | assumption
    | intro _
    | split
    | simp only [memOk_mk]
    | apply memOk_fold
theorem State.modEntry_memOk (v : Nat) (c : Nat) (n : Nat) (f : Entry → Entry) {s : State} (h4 : MemOk p0 s) :
    MemOk p0 (State.modEntry v c n f s) := by
  unfold State.modEntry
  with_reducible repeat' first
    | assumption
    | intro _
    | apply State.modChain_memOk
    | split
    | simp only [memOk_mk]
    | apply memOk_fold
theorem State.endEntry_memOk (v : Nat) (c : Nat) (n : Nat) (code : Nat) (value : Nat) {s : State} (h5 : MemOk p0 s) :
    MemOk p0 (State.endEntry v c n code value s) := by
  unfold State.endEntry
  with_reducible repeat' first
    | assumption
    | intro _
    | apply State.post_memOk
    | apply State.modEntry_memOk
    | split
    | simp only [memOk_mk]
    | apply memOk_fold
theorem State.poolEntry_memOk (v : Nat) (c : Nat) (n : Nat) (x3 : Entry) {s : State} (h4 : MemOk p0 s) :
    MemOk p0 (State.poolEntry v c n x3 s) := by
  unfold State.poolEntry
  with_reducible repeat' first
    | assumption
    | intro _
    | apply State.enqueue_memOk
    | apply State.modEntry_memOk
    | split
    | simp only [memOk_mk]
    | apply memOk_fold
theorem State.askStart_memOk (v : Nat) (c : Nat) (x2 : Nat) {x3 : State} (h3 : MemOk p0 x3) :
    MemOk p0 (State.askStart v c x2 x3) := by
  induction x2 generalizing x3 with
  | zero =>
    unfold State.askStart
    with_reducible repeat' first
      | assumption
      | intro _
      | apply State.poolEntry_memOk
      | apply State.post_memOk
      | apply State.endEntry_memOk
      | apply State.modEntry_memOk
      | split
      | simp only [memOk_mk]
      | apply memOk_fold
  | succ f_ ih =>
    unfold State.askStart
    with_reducible repeat' first
      | assumption
      | intro _
      | apply ih
      | apply State.poolEntry_memOk
      | apply State.post_memOk
      | apply State.endEntry_memOk
      | apply State.modEntry_memOk
      | split
      | simp only [memOk_mk]
      | apply memOk_fold
theorem State.startNext_memOk (v : Nat) (c : Nat) {s : State} (h2 : MemOk p0 s) :
    MemOk p0 (State.startNext v c s) := by
  unfold State.startNext
  with_reducible repeat' first
    | assumption
    | intro _
    | apply State.askStart_memOk
    | split
    | simp only [memOk_mk]
    | apply memOk_fold
theorem State.entryStarts_memOk (v : Nat) (c : Nat) (n : Nat) (kind : Nat) (act : Entry → State → State) {s : State} (h4 : ∀ y0 t, MemOk p0 t → MemOk p0 (act y0 t)) (h5 : MemOk p0 s) :
    MemOk p0 (State.entryStarts v c n kind act s) := by
  unfold State.entryStarts
  with_reducible repeat' first
    | assumption
    | intro _
    | apply State.startNext_memOk
    | apply State.modEntry_memOk
    | split
    | simp only [memOk_mk]
    | apply memOk_fold
    | apply h4
theorem State.keepOut_memOk (const : Bool) (cores : Nat → Bool) (lvl : Nat) (test : Nat → Nat → Bool) {s : State} (h4 : MemOk p0 s) :
    MemOk p0 (State.keepOut const cores lvl test s) := by
  unfold State.keepOut
  with_reducible repeat' first
    | assumption
    | intro _
    | split
    | simp only [memOk_mk]
    | apply memOk_fold
theorem State.overtaken_memOk (core : Nat) (gs : List Seg) {s : State} (h2 : MemOk p0 s) :
    MemOk p0 (State.overtaken core gs s) := by
  unfold State.overtaken
  with_reducible repeat' first
    | assumption
    | intro _
    | apply State.keepOut_memOk
    | split
    | simp only [memOk_mk]
    | apply memOk_fold
theorem State.patchCaches_memOk (core : Nat) (gs : List Seg) {s : State} (h2 : MemOk p0 s) :
    MemOk p0 (State.patchCaches core gs s) := by
  unfold State.patchCaches
  with_reducible repeat' first
    | assumption
    | intro _
    | apply State.modCore_memOk
    | apply State.overtaken_memOk
    | apply State.modRdc_memOk
    | apply memOk_foldl
    | apply memOk_foldl2
    | split
    | simp only [memOk_mk]
    | apply memOk_fold
theorem State.holdClause_memOk (ws : List Sys2Proof.Word) {s : State} (h1 : MemOk p0 s) :
    MemOk p0 (State.holdClause ws s) := by
  unfold State.holdClause
  with_reducible repeat' first
    | assumption
    | intro _
    | apply State.modGg_memOk
    | split
    | simp only [memOk_mk]
    | apply memOk_fold
theorem State.spireSend_memOk (p : Nat) (f : Sys2Proof.Flit) {s : State} (h2 : MemOk p0 s) :
    MemOk p0 (State.spireSend p f s) := by
  unfold State.spireSend
  with_reducible repeat' first
    | assumption
    | intro _
    | split
    | simp only [memOk_mk]
    | apply memOk_fold
theorem State.sendResults_memOk (plane : Nat) (step : Nat) (u : SlotUse) (fs : List Sys2Proof.Flit) {s : State} (h4 : MemOk p0 s) :
    MemOk p0 (State.sendResults plane step u fs s) := by
  unfold State.sendResults
  with_reducible repeat' first
    | assumption
    | intro _
    | apply State.spireSend_memOk
    | apply memOk_foldl
    | apply memOk_foldl2
    | apply memOk_getD
    | split
    | simp only [memOk_mk]
    | apply memOk_fold
theorem State.releaseSlots_memOk (h : Nat) {s : State} (h1 : MemOk p0 s) :
    MemOk p0 (State.releaseSlots h s) := by
  unfold State.releaseSlots
  with_reducible repeat' first
    | assumption
    | intro _
    | apply State.modRun_memOk
    | apply State.queueFlit_memOk
    | apply memOk_foldl
    | apply memOk_foldl2
    | apply memOk_getD
    | split
    | simp only [memOk_mk]
    | apply memOk_fold
theorem State.finishRun_memOk (h : Nat) (r : Run) {s : State} (h2 : MemOk p0 s) :
    MemOk p0 (State.finishRun h r s) := by
  unfold State.finishRun
  with_reducible repeat' first
    | assumption
    | intro _
    | apply State.modGraph_memOk
    | apply State.releaseSlots_memOk
    | apply State.endCmd_memOk
    | split
    | simp only [memOk_mk]
    | apply memOk_fold
theorem State.sendDecrement_memOk (h : Nat) (g : Graph) (r : Run) (b : List Sys2Proof.Byte) {s : State} (h4 : MemOk p0 s) :
    MemOk p0 (State.sendDecrement h g r b s) := by
  unfold State.sendDecrement
  with_reducible repeat' first
    | assumption
    | intro _
    | apply State.queueFlit_memOk
    | split
    | simp only [memOk_mk]
    | apply memOk_fold
theorem State.addCmd_memOk (c : Cmd) {s : State} (h1 : MemOk p0 s) :
    MemOk p0 (State.addCmd c s).2 := by
  unfold State.addCmd
  with_reducible repeat' first
    | assumption
    | intro _
    | split
    | simp only [memOk_mk]
    | apply memOk_fold
theorem State.addCmd_memOk_eq {c : Cmd} {s : State} {o_ t_} (e : (State.addCmd c s) = (o_, t_)) (h1 : MemOk p0 s) :
    MemOk p0 t_ := by
  have := State.addCmd_memOk c h1
  rwa [e] at this
theorem State.enterCmd_memOk (h : Nat) (n : Nat) (cls : Nat) (g : Graph) (c : Cmd) (b : List Sys2Proof.Byte) {s : State} (h6 : MemOk p0 s) :
    MemOk p0 (State.enterCmd h n cls g c b s) := by
  unfold State.enterCmd
  with_reducible repeat' first
    | assumption
    | intro _
    | apply State.addCmd_memOk
    | (refine State.addCmd_memOk_eq (by assumption) ?_)
    | apply State.failNode_memOk
    | apply State.enqueue_memOk
    | split
    | simp only [memOk_mk]
    | apply memOk_fold
theorem State.queueChunk_memOk (part : Nat) (h : Nat) (n : Nat) {s : State} (h3 : MemOk p0 s) :
    MemOk p0 (State.queueChunk part h n s) := by
  unfold State.queueChunk
  with_reducible repeat' first
    | assumption
    | intro _
    | apply State.post_memOk
    | apply memOk_getD
    | split
    | simp only [memOk_mk]
    | apply memOk_fold
theorem State.enterNode_memOk (h : Nat) (cls : Nat) {s : State} (n : Nat) (h2 : MemOk p0 s) :
    MemOk p0 (State.enterNode h cls s n) := by
  unfold State.enterNode
  with_reducible repeat' first
    | assumption
    | intro _
    | apply State.modRun_memOk
    | apply State.queueChunk_memOk
    | apply State.failNode_memOk
    | apply State.enterCmd_memOk
    | apply State.enterLaunch_memOk
    | split
    | simp only [memOk_mk]
    | apply memOk_fold
theorem State.decrement_memOk (h : Nat) (cls : Nat) {s : State} (n : Nat) (h2 : MemOk p0 s) :
    MemOk p0 (State.decrement h cls s n) := by
  unfold State.decrement
  with_reducible repeat' first
    | assumption
    | intro _
    | apply State.modRun_memOk
    | apply State.enterNode_memOk
    | split
    | simp only [memOk_mk]
    | apply memOk_fold
theorem execChunkCompletion_memOk {handle : Nat} {node : Nat} {s : State} {t_ : State} (e : (execChunkCompletion handle node s) = .next t_) (h2 : MemOk p0 s) :
    MemOk p0 t_ := by
  unfold execChunkCompletion at e
  injection e with e
  subst e
  with_reducible repeat' first
    | assumption
    | intro _
    | apply State.enterNode_memOk
    | apply State.modCmd_memOk
    | apply State.modRun_memOk
    | apply State.decrement_memOk
    | apply State.sendDecrement_memOk
    | apply State.finishRun_memOk
    | apply memOk_foldl
    | apply memOk_foldl2
    | split
    | simp only [memOk_mk]
    | apply memOk_fold
theorem State.dropClaim_memOk (c : Nat) {s : State} (h1 : MemOk p0 s) :
    MemOk p0 (State.dropClaim c s) := by
  unfold State.dropClaim
  with_reducible repeat' first
    | assumption
    | intro _
    | apply State.dissolveSpan_memOk
    | split
    | simp only [memOk_mk]
    | apply memOk_fold
theorem State.lowerPoint_memOk (die : Nat) {s : State} (h1 : MemOk p0 s) :
    MemOk p0 (State.lowerPoint die s) := by
  unfold State.lowerPoint
  with_reducible repeat' first
    | assumption
    | intro _
    | split
    | simp only [memOk_mk]
    | apply memOk_fold
theorem State.endOf_memOk (terminated : Bool) {s : State} (n : Nat) (h1 : MemOk p0 s) :
    MemOk p0 (State.endOf terminated s n) := by
  unfold State.endOf
  cases Tab.find n s.launches with
  | none => exact h1
  | some l =>
    simp only []
    split
    · cases l.origin with
      | device => exact h1
      | chain v c e => exact State.post_memOk _ h1
      | graph h d =>
        apply State.post_memOk
        split <;> exact h1
    · exact h1
theorem State.saveToPool_memOk (c : Nat) {s : State} (h1 : MemOk p0 s) :
    MemOk p0 (State.saveToPool c s) := by
  unfold State.saveToPool
  with_reducible repeat' first
    | assumption
    | intro _
    | apply State.enqueue_memOk
    | split
    | simp only [memOk_mk]
    | apply memOk_fold
theorem State.partSpan_memOk (ms : List Nat) {s : State} (h1 : MemOk p0 s) :
    MemOk p0 (State.partSpan ms s) := by
  unfold State.partSpan
  with_reducible repeat' first
    | assumption
    | intro _
    | apply State.saveToPool_memOk
    | apply memOk_foldl
    | apply memOk_foldl2
    | split
    | simp only [memOk_mk]
    | apply memOk_fold
theorem State.endCtx_memOk (c : Nat) (terminated : Bool) {s : State} (h2 : MemOk p0 s) :
    MemOk p0 (State.endCtx c terminated s) := by
  unfold State.endCtx
  with_reducible repeat' first
    | assumption
    | intro _
    | apply State.beforeWrites_memOk
    | apply State.dropClaim_memOk
    | apply State.partSpan_memOk
    | apply State.lowerPoint_memOk
    | apply State.endOf_memOk
    | apply State.post_memOk
    | apply memOk_foldl
    | apply memOk_foldl2
    | split
    | simp only [memOk_mk]
    | apply memOk_fold
theorem State.cancelCmds_memOk (c : Nat) (x : Ctx) {s : State} (h2 : MemOk p0 s) :
    MemOk p0 (State.cancelCmds c x s) := by
  unfold State.cancelCmds
  with_reducible repeat' first
    | assumption
    | intro _
    | split
    | simp only [memOk_mk]
    | apply memOk_fold
theorem State.terminate_memOk (c : Nat) {s : State} (h1 : MemOk p0 s) :
    MemOk p0 (State.terminate c s) := by
  unfold State.terminate
  with_reducible repeat' first
    | assumption
    | intro _
    | apply State.cancelCmds_memOk
    | apply State.modCtx_memOk
    | apply State.endCtx_memOk
    | split
    | simp only [memOk_mk]
    | apply memOk_fold
theorem State.askPreempt_memOk (i : Nat) (vs : List Nat) {s : State} (h2 : MemOk p0 s) :
    MemOk p0 (State.askPreempt i vs s) := by
  unfold State.askPreempt
  with_reducible repeat' first
    | assumption
    | intro _
    | split
    | simp only [memOk_mk]
    | apply memOk_fold
theorem State.takeLostOn_memOk {wait} {s t_ : State} {o_} (e : State.takeLostOn wait s = some (t_, o_)) (h : MemOk p0 s) :
    MemOk p0 t_ := by
  unfold State.takeLostOn at e
  split at e
  · cases e
    exact State.modGg_memOk _ h
  · cases e
theorem State.dropL1_memOk (core : Nat) {s : State} (h1 : MemOk p0 s) :
    MemOk p0 (State.dropL1 core s) := by
  unfold State.dropL1
  with_reducible repeat' first
    | assumption
    | intro _
    | apply State.keepOut_memOk
    | apply State.modCore_memOk
    | split
    | simp only [memOk_mk]
    | apply memOk_fold
theorem State.acquire_memOk (core : Nat) (scope : Nat) {s : State} (h2 : MemOk p0 s) :
    MemOk p0 (State.acquire core scope s) := by
  unfold State.acquire
  with_reducible repeat' first
    | assumption
    | intro _
    | apply State.dropL1_memOk
    | apply State.dropRdc_memOk
    | apply State.keepOut_memOk
    | split
    | simp only [memOk_mk]
    | apply memOk_fold
theorem State.enterClause_memOk (wait : BitVec 12) (fa : BitVec 4) (fb : BitVec 4) {s : State} (h3 : MemOk p0 s) :
    MemOk p0 (State.enterClause wait fa fb s) := by
  unfold State.enterClause
  with_reducible repeat' first
    | assumption
    | intro _
    | apply State.modGg_memOk
    | apply State.acquire_memOk
    | apply memOk_foldl
    | apply memOk_foldl2
    | split
    | simp only [memOk_mk]
    | apply memOk_fold
theorem State.takeConv_memOk {test} {s t_ : State} {o_} (e : State.takeConv test s = some (t_, o_)) (h : MemOk p0 s) :
    MemOk p0 t_ := by
  unfold State.takeConv at e
  cases hc : firstConv test s.gg.faulted with
  | none => rw [hc] at e; cases e
  | some f =>
    rw [hc] at e
    cases e
    exact State.modGg_memOk _ h
theorem State.beginWait_memOk (w : Wait) {s : State} (h1 : MemOk p0 s) :
    MemOk p0 (State.beginWait w s) := by
  unfold State.beginWait
  with_reducible repeat' first
    | assumption
    | intro _
    | apply State.modCx_memOk
    | apply State.modGg_memOk
    | split
    | simp only [memOk_mk]
    | apply memOk_fold
theorem execClauseHeader_memOk {wait : BitVec 12} {fa : BitVec 4} {fb : BitVec 4} {_len : BitVec 5} {s : State} {t_ : State} (e : (execClauseHeader wait fa fb _len s) = .next t_) (h4 : MemOk p0 s) :
    MemOk p0 t_ := by
  unfold execClauseHeader at e
  injection e with e
  subst e
  with_reducible repeat' first
    | assumption
    | intro _
    | (refine State.takeLostOn_memOk (by assumption) ?_)
    | apply State.raise_memOk
    | (refine State.takeConv_memOk (by assumption) ?_)
    | apply State.enterClause_memOk
    | apply State.beginWait_memOk
    | split
    | simp only [memOk_mk]
    | apply memOk_fold
theorem State.giveLanes_memOk (c : Nat) (g : Nat) (a : Access) (rs : List LaneResult) {s : State} (h4 : MemOk p0 s) :
    MemOk p0 (State.giveLanes c g a rs s) := by
  unfold State.giveLanes
  with_reducible repeat' first
    | assumption
    | intro _
    | apply State.modGang_memOk
    | apply State.beforeRegs_memOk
    | split
    | simp only [memOk_mk]
    | apply memOk_fold
theorem State.settleAccess_memOk (c : Nat) (g : Nat) (k : Nat) {s : State} (h3 : MemOk p0 s) :
    MemOk p0 (State.settleAccess c g k s) := by
  unfold State.settleAccess
  with_reducible repeat' first
    | assumption
    | intro _
    | apply State.modGang_memOk
    | apply State.giveLanes_memOk
    | apply State.acquire_memOk
    | split
    | simp only [memOk_mk]
    | apply memOk_fold
theorem State.readVariant_memOk (p : Nat) (va : Nat) (x2 : List Sys2Proof.Byte) {s : State} (h3 : MemOk p0 s) :
    MemOk p0 (State.readVariant p va x2 s).2 := by
  unfold State.readVariant
  with_reducible repeat' first
    | assumption
    | intro _
    | apply State.frontRead_memOk
    | (refine State.frontRead_memOk_eq (by assumption) ?_)
    | split
    | simp only [memOk_mk]
    | apply memOk_fold
theorem State.readVariant_memOk_eq {p : Nat} {va : Nat} {x2 : List Sys2Proof.Byte} {s : State} {o_ t_} (e : (State.readVariant p va x2 s) = (o_, t_)) (h3 : MemOk p0 s) :
    MemOk p0 t_ := by
  have := State.readVariant_memOk p va x2 h3
  rwa [e] at this
theorem State.readVariants_memOk (p : Nat) (va : Nat) (x2 : List (List Sys2Proof.Byte)) {x3 : State} (h3 : MemOk p0 x3) :
    MemOk p0 (State.readVariants p va x2 x3).2 := by
  induction x2 generalizing x3 with
  | nil =>
    unfold State.readVariants
    with_reducible repeat' first
      | assumption
      | intro _
      | apply State.readVariant_memOk
      | (refine State.readVariant_memOk_eq (by assumption) ?_)
      | split
      | simp only [memOk_mk]
      | apply memOk_fold
  | cons b_ l_ ih =>
    have ih2 : ∀ {s_ t_ o_}, State.readVariants p va l_ s_ = (o_, t_) → MemOk p0 s_ → MemOk p0 t_ := by
      intro s_ t_ o_ e h
      have := ih h
      rwa [e] at this
    unfold State.readVariants
    with_reducible repeat' first
      | assumption
      | intro _
      | apply ih
      | (refine ih2 (by assumption) ?_)
      | apply State.readVariant_memOk
      | (refine State.readVariant_memOk_eq (by assumption) ?_)
      | split
      | simp only [memOk_mk]
      | apply memOk_fold
theorem State.readVariants_memOk_eq {p : Nat} {va : Nat} {x2 : List (List Sys2Proof.Byte)} {x3 : State} {o_ t_} (e : (State.readVariants p va x2 x3) = (o_, t_)) (h3 : MemOk p0 x3) :
    MemOk p0 t_ := by
  have := State.readVariants_memOk p va x2 h3
  rwa [e] at this
theorem State.compute_memOk (accept : Nat → Bool) (fs : List Field) (sh : Shadow) (l : Bool) (d : Nat) (a : Nat) (out : Gang → Nat → LaneOut) {s : State} (h7 : MemOk p0 s) :
    MemOk p0 (State.compute accept fs sh l d a out s) := by
  unfold State.compute
  with_reducible repeat' first
    | assumption
    | intro _
    | apply State.endWordL_memOk
    | apply State.checked_memOk
    | apply State.struck_memOk
    | apply State.putOuts_memOk
    | split
    | simp only [memOk_mk]
    | apply memOk_fold
theorem execNot_memOk {l : Bool} {d : BitVec 8} {a : BitVec 8} {s : State} {t_ : State} (e : (execNot l d a s) = .next t_) (h3 : MemOk p0 s) :
    MemOk p0 t_ := by
  unfold execNot at e
  injection e with e
  subst e
  with_reducible repeat' first
    | assumption
    | intro _
    | apply State.compute_memOk
    | split
    | simp only [memOk_mk]
    | apply memOk_fold
theorem State.setDie_memOk (dom : Nat) (die : Nat) (col : Bool) (st : DieState) {s : State} (h4 : MemOk p0 s) :
    MemOk p0 (State.setDie dom die col st s) := by
  unfold State.setDie
  with_reducible repeat' first
    | assumption
    | intro _
    | apply State.modDieCol_memOk
    | apply State.post_memOk
    | split
    | simp only [memOk_mk]
    | apply memOk_fold
theorem State.settlePend_memOk (dom : Nat) {s : State} (h1 : MemOk p0 s) :
    MemOk p0 (State.settlePend dom s) := by
  unfold State.settlePend
  with_reducible repeat' first
    | assumption
    | intro _
    | apply State.setPage_memOk
    | apply memOk_foldl
    | apply memOk_foldl2
    | split
    | simp only [memOk_mk]
    | apply memOk_fold
theorem State.releaseDie_memOk (dom : Nat) (die : Nat) (ssn : Nat) (col : Bool) (complete : Bool) {s : State} (h5 : MemOk p0 s) :
    MemOk p0 (State.releaseDie dom die ssn col complete s) := by
  unfold State.releaseDie
  with_reducible repeat' first
    | assumption
    | intro _
    | apply State.setDie_memOk
    | apply State.modDieCol_memOk
    | apply State.settlePend_memOk
    | apply State.post_memOk
    | split
    | simp only [memOk_mk]
    | apply memOk_fold
theorem State.modDomain_memOk (dom : Nat) (f : Domain → Domain) {s : State} (h2 : MemOk p0 s) :
    MemOk p0 (State.modDomain dom f s) := by
  unfold State.modDomain
  with_reducible repeat' first
    | assumption
    | intro _
    | split
    | simp only [memOk_mk]
    | apply memOk_fold
theorem State.setAlloc_memOk (dom : Nat) (col : Bool) (st : AllocState) {s : State} (h3 : MemOk p0 s) :
    MemOk p0 (State.setAlloc dom col st s) := by
  unfold State.setAlloc
  with_reducible repeat' first
    | assumption
    | intro _
    | apply State.modDomain_memOk
    | apply State.post_memOk
    | apply State.releaseDie_memOk
    | apply memOk_foldl
    | apply memOk_foldl2
    | split
    | simp only [memOk_mk]
    | apply memOk_fold
theorem State.failSnap_memOk (dom : Nat) (col : Bool) (cause : Nat) {s : State} (h3 : MemOk p0 s) :
    MemOk p0 (State.failSnap dom col cause s) := by
  unfold State.failSnap
  with_reducible repeat' first
    | assumption
    | intro _
    | apply State.notice_memOk
    | apply State.setAlloc_memOk
    | split
    | simp only [memOk_mk]
    | apply memOk_fold
theorem State.logFor_memOk (dom : Nat) (die : Nat) (ch : Sys2Proof.Channel) (port : Nat) (f : Sys2Proof.Flit) {s : State} (col : Bool) (h5 : MemOk p0 s) :
    MemOk p0 (State.logFor dom die ch port f s col) := by
  unfold State.logFor
  with_reducible repeat' first
    | assumption
    | intro _
    | apply State.modDieCol_memOk
    | apply State.failSnap_memOk
    | split
    | simp only [memOk_mk]
    | apply memOk_fold
theorem State.logMessage_memOk (part : Nat) (die : Nat) (ch : Sys2Proof.Channel) (port : Nat) (f : Sys2Proof.Flit) {s : State} (cut : optParam Nat 0) (h5 : MemOk p0 s) :
    MemOk p0 (State.logMessage part die ch port f s cut) := by
  unfold State.logMessage
  with_reducible repeat' first
    | assumption
    | intro _
    | apply State.logFor_memOk
    | apply memOk_foldl
    | apply memOk_foldl2
    | split
    | simp only [memOk_mk]
    | apply memOk_fold
theorem State.logFlit_memOk (p : Nat) (f : Sys2Proof.Flit) (part : Option Nat) {s : State} (cut : optParam Nat 0) (h3 : MemOk p0 s) :
    MemOk p0 (State.logFlit p f part s cut) := by
  unfold State.logFlit
  with_reducible repeat' first
    | assumption
    | intro _
    | apply State.logMessage_memOk
    | split
    | simp only [memOk_mk]
    | apply memOk_fold
theorem State.decrementFrom_memOk (h : Nat) (n : Nat) (g : Graph) {s : State} (h3 : MemOk p0 s) :
    MemOk p0 (State.decrementFrom h n g s) := by
  unfold State.decrementFrom
  with_reducible repeat' first
    | assumption
    | intro _
    | apply State.decrement_memOk
    | apply State.modRun_memOk
    | apply State.post_memOk
    | split
    | simp only [memOk_mk]
    | apply memOk_fold
theorem State.serveDecrement_memOk (port : Nat) (f : Sys2Proof.Flit) {s : State} (h2 : MemOk p0 s) :
    MemOk p0 (State.serveDecrement port f s) := by
  unfold State.serveDecrement
  with_reducible repeat' first
    | assumption
    | intro _
    | apply State.logFlit_memOk
    | apply State.modRun_memOk
    | apply State.decrementFrom_memOk
    | apply State.modGraph_memOk
    | split
    | simp only [memOk_mk]
    | apply memOk_fold
theorem State.pumpAll_memOk {s : State} (h0 : MemOk p0 s) :
    MemOk p0 (State.pumpAll s) := by
  unfold State.pumpAll
  with_reducible repeat' first
    | assumption
    | intro _
    | apply State.pumpCmd_memOk
    | apply State.post_memOk
    | apply memOk_foldl
    | apply memOk_foldl2
    | split
    | simp only [memOk_mk]
    | apply memOk_fold
theorem State.answerCmd_memOk (k : Nat) (port : Nat) (tag : Nat) (failed : Bool) (f : RemotePart → Cmd → Cmd) {s : State} (h5 : MemOk p0 s) :
    MemOk p0 (State.answerCmd k port tag failed f s) := by
  unfold State.answerCmd
  with_reducible repeat' first
    | assumption
    | intro _
    | apply State.modCmd_memOk
    | apply State.pumpCmd_memOk
    | apply State.post_memOk
    | split
    | simp only [memOk_mk]
    | apply memOk_fold
theorem State.loseCmdPart_memOk (k : Nat) (port : Nat) (tag : Nat) {s : State} (h3 : MemOk p0 s) :
    MemOk p0 (State.loseCmdPart k port tag s) := by
  unfold State.loseCmdPart
  with_reducible repeat' first
    | assumption
    | intro _
    | apply State.answerCmd_memOk
    | split
    | simp only [memOk_mk]
    | apply memOk_fold
theorem State.answerPart_memOk (c : Nat) (g : Nat) (k : Nat) (port : Nat) (tag : Nat) (rs : List LaneResult) (failed : Bool) (clobber : Bool) {s : State} (h8 : MemOk p0 s) :
    MemOk p0 (State.answerPart c g k port tag rs failed clobber s) := by
  unfold State.answerPart
  with_reducible repeat' first
    | assumption
    | intro _
    | apply State.modGang_memOk
    | apply State.giveLanes_memOk
    | apply State.settleAccess_memOk
    | apply memOk_getD
    | split
    | simp only [memOk_mk]
    | apply memOk_fold
theorem State.losePart_memOk (c : Nat) (g : Nat) (k : Nat) (port : Nat) (tag : Nat) {s : State} (h5 : MemOk p0 s) :
    MemOk p0 (State.losePart c g k port tag s) := by
  unfold State.losePart
  with_reducible repeat' first
    | assumption
    | intro _
    | apply State.answerPart_memOk
    | split
    | simp only [memOk_mk]
    | apply memOk_fold
theorem State.settleCtx_memOk (c : Nat) {s : State} (h1 : MemOk p0 s) :
    MemOk p0 (State.settleCtx c s) := by
  unfold State.settleCtx
  with_reducible repeat' first
    | assumption
    | intro _
    | apply State.settleGang_memOk
    | apply memOk_foldl
    | apply memOk_foldl2
    | apply memOk_getD
    | split
    | simp only [memOk_mk]
    | apply memOk_fold
theorem State.settleCore_memOk (core : Nat) {s : State} (h1 : MemOk p0 s) :
    MemOk p0 (State.settleCore core s) := by
  unfold State.settleCore
  with_reducible repeat' first
    | assumption
    | intro _
    | apply State.settleCtx_memOk
    | apply memOk_foldl
    | apply memOk_foldl2
    | split
    | simp only [memOk_mk]
    | apply memOk_fold
theorem State.takeCode_memOk (core : Nat) (loc : Nat) (hold : Bool) (x : Sector) {s : State} (h4 : MemOk p0 s) :
    MemOk p0 (State.takeCode core loc hold x s) := by
  unfold State.takeCode
  with_reducible repeat' first
    | assumption
    | intro _
    | apply State.modCore_memOk
    | split
    | simp only [memOk_mk]
    | apply memOk_fold
theorem State.takeFront_memOk (loc : Nat) (bs : List Sys2Proof.Byte) {s : State} (h2 : MemOk p0 s) :
    MemOk p0 (State.takeFront loc bs s) := by
  unfold State.takeFront
  with_reducible repeat' first
    | assumption
    | intro _
    | split
    | simp only [memOk_mk]
    | apply memOk_fold
theorem State.loseUse_memOk (use : TagUse) (port : Nat) (tag : Nat) {s : State} (h3 : MemOk p0 s) :
    MemOk p0 (State.loseUse use port tag s) := by
  unfold State.loseUse
  with_reducible repeat' first
    | assumption
    | intro _
    | apply State.losePart_memOk
    | apply State.loseCmdPart_memOk
    | apply State.settleCore_memOk
    | apply State.takeCode_memOk
    | apply State.takeFront_memOk
    | apply State.failNode_memOk
    | split
    | simp only [memOk_mk]
    | apply memOk_fold
theorem State.retryUnsent_memOk {s : State} (m : Unsent) (h0 : MemOk p0 s) :
    MemOk p0 (State.retryUnsent s m) := by
  unfold State.retryUnsent
  with_reducible repeat' first
    | assumption
    | intro _
    | apply State.requestOrWait_memOk
    | apply State.loseUse_memOk
    | split
    | simp only [memOk_mk]
    | apply memOk_fold
theorem State.showAll_memOk {s : State} (h0 : MemOk p0 s) :
    MemOk p0 (State.showAll s) := by
  unfold State.showAll
  with_reducible repeat' first
    | assumption
    | intro _
    | apply State.showPages_memOk
    | apply memOk_foldl
    | apply memOk_foldl2
    | split
    | simp only [memOk_mk]
    | apply memOk_fold
theorem State.tagsFree_memOk {s : State} (h0 : MemOk p0 s) :
    MemOk p0 (State.tagsFree s) := by
  unfold State.tagsFree
  with_reducible repeat' first
    | assumption
    | intro _
    | apply State.showAll_memOk
    | apply State.pumpAll_memOk
    | apply State.retryUnsent_memOk
    | apply memOk_foldl
    | apply memOk_foldl2
    | split
    | simp only [memOk_mk]
    | apply memOk_fold
theorem State.answered_memOk (p : Nat) (f : Sys2Proof.Flit) (kinds : List Nat) (act : Pending → State → State) {s : State} (h3 : ∀ y0 t, MemOk p0 t → MemOk p0 (act y0 t)) (h4 : MemOk p0 s) :
    MemOk p0 (State.answered p f kinds act s) := by
  unfold State.answered
  with_reducible repeat' first
    | assumption
    | intro _
    | apply State.modPort_memOk
    | apply State.modPart_memOk
    | apply State.tagsFree_memOk
    | apply State.logFlit_memOk
    | split
    | simp only [memOk_mk]
    | apply memOk_fold
    | apply h3
theorem State.serveOld_memOk (port : Nat) (f : Sys2Proof.Flit) {t : State} (h2 : MemOk p0 t) :
    MemOk p0 (State.serveOld port f t) := by
  unfold State.serveOld
  with_reducible repeat' first
    | assumption
    | intro _
    | apply State.answered_memOk
    | apply State.answerPart_memOk
    | split
    | simp only [memOk_mk]
    | apply memOk_fold
theorem State.reply_memOk (p : Nat) (f : Sys2Proof.Flit) (tk : Nat) (vc : Nat) (payload : List Sys2Proof.Byte) {s : State} (h5 : MemOk p0 s) :
    MemOk p0 (State.reply p f tk vc payload s) := by
  unfold State.reply
  with_reducible repeat' first
    | assumption
    | intro _
    | apply State.queueFlit_memOk
    | split
    | simp only [memOk_mk]
    | apply memOk_fold
theorem State.reduceAt_memOk (core : Nat) (rop : Nat) {s : State} (r : Range) (h2 : MemOk p0 s) :
    MemOk p0 (State.reduceAt core rop s r) := by
  unfold State.reduceAt
  with_reducible repeat' first
    | assumption
    | intro _
    | apply State.engWrite_memOk
    | split
    | simp only [memOk_mk]
    | apply memOk_fold
theorem State.refuseWrite_memOk (engine : Bool) (addr : Nat) (n : Nat) {s : State} (h3 : MemOk p0 s) :
    MemOk p0 (State.refuseWrite engine addr n s) := by
  unfold State.refuseWrite
  with_reducible repeat' first
    | assumption
    | intro _
    | apply State.forceMet_memOk
    | apply memOk_elim
    | split
    | simp only [memOk_mk]
    | apply memOk_fold
theorem State.homeWrite_memOk (engine : Bool) (addr : Nat) (rop : Option Nat) (bs : List (Sys2Proof.Byte × Bool)) {s : State} (h4 : MemOk p0 s) :
    MemOk p0 (State.homeWrite engine addr rop bs s).2 := by
  unfold State.homeWrite
  with_reducible repeat' first
    | assumption
    | intro _
    | apply State.refuseWrite_memOk
    | apply State.reduceAt_memOk
    | apply State.writeDram_memOk
    | split
    | simp only [memOk_mk]
    | apply memOk_fold
theorem State.homeWrite_memOk_eq {engine : Bool} {addr : Nat} {rop : Option Nat} {bs : List (Sys2Proof.Byte × Bool)} {s : State} {o_ t_} (e : (State.homeWrite engine addr rop bs s) = (o_, t_)) (h4 : MemOk p0 s) :
    MemOk p0 t_ := by
  have := State.homeWrite_memOk engine addr rop bs h4
  rwa [e] at this
theorem State.serveWrite_memOk (port : Nat) (f : Sys2Proof.Flit) {t : State} (h2 : MemOk p0 t) :
    MemOk p0 (State.serveWrite port f t) := by
  unfold State.serveWrite
  with_reducible repeat' first
    | assumption
    | intro _
    | apply State.logFlit_memOk
    | apply State.homeWrite_memOk
    | (refine State.homeWrite_memOk_eq (by assumption) ?_)
    | apply State.reply_memOk
    | split
    | simp only [memOk_mk]
    | apply memOk_fold
theorem State.fillSector_memOk (core : Nat) (loc : Nat) (cache : Nat) (x : Sector) {s : State} (h4 : MemOk p0 s) :
    MemOk p0 (State.fillSector core loc cache x s) := by
  unfold State.fillSector
  with_reducible repeat' first
    | assumption
    | intro _
    | apply State.modRdc_memOk
    | apply State.modCore_memOk
    | split
    | simp only [memOk_mk]
    | apply memOk_fold
theorem State.fillPart_memOk (core : Nat) (a : Access) (r : RemotePart) (f : Sys2Proof.Flit) {s : State} (h4 : MemOk p0 s) :
    MemOk p0 (State.fillPart core a r f s) := by
  unfold State.fillPart
  with_reducible repeat' first
    | assumption
    | intro _
    | apply State.modCore_memOk
    | apply State.fillSector_memOk
    | apply memOk_foldl
    | apply memOk_foldl2
    | split
    | simp only [memOk_mk]
    | apply memOk_fold
theorem State.serveData_memOk (port : Nat) (f : Sys2Proof.Flit) {t : State} (h2 : MemOk p0 t) :
    MemOk p0 (State.serveData port f t) := by
  unfold State.serveData
  with_reducible repeat' first
    | assumption
    | intro _
    | apply State.answered_memOk
    | apply State.losePart_memOk
    | apply State.fillPart_memOk
    | apply State.answerPart_memOk
    | apply State.answerCmd_memOk
    | apply State.loseCmdPart_memOk
    | apply State.settleCore_memOk
    | apply State.takeCode_memOk
    | apply State.takeFront_memOk
    | apply memOk_foldl
    | apply memOk_foldl2
    | apply memOk_getD
    | split
    | simp only [memOk_mk]
    | apply memOk_fold
theorem State.serveAtomic_memOk (port : Nat) (f : Sys2Proof.Flit) {t : State} (h2 : MemOk p0 t) :
    MemOk p0 (State.serveAtomic port f t) := by
  unfold State.serveAtomic
  with_reducible repeat' first
    | assumption
    | intro _
    | apply State.logFlit_memOk
    | apply State.reply_memOk
    | apply State.writeDram_memOk
    | split
    | simp only [memOk_mk]
    | apply memOk_fold
theorem State.serveReduce_memOk (port : Nat) (f : Sys2Proof.Flit) {t : State} (h2 : MemOk p0 t) :
    MemOk p0 (State.serveReduce port f t) := by
  unfold State.serveReduce
  with_reducible repeat' first
    | assumption
    | intro _
    | apply State.logFlit_memOk
    | apply State.homeWrite_memOk
    | (refine State.homeWrite_memOk_eq (by assumption) ?_)
    | apply State.reply_memOk
    | split
    | simp only [memOk_mk]
    | apply memOk_fold
theorem State.serveAck_memOk (port : Nat) (f : Sys2Proof.Flit) {t : State} (h2 : MemOk p0 t) :
    MemOk p0 (State.serveAck port f t) := by
  unfold State.serveAck
  with_reducible repeat' first
    | assumption
    | intro _
    | apply State.answered_memOk
    | apply State.answerPart_memOk
    | apply State.answerCmd_memOk
    | apply State.post_memOk
    | apply State.failNode_memOk
    | split
    | simp only [memOk_mk]
    | apply memOk_fold
theorem State.askRetire_memOk (c : Nat) {s : State} (h1 : MemOk p0 s) :
    MemOk p0 (State.askRetire c s) := by
  unfold State.askRetire
  with_reducible repeat' first
    | assumption
    | intro _
    | apply State.post_memOk
    | split
    | simp only [memOk_mk]
    | apply memOk_fold
theorem State.arriveNamed_memOk (c : Nat) (n : Nat) (gang : Option Nat) (err : Bool) {s : State} (h4 : MemOk p0 s) :
    MemOk p0 (State.arriveNamed c n gang err s) := by
  unfold State.arriveNamed
  with_reducible repeat' first
    | assumption
    | intro _
    | apply State.modBar_memOk
    | apply State.completeNamed_memOk
    | split
    | simp only [memOk_mk]
    | apply memOk_fold
theorem State.serveArrival_memOk (port : Nat) (f : Sys2Proof.Flit) {t : State} (h2 : MemOk p0 t) :
    MemOk p0 (State.serveArrival port f t) := by
  unfold State.serveArrival
  with_reducible repeat' first
    | assumption
    | intro _
    | apply State.logFlit_memOk
    | apply State.reply_memOk
    | apply State.askRetire_memOk
    | apply State.arriveNamed_memOk
    | apply State.acquire_memOk
    | split
    | simp only [memOk_mk]
    | apply memOk_fold
theorem State.sendResult_memOk (part : Nat) (h : Nat) (n : Nat) {s : State} (o : Outgoing) (h3 : MemOk p0 s) :
    MemOk p0 (State.sendResult part h n s o) := by
  unfold State.sendResult
  with_reducible repeat' first
    | assumption
    | intro _
    | apply State.requestOrWait_memOk
    | apply State.failNode_memOk
    | split
    | simp only [memOk_mk]
    | apply memOk_fold
theorem State.writeMarked_memOk (k : Nat) (part : Nat) (h : Nat) (n : Nat) (va : Nat) (bs : List (Sys2Proof.Byte × Bool)) {s : State} (h6 : MemOk p0 s) :
    MemOk p0 (State.writeMarked k part h n va bs s).2 := by
  unfold State.writeMarked
  with_reducible repeat' first
    | assumption
    | intro _
    | apply State.modCmd_memOk
    | apply State.engWrite_memOk
    | apply State.sendResult_memOk
    | apply State.forceMet_memOk
    | apply memOk_foldl
    | apply memOk_foldl2
    | split
    | simp only [memOk_mk]
    | apply memOk_fold
theorem State.writeMarked_memOk_eq {k : Nat} {part : Nat} {h : Nat} {n : Nat} {va : Nat} {bs : List (Sys2Proof.Byte × Bool)} {s : State} {o_ t_} (e : (State.writeMarked k part h n va bs s) = (o_, t_)) (h6 : MemOk p0 s) :
    MemOk p0 t_ := by
  have := State.writeMarked_memOk k part h n va bs h6
  rwa [e] at this
theorem State.giveStep_memOk (part : Nat) (a : StepAt) (c : Cmd) {s : State} (h3 : MemOk p0 s) :
    MemOk p0 (State.giveStep part a c s) := by
  unfold State.giveStep
  with_reducible repeat' first
    | assumption
    | intro _
    | apply State.queueFlit_memOk
    | apply memOk_getD
    | split
    | simp only [memOk_mk]
    | apply memOk_fold
theorem State.contribute_memOk (h : Nat) (n : Nat) {s : State} (h2 : MemOk p0 s) :
    MemOk p0 (State.contribute h n s) := by
  unfold State.contribute
  with_reducible repeat' first
    | assumption
    | intro _
    | apply State.failNode_memOk
    | apply State.giveStep_memOk
    | apply State.addCmd_memOk
    | (refine State.addCmd_memOk_eq (by assumption) ?_)
    | apply State.askReads_memOk
    | apply State.post_memOk
    | split
    | simp only [memOk_mk]
    | apply memOk_fold
theorem State.logResult_memOk (dom : Nat) (port : Nat) (f : Sys2Proof.Flit) {s : State} (col : Bool) (h3 : MemOk p0 s) :
    MemOk p0 (State.logResult dom port f s col) := by
  unfold State.logResult
  with_reducible repeat' first
    | assumption
    | intro _
    | apply State.modDieCol_memOk
    | apply State.failSnap_memOk
    | split
    | simp only [memOk_mk]
    | apply memOk_fold
theorem State.serveResult_memOk (replayed : Bool) (port : Nat) (f : Sys2Proof.Flit) {s : State} (h3 : MemOk p0 s) :
    MemOk p0 (State.serveResult replayed port f s) := by
  unfold State.serveResult
  with_reducible repeat' first
    | assumption
    | intro _
    | apply State.logResult_memOk
    | apply State.failNode_memOk
    | apply State.writeMarked_memOk
    | (refine State.writeMarked_memOk_eq (by assumption) ?_)
    | apply State.modRun_memOk
    | apply State.post_memOk
    | apply State.contribute_memOk
    | apply memOk_foldl
    | apply memOk_foldl2
    | split
    | simp only [memOk_mk]
    | apply memOk_fold
theorem State.serveRead_memOk (port : Nat) (f : Sys2Proof.Flit) {t : State} (h2 : MemOk p0 t) :
    MemOk p0 (State.serveRead port f t) := by
  unfold State.serveRead
  with_reducible repeat' first
    | assumption
    | intro _
    | apply State.logFlit_memOk
    | apply State.reply_memOk
    | split
    | simp only [memOk_mk]
    | apply memOk_fold
theorem State.replay_memOk (m : Remap) (l : Logged) {s : State} (h2 : MemOk p0 s) :
    MemOk p0 (State.replay m l s) := by
  unfold State.replay
  with_reducible repeat' first
    | assumption
    | intro _
    | apply State.post_memOk
    | apply State.writeDram_memOk
    | apply State.serveWrite_memOk
    | apply State.serveRead_memOk
    | apply State.serveData_memOk
    | apply State.serveAtomic_memOk
    | apply State.serveOld_memOk
    | apply State.serveAck_memOk
    | apply State.serveArrival_memOk
    | apply State.serveDecrement_memOk
    | apply State.serveResult_memOk
    | apply State.serveReduce_memOk
    | split
    | simp only [memOk_mk]
    | apply memOk_fold
theorem execQuantumExpiry_memOk {ctx : Nat} {gang : Nat} {s : State} {t_ : State} (e : (execQuantumExpiry ctx gang s) = .next t_) (h2 : MemOk p0 s) :
    MemOk p0 t_ := by
  unfold execQuantumExpiry at e
  injection e with e
  subst e
  with_reducible repeat' first
    | assumption
    | intro _
    | apply State.modGang_memOk
    | apply memOk_getD
    | split
    | simp only [memOk_mk]
    | apply memOk_fold
theorem State.startOrHold_memOk (c : Nat) (die : Nat) {s : State} (h2 : MemOk p0 s) :
    MemOk p0 (State.startOrHold c die s) := by
  unfold State.startOrHold
  with_reducible repeat' first
    | assumption
    | intro _
    | apply State.modCtx_memOk
    | apply State.post_memOk
    | split
    | simp only [memOk_mk]
    | apply memOk_fold
theorem State.dropConst_memOk (core : Nat) {s : State} (h1 : MemOk p0 s) :
    MemOk p0 (State.dropConst core s) := by
  unfold State.dropConst
  with_reducible repeat' first
    | assumption
    | intro _
    | apply State.keepOut_memOk
    | apply State.modCore_memOk
    | split
    | simp only [memOk_mk]
    | apply memOk_fold
theorem State.takeBanks_memOk (us : List UnitName) (fresh : Tag) {s : State} (h2 : MemOk p0 s) :
    MemOk p0 (State.takeBanks us fresh s) := by
  unfold State.takeBanks
  with_reducible repeat' first
    | assumption
    | intro _
    | apply State.beforeWrite_memOk
    | apply State.setTag_memOk
    | apply memOk_foldl
    | apply memOk_foldl2
    | split
    | simp only [memOk_mk]
    | apply memOk_fold
theorem State.placeCtx_memOk (c : Nat) (x : Ctx) (p : Site) (acq : Nat) {s : State} (h4 : MemOk p0 s) :
    MemOk p0 (State.placeCtx c x p acq s) := by
  unfold State.placeCtx
  with_reducible repeat' first
    | assumption
    | intro _
    | apply State.takeBanks_memOk
    | apply State.startOrHold_memOk
    | apply State.dropConst_memOk
    | apply State.acquire_memOk
    | split
    | simp only [memOk_mk]
    | apply memOk_fold
theorem execCgrun_memOk {l : Bool} {d : BitVec 8} {a : BitVec 8} {b : BitVec 5} {s : State} {t_ : State} (e : (execCgrun l d a b s) = .next t_) (h4 : MemOk p0 s) :
    MemOk p0 t_ := by
  unfold execCgrun at e
  injection e with e
  subst e
  with_reducible repeat' first
    | assumption
    | intro _
    | apply State.issueEngine_memOk
    | split
    | simp only [memOk_mk]
    | apply memOk_fold
theorem State.endGroupWord_memOk (c : Nat) (j : Nat) (asked : Bool) {s : State} (h3 : MemOk p0 s) :
    MemOk p0 (State.endGroupWord c j asked s) := by
  unfold State.endGroupWord
  with_reducible repeat' first
    | assumption
    | intro _
    | apply State.modCtx_memOk
    | split
    | simp only [memOk_mk]
    | apply memOk_fold
theorem State.fillConst_memOk (core : Nat) (x1 : List Place) {x2 : State} (h2 : MemOk p0 x2) :
    MemOk p0 (State.fillConst core x1 x2) := by
  induction x1 generalizing x2 with
  | nil =>
    unfold State.fillConst
    with_reducible repeat' first
      | assumption
      | intro _
      | apply State.modCore_memOk
      | split
      | simp only [memOk_mk]
      | apply memOk_fold
  | cons b_ l_ ih =>
    unfold State.fillConst
    with_reducible repeat' first
      | assumption
      | intro _
      | apply ih
      | apply State.modCore_memOk
      | split
      | simp only [memOk_mk]
      | apply memOk_fold
theorem State.fillCode_memOk (x : Ctx) (vas : List Nat) {s : State} (h2 : MemOk p0 s) :
    MemOk p0 (State.fillCode x vas s) := by
  unfold State.fillCode
  with_reducible repeat' first
    | assumption
    | intro _
    | apply State.fillConst_memOk
    | apply State.modCore_memOk
    | split
    | simp only [memOk_mk]
    | apply memOk_fold
theorem State.askSector_memOk (part : Nat) (core : Nat) (at_ : Nat) (hold : Bool) {s : State} (h4 : MemOk p0 s) :
    MemOk p0 (State.askSector part core at_ hold s) := by
  unfold State.askSector
  with_reducible repeat' first
    | assumption
    | intro _
    | apply State.requestOrWait_memOk
    | apply State.takeCode_memOk
    | split
    | simp only [memOk_mk]
    | apply memOk_fold
theorem State.askCode_memOk (part : Nat) (core : Nat) (p : Place) {s : State} (h3 : MemOk p0 s) :
    MemOk p0 (State.askCode part core p s) := by
  unfold State.askCode
  with_reducible repeat' first
    | assumption
    | intro _
    | apply State.askSector_memOk
    | split
    | simp only [memOk_mk]
    | apply memOk_fold
theorem State.prepare_memOk (c : Nat) (g : Nat) (slices : Nat) (ups : List Upset) {s : State} (h4 : MemOk p0 s) :
    MemOk p0 (State.prepare c g slices ups s).state := by
  unfold State.prepare
  with_reducible repeat' first
    | assumption
    | intro _
    | apply State.afterMove_memOk
    | apply State.modGg_memOk
    | apply State.askCode_memOk
    | apply State.raiseAt_memOk
    | apply State.holdClause_memOk
    | apply State.fillCode_memOk
    | apply State.raise_memOk
    | apply memOk_getD
    | split
    | simp only [memOk_mk]
    | apply memOk_fold
theorem State.runPortions_memOk (run : Instr → State → Result) (c : Nat) (ups : List Upset) (ps : List (Nat × Nat))
    {s : State} (h0 : ∀ i t u, MemOk p0 t → run i t = .next u → MemOk p0 u) (h4 : MemOk p0 s) :
    MemOk p0 (State.runPortions run c ups ps s) := by
  induction ps generalizing s with
  | nil => exact h4
  | cons b l ih =>
    obtain ⟨g, m⟩ := b
    have hp := State.prepare_memOk c g m ups h4
    unfold State.runPortions
    split
    · rename_i e
      rw [e] at hp
      exact ih hp
    · rename_i e
      rw [e] at hp
      split
      · rename_i e2
        exact ih (h0 _ _ _ hp e2)
      · exact ih hp
      · exact ih hp
theorem State.keepAsks_memOk {trial : State} {s : State} (x : Ctx) (h0 : MemOk p0 trial) (h1 : MemOk p0 s) :
    MemOk p0 (State.keepAsks trial s x) := by
  unfold State.keepAsks
  with_reducible repeat' first
    | assumption
    | intro _
    | apply State.askSector_memOk
    | apply memOk_foldl
    | apply memOk_foldl2
    | apply memOk_id
    | apply memOk_getD
    | apply memOk_elim
    | split
    | simp only [memOk_mk]
    | apply memOk_fold
theorem State.runGroup_memOk (run : Sys2Proof.Instr → State → Result) (c : Nat) (j : Nat) (ups : List Upset) (asked : Bool) {s : State} (h0 : ∀ i t u, MemOk p0 t → run i t = .next u → MemOk p0 u) (h5 : MemOk p0 s) :
    MemOk p0 (State.runGroup run c j ups asked s) := by
  unfold State.runGroup
  with_reducible repeat' first
    | assumption
    | intro _
    | apply State.runPortions_memOk
    | apply State.modCtx_memOk
    | apply State.endGroupWord_memOk
    | apply State.keepAsks_memOk
    | apply memOk_getD
    | split
    | simp only [memOk_mk]
    | apply memOk_fold
    | apply h0
theorem State.failPlane_memOk (p : Nat) {s : State} (h1 : MemOk p0 s) :
    MemOk p0 (State.failPlane p s) := by
  unfold State.failPlane
  with_reducible repeat' first
    | assumption
    | intro _
    | apply State.failNode_memOk
    | apply memOk_foldl
    | apply memOk_foldl2
    | split
    | simp only [memOk_mk]
    | apply memOk_fold
theorem State.loseRequest_memOk (key : Nat) {s : State} (h1 : MemOk p0 s) :
    MemOk p0 (State.loseRequest key s) := by
  unfold State.loseRequest
  with_reducible repeat' first
    | assumption
    | intro _
    | apply State.loseUse_memOk
    | split
    | simp only [memOk_mk]
    | apply memOk_fold
theorem State.moveFlit_memOk {s : State} (f : Sys2Proof.Flit) (h0 : MemOk p0 s) :
    MemOk p0 (State.moveFlit s f) := by
  unfold State.moveFlit
  with_reducible repeat' first
    | assumption
    | intro _
    | apply State.queueFlit_memOk
    | apply State.loseRequest_memOk
    | split
    | simp only [memOk_mk]
    | apply memOk_fold
theorem State.loseRequests_memOk (test : Nat → Pending → Bool) {s : State} (h1 : MemOk p0 s) :
    MemOk p0 (State.loseRequests test s) := by
  unfold State.loseRequests
  with_reducible repeat' first
    | assumption
    | intro _
    | apply State.tagsFree_memOk
    | apply State.loseRequest_memOk
    | apply memOk_foldl
    | apply memOk_foldl2
    | split
    | simp only [memOk_mk]
    | apply memOk_fold
theorem State.portDown_memOk (p : Nat) {s : State} (h1 : MemOk p0 s) :
    MemOk p0 (State.portDown p s) := by
  unfold State.portDown
  with_reducible repeat' first
    | assumption
    | intro _
    | apply State.modPort_memOk
    | apply State.loseRequests_memOk
    | apply State.moveFlit_memOk
    | apply State.failSnap_memOk
    | apply State.retireNotices_memOk
    | apply State.failPlane_memOk
    | apply memOk_foldl
    | apply memOk_foldl2
    | split
    | simp only [memOk_mk]
    | apply memOk_fold
theorem State.portEvent_memOk (p : Nat) {s : State} (h1 : MemOk p0 s) :
    MemOk p0 (State.portEvent p s) := by
  unfold State.portEvent
  with_reducible repeat' first
    | assumption
    | intro _
    | apply State.sourceEvents_memOk
    | (refine State.sourceEvents_memOk_eq (by assumption) ?_)
    | apply State.portDown_memOk
    | split
    | simp only [memOk_mk]
    | apply memOk_fold
theorem State.takeFlit_memOk (p : Nat) (f : Sys2Proof.Flit) (kind : Bool) (act : State → State) {s : State} (h3 : ∀ t, MemOk p0 t → MemOk p0 (act t)) (h4 : MemOk p0 s) :
    MemOk p0 (State.takeFlit p f kind act s) := by
  unfold State.takeFlit
  with_reducible repeat' first
    | assumption
    | intro _
    | apply State.portEvent_memOk
    | apply State.modPort_memOk
    | apply State.post_memOk
    | split
    | simp only [memOk_mk]
    | apply memOk_fold
    | apply h3
theorem State.takeKind_memOk (p : Nat) (tk : Nat) (f : Sys2Proof.Flit) (act : State → State) {s : State} (h3 : ∀ t, MemOk p0 t → MemOk p0 (act t)) (h4 : MemOk p0 s) :
    MemOk p0 (State.takeKind p tk f act s) := by
  unfold State.takeKind
  with_reducible repeat' first
    | assumption
    | intro _
    | apply State.takeFlit_memOk
    | split
    | simp only [memOk_mk]
    | apply memOk_fold
    | apply h3
theorem execReadRequest_memOk {port : Nat} {f : Sys2Proof.Flit} {s : State} {t_ : State} (e : (execReadRequest port f s) = .next t_) (h2 : MemOk p0 s) :
    MemOk p0 t_ := by
  unfold execReadRequest at e
  injection e with e
  subst e
  with_reducible repeat' first
    | assumption
    | intro _
    | apply State.takeKind_memOk
    | apply State.serveRead_memOk
    | split
    | simp only [memOk_mk]
    | apply memOk_fold
theorem State.dropStaged_memOk (core : Nat) {s : State} (h1 : MemOk p0 s) :
    MemOk p0 (State.dropStaged core s) := by
  unfold State.dropStaged
  with_reducible repeat' first
    | assumption
    | intro _
    | apply State.gather_memOk
    | apply memOk_foldl
    | apply memOk_foldl2
    | apply memOk_getD
    | split
    | simp only [memOk_mk]
    | apply memOk_fold
theorem execPfence_memOk {paths : BitVec 4} {scope : BitVec 3} {s : State} {t_ : State} (e : (execPfence paths scope s) = .next t_) (h2 : MemOk p0 s) :
    MemOk p0 t_ := by
  unfold execPfence at e
  injection e with e
  subst e
  with_reducible repeat' first
    | assumption
    | intro _
    | apply State.drainWrites_memOk
    | apply State.dropL1_memOk
    | apply State.dropConst_memOk
    | apply State.endWord_memOk
    | apply State.dropStaged_memOk
    | split
    | simp only [memOk_mk]
    | apply memOk_fold
theorem State.wakeCancels_memOk (k : Nat) {s : State} (h1 : MemOk p0 s) :
    MemOk p0 (State.wakeCancels k s) := by
  unfold State.wakeCancels
  with_reducible repeat' first
    | assumption
    | intro _
    | split
    | simp only [memOk_mk]
    | apply memOk_fold
theorem State.enterSources_memOk (h : Nat) {s : State} (h1 : MemOk p0 s) :
    MemOk p0 (State.enterSources h s) := by
  unfold State.enterSources
  with_reducible repeat' first
    | assumption
    | intro _
    | apply State.enterNode_memOk
    | apply memOk_foldl
    | apply memOk_foldl2
    | split
    | simp only [memOk_mk]
    | apply memOk_fold
theorem State.openRun_memOk (h : Nat) {s : State} (h1 : MemOk p0 s) :
    MemOk p0 (State.openRun h s) := by
  unfold State.openRun
  with_reducible repeat' first
    | assumption
    | intro _
    | apply State.modRun_memOk
    | apply State.enterSources_memOk
    | apply memOk_foldl
    | apply memOk_foldl2
    | split
    | simp only [memOk_mk]
    | apply memOk_fold
theorem State.redux_memOk (accept : Nat → Bool) (sh : Shadow) (l : Bool) (d : BitVec 8) (a : BitVec 8) (out : Mode → List (Nat × Nat × Bool) → Nat → LaneOut) {s : State} (h6 : MemOk p0 s) :
    MemOk p0 (State.redux accept sh l d a out s) := by
  unfold State.redux
  with_reducible repeat' first
    | assumption
    | intro _
    | apply State.endWordL_memOk
    | apply State.checked_memOk
    | apply State.struck_memOk
    | apply State.putOuts_memOk
    | split
    | simp only [memOk_mk]
    | apply memOk_fold
theorem execReduxFmin_memOk {l : Bool} {d : BitVec 8} {a : BitVec 8} {s : State} {t_ : State} (e : (execReduxFmin l d a s) = .next t_) (h3 : MemOk p0 s) :
    MemOk p0 t_ := by
  unfold execReduxFmin at e
  injection e with e
  subst e
  with_reducible repeat' first
    | assumption
    | intro _
    | apply State.redux_memOk
    | split
    | simp only [memOk_mk]
    | apply memOk_fold
theorem State.dropNode_memOk (i : Nat) {s : State} (h1 : MemOk p0 s) :
    MemOk p0 (State.dropNode i s) := by
  unfold State.dropNode
  with_reducible repeat' first
    | assumption
    | intro _
    | split
    | simp only [memOk_mk]
    | apply memOk_fold
theorem State.float2_memOk (shadow : Shadow) (f : Fmt → FMode → Nat → Nat → Nat) (l : Bool) (d : BitVec 8) (a : BitVec 8) (b : BitVec 8) {s : State} (h6 : MemOk p0 s) :
    MemOk p0 (State.float2 shadow f l d a b s) := by
  unfold State.float2
  with_reducible repeat' first
    | assumption
    | intro _
    | apply State.compute_memOk
    | split
    | simp only [memOk_mk]
    | apply memOk_fold
theorem execFadd_memOk {l : Bool} {d : BitVec 8} {a : BitVec 8} {b : BitVec 8} {s : State} {t_ : State} (e : (execFadd l d a b s) = .next t_) (h4 : MemOk p0 s) :
    MemOk p0 t_ := by
  unfold execFadd at e
  injection e with e
  subst e
  with_reducible repeat' first
    | assumption
    | intro _
    | apply State.float2_memOk
    | split
    | simp only [memOk_mk]
    | apply memOk_fold
theorem State.startSnap_memOk (k : Nat) (c : Cmd) {s : State} (h2 : MemOk p0 s) :
    MemOk p0 (State.startSnap k c s) := by
  unfold State.startSnap
  with_reducible repeat' first
    | assumption
    | intro _
    | apply State.endCmd_memOk
    | apply State.post_memOk
    | apply State.modDomain_memOk
    | split
    | simp only [memOk_mk]
    | apply memOk_fold
theorem State.dropLines_memOk (core : Nat) (lines : List Nat) {s : State} (h2 : MemOk p0 s) :
    MemOk p0 (State.dropLines core lines s) := by
  unfold State.dropLines
  with_reducible repeat' first
    | assumption
    | intro _
    | apply State.keepOut_memOk
    | apply State.modCore_memOk
    | split
    | simp only [memOk_mk]
    | apply memOk_fold
theorem State.dropDieLines_memOk (core : Nat) (lines : List Nat) {s : State} (h2 : MemOk p0 s) :
    MemOk p0 (State.dropDieLines core lines s) := by
  unfold State.dropDieLines
  with_reducible repeat' first
    | assumption
    | intro _
    | apply State.keepOut_memOk
    | apply State.dropRdc_memOk
    | apply State.dropLines_memOk
    | split
    | simp only [memOk_mk]
    | apply memOk_fold
theorem State.discardWrote_memOk (core : Nat) (c : Cmd) {s : State} (h2 : MemOk p0 s) :
    MemOk p0 (State.discardWrote core c s) := by
  unfold State.discardWrote
  with_reducible repeat' first
    | assumption
    | intro _
    | apply State.dropDieLines_memOk
    | split
    | simp only [memOk_mk]
    | apply memOk_fold
theorem State.arriveAt_memOk (c : Cmd) (ctx : Nat) (b : Nat) {s : State} (h3 : MemOk p0 s) :
    MemOk p0 (State.arriveAt c ctx b s) := by
  unfold State.arriveAt
  with_reducible repeat' first
    | assumption
    | intro _
    | apply State.askRetire_memOk
    | apply State.arriveNamed_memOk
    | apply State.discardWrote_memOk
    | split
    | simp only [memOk_mk]
    | apply memOk_fold
theorem State.sendArrival_memOk (k : Nat) (c : Cmd) {s : State} (h2 : MemOk p0 s) :
    MemOk p0 (State.sendArrival k c s) := by
  unfold State.sendArrival
  with_reducible repeat' first
    | assumption
    | intro _
    | apply State.pumpCmd_memOk
    | apply State.modCmd_memOk
    | split
    | simp only [memOk_mk]
    | apply memOk_fold
theorem State.remoteDone_memOk (k : Nat) {s : State} (h1 : MemOk p0 s) :
    MemOk p0 (State.remoteDone k s) := by
  unfold State.remoteDone
  with_reducible repeat' first
    | assumption
    | intro _
    | apply State.modCmd_memOk
    | apply State.askRetire_memOk
    | apply State.arriveAt_memOk
    | split
    | simp only [memOk_mk]
    | apply memOk_fold
theorem State.finishFlag_memOk (r : RingRef) (c : Cmd) {s : State} (h2 : MemOk p0 s) :
    MemOk p0 (State.finishFlag r c s) := by
  unfold State.finishFlag
  with_reducible repeat' first
    | assumption
    | intro _
    | apply State.modGang_memOk
    | apply State.beforeRegs_memOk
    | split
    | simp only [memOk_mk]
    | apply memOk_fold
theorem State.destDone_memOk (k : Nat) {s : State} (h1 : MemOk p0 s) :
    MemOk p0 (State.destDone k s) := by
  unfold State.destDone
  with_reducible repeat' first
    | assumption
    | intro _
    | apply State.modCmd_memOk
    | apply State.arriveAt_memOk
    | apply State.sendArrival_memOk
    | apply State.finishFlag_memOk
    | apply State.remoteDone_memOk
    | split
    | simp only [memOk_mk]
    | apply memOk_fold
theorem State.finishSlot_memOk (r : RingRef) (c : Cmd) {s : State} (h2 : MemOk p0 s) :
    MemOk p0 (State.finishSlot r c s) := by
  unfold State.finishSlot
  with_reducible repeat' first
    | assumption
    | intro _
    | apply State.modCtx_memOk
    | apply State.writeWindow_memOk
    | split
    | simp only [memOk_mk]
    | apply memOk_fold
theorem State.localDone_memOk (k : Nat) {s : State} (h1 : MemOk p0 s) :
    MemOk p0 (State.localDone k s) := by
  unfold State.localDone
  with_reducible repeat' first
    | assumption
    | intro _
    | apply State.wakeCancels_memOk
    | apply State.modCmd_memOk
    | apply State.finishSlot_memOk
    | apply State.discardWrote_memOk
    | split
    | simp only [memOk_mk]
    | apply memOk_fold
theorem State.endCopy_memOk (k : Nat) (code : Nat) {s : State} (h2 : MemOk p0 s) :
    MemOk p0 (State.endCopy k code s) := by
  unfold State.endCopy
  with_reducible repeat' first
    | assumption
    | intro _
    | apply State.destDone_memOk
    | apply State.localDone_memOk
    | apply State.modCmd_memOk
    | split
    | simp only [memOk_mk]
    | apply memOk_fold
theorem State.writeCopy_memOk (k : Nat) (c : Cmd) (rs : List Range) {s : State} (h3 : MemOk p0 s) :
    MemOk p0 (State.writeCopy k c rs s) := by
  unfold State.writeCopy
  with_reducible repeat' first
    | assumption
    | intro _
    | apply State.reduceAt_memOk
    | apply State.engWrite_memOk
    | apply State.askWrites_memOk
    | apply State.modCmd_memOk
    | apply State.forceMet_memOk
    | apply memOk_foldl
    | apply memOk_foldl2
    | split
    | simp only [memOk_mk]
    | apply memOk_fold
theorem State.moveCopy_memOk (k : Nat) (stops : Bool) {s : State} (h2 : MemOk p0 s) :
    MemOk p0 (State.moveCopy k stops s) := by
  unfold State.moveCopy
  with_reducible repeat' first
    | assumption
    | intro _
    | apply State.free_memOk
    | (refine State.free_memOk_eq (by assumption) ?_)
    | apply State.writeCopy_memOk
    | apply State.modCmd_memOk
    | apply memOk_getD
    | split
    | simp only [memOk_mk]
    | apply memOk_fold
theorem State.settleCopy_memOk (k : Nat) {s : State} (h1 : MemOk p0 s) :
    MemOk p0 (State.settleCopy k s) := by
  unfold State.settleCopy
  with_reducible repeat' first
    | assumption
    | intro _
    | apply State.localDone_memOk
    | apply State.post_memOk
    | apply State.destDone_memOk
    | split
    | simp only [memOk_mk]
    | apply memOk_fold
theorem State.startCancel_memOk (k : Nat) (c : Cmd) (x : Ctx) {s : State} (h3 : MemOk p0 s) :
    MemOk p0 (State.startCancel k c x s) := by
  unfold State.startCancel
  with_reducible repeat' first
    | assumption
    | intro _
    | apply State.post_memOk
    | apply State.modCmd_memOk
    | apply State.endCopy_memOk
    | apply State.moveCopy_memOk
    | apply State.settleCopy_memOk
    | split
    | simp only [memOk_mk]
    | apply memOk_fold
theorem State.transferWith_memOk (f : Gang → Gang) (ds : List Dest) {s : State} (h2 : MemOk p0 s) :
    MemOk p0 (State.transferWith f ds s) := by
  unfold State.transferWith
  with_reducible repeat' first
    | assumption
    | intro _
    | apply State.askCode_memOk
    | apply State.raise_memOk
    | apply State.leaveClause_memOk
    | apply State.countWord_memOk
    | apply State.modGg_memOk
    | split
    | simp only [memOk_mk]
    | apply memOk_fold
theorem execCall_memOk {o : BitVec 24} {s : State} {t_ : State} (e : (execCall o s) = .next t_) (h1 : MemOk p0 s) :
    MemOk p0 t_ := by
  unfold execCall at e
  injection e with e
  subst e
  with_reducible repeat' first
    | assumption
    | intro _
    | apply State.checked_memOk
    | apply State.transferWith_memOk
    | split
    | simp only [memOk_mk]
    | apply memOk_fold
theorem execChainEnable_memOk {vf : Nat} {chain : Nat} {s : State} {t_ : State} (e : (execChainEnable vf chain s) = .next t_) (h2 : MemOk p0 s) :
    MemOk p0 t_ := by
  unfold execChainEnable at e
  injection e with e
  subst e
  with_reducible repeat' first
    | assumption
    | intro _
    | apply State.setPage_memOk
    | apply State.modChain_memOk
    | split
    | simp only [memOk_mk]
    | apply memOk_fold
theorem execReduxMin_memOk {l : Bool} {d : BitVec 8} {a : BitVec 8} {s : State} {t_ : State} (e : (execReduxMin l d a s) = .next t_) (h3 : MemOk p0 s) :
    MemOk p0 t_ := by
  unfold execReduxMin at e
  injection e with e
  subst e
  with_reducible repeat' first
    | assumption
    | intro _
    | apply State.redux_memOk
    | apply memOk_foldl
    | apply memOk_foldl2
    | split
    | simp only [memOk_mk]
    | apply memOk_fold
theorem State.setMgmt_memOk (off : Nat) (n : Nat) (value : Nat) {s : State} (h3 : MemOk p0 s) :
    MemOk p0 (State.setMgmt off n value s) := by
  unfold State.setMgmt
  with_reducible repeat' first
    | assumption
    | intro _
    | split
    | simp only [memOk_mk]
    | apply memOk_fold
theorem State.setResult_memOk (err : Bool) (code : Nat) {s : State} (h2 : MemOk p0 s) :
    MemOk p0 (State.setResult err code s) := by
  unfold State.setResult
  with_reducible repeat' first
    | assumption
    | intro _
    | apply State.setMgmt_memOk
    | split
    | simp only [memOk_mk]
    | apply memOk_fold
theorem State.serveNext_memOk (last : Memory) (x1 : List Memory) {x2 : State} (h2 : MemOk p0 x2) :
    MemOk p0 (State.serveNext last x1 x2) := by
  induction x1 generalizing x2 last with
  | nil =>
    unfold State.serveNext
    with_reducible repeat' first
      | assumption
      | intro _
      | apply State.setMgmt_memOk
      | apply State.post_memOk
      | apply State.setResult_memOk
      | split
      | simp only [memOk_mk]
      | apply memOk_fold
  | cons b_ l_ ih =>
    unfold State.serveNext
    with_reducible repeat' first
      | assumption
      | intro _
      | apply ih
      | apply State.setMgmt_memOk
      | apply State.post_memOk
      | apply State.setResult_memOk
      | split
      | simp only [memOk_mk]
      | apply memOk_fold
theorem State.endRequest_memOk (err : Bool) (code : Nat) {s : State} (h2 : MemOk p0 s) :
    MemOk p0 (State.endRequest err code s) := by
  unfold State.endRequest
  with_reducible repeat' first
    | assumption
    | intro _
    | apply State.serveNext_memOk
    | apply State.setResult_memOk
    | split
    | simp only [memOk_mk]
    | apply memOk_fold
theorem State.requestRefused_memOk {s : State} (h0 : MemOk p0 s) :
    MemOk p0 (State.requestRefused s) := by
  unfold State.requestRefused
  with_reducible repeat' first
    | assumption
    | intro _
    | apply State.free_memOk
    | (refine State.free_memOk_eq (by assumption) ?_)
    | apply State.endRequest_memOk
    | split
    | simp only [memOk_mk]
    | apply memOk_fold
theorem State.requestDone_memOk {s : State} (h0 : MemOk p0 s) :
    MemOk p0 (State.requestDone s) := by
  unfold State.requestDone
  with_reducible repeat' first
    | assumption
    | intro _
    | apply State.endRequest_memOk
    | split
    | simp only [memOk_mk]
    | apply memOk_fold
theorem State.setDomain_memOk (r : Sys2Proof.PartRecord) {s : State} (h1 : MemOk p0 s) :
    MemOk p0 (State.setDomain r s) := by
  unfold State.setDomain
  with_reducible repeat' first
    | assumption
    | intro _
    | apply memOk_id
    | split
    | simp only [memOk_mk]
    | apply memOk_fold
theorem State.freshTags_memOk (p : Nat) {s : State} (unit : Nat) (h1 : MemOk p0 s) :
    MemOk p0 (State.freshTags p s unit) := by
  unfold State.freshTags
  with_reducible repeat' first
    | assumption
    | intro _
    | apply memOk_foldl
    | apply memOk_foldl2
    | split
    | simp only [memOk_mk]
    | apply memOk_fold
theorem State.setVf_memOk (p : Nat) {s : State} (v : Sys2Proof.VfRecord) (h1 : MemOk p0 s) :
    MemOk p0 (State.setVf p s v) := by
  unfold State.setVf
  with_reducible repeat' first
    | assumption
    | intro _
    | apply State.modVf_memOk
    | split
    | simp only [memOk_mk]
    | apply memOk_fold
theorem State.beginTeardown_memOk (vf : Nat) (flr : Bool) {s : State} (h2 : MemOk p0 s) :
    MemOk p0 (State.beginTeardown vf flr s) := by
  unfold State.beginTeardown
  with_reducible repeat' first
    | assumption
    | intro _
    | apply State.post_memOk
    | apply State.setPage_memOk
    | apply State.modVf_memOk
    | split
    | simp only [memOk_mk]
    | apply memOk_fold
theorem State.putPart_memOk (r : Sys2Proof.PartRecord) {s : State} (h1 : MemOk p0 s) :
    MemOk p0 (State.putPart r s) := by
  unfold State.putPart
  with_reducible repeat' first
    | assumption
    | intro _
    | apply State.modPart_memOk
    | apply memOk_id
    | split
    | simp only [memOk_mk]
    | apply memOk_fold
theorem State.putRecord_memOk (r : Sys2Proof.PartRecord) {s : State} (h1 : MemOk p0 s) :
    MemOk p0 (State.putRecord r s) := by
  unfold State.putRecord
  with_reducible repeat' first
    | assumption
    | intro _
    | apply State.putPart_memOk
    | apply State.freshTags_memOk
    | apply State.setVf_memOk
    | apply State.beginTeardown_memOk
    | apply State.setDomain_memOk
    | apply memOk_foldl
    | apply memOk_foldl2
    | apply memOk_id
    | split
    | simp only [memOk_mk]
    | apply memOk_fold
theorem execPartitionCreate_memOk {record : Sys2Proof.PartRecord} {s : State} {t_ : State} (e : (execPartitionCreate record s) = .next t_) (h1 : MemOk p0 s) :
    MemOk p0 t_ := by
  unfold execPartitionCreate at e
  injection e with e
  subst e
  with_reducible repeat' first
    | assumption
    | intro _
    | apply State.requestRefused_memOk
    | apply State.requestDone_memOk
    | apply State.putRecord_memOk
    | apply State.post_memOk
    | apply memOk_id
    | split
    | simp only [memOk_mk]
    | apply memOk_fold
theorem State.memWord_memOk (fs : List Field) (addrRegs : List Nat) (opCheck : Option FaultInfo) (raw : Nat → Nat) (tgt : Nat → LaneFail ⊕ Target) (late : List (Nat × Target) → Option FaultInfo) (l : Bool) (a : Nat) (n : Nat) (act : List (Nat × Target) → State → State) {s : State} (h9 : ∀ y0 t, MemOk p0 t → MemOk p0 (act y0 t)) (h10 : MemOk p0 s) :
    MemOk p0 (State.memWord fs addrRegs opCheck raw tgt late l a n act s) := by
  unfold State.memWord
  with_reducible repeat' first
    | assumption
    | intro _
    | apply State.endWordL_memOk
    | apply State.checked_memOk
    | apply State.struck_memOk
    | split
    | simp only [memOk_mk]
    | apply memOk_fold
    | apply h9
theorem endIssued_memOk (l : Bool) (a : Nat) (n : Nat) (r : State × Bool) (h3 : MemOk p0 r.1) :
    MemOk p0 (endIssued l a n r) := by
  unfold endIssued
  with_reducible repeat' first
    | assumption
    | intro _
    | apply State.endWordL_memOk
    | split
    | simp only [memOk_mk]
    | apply memOk_fold
theorem State.dropSectors_memOk (core : Nat) (sectors : List Nat) {s : State} (h2 : MemOk p0 s) :
    MemOk p0 (State.dropSectors core sectors s) := by
  unfold State.dropSectors
  with_reducible repeat' first
    | assumption
    | intro _
    | apply State.modCore_memOk
    | apply State.dropRdc_memOk
    | apply State.overtaken_memOk
    | split
    | simp only [memOk_mk]
    | apply memOk_fold
theorem State.askAll_memOk (k : Nat) (x1 : List Ask) {x2 : State} (h2 : MemOk p0 x2) :
    MemOk p0 (State.askAll k x1 x2).2 := by
  induction x1 generalizing x2 with
  | nil =>
    unfold State.askAll
    with_reducible repeat' first
      | assumption
      | intro _
      | apply State.request_memOk
      | (refine State.request_memOk_eq (by assumption) ?_)
      | split
      | simp only [memOk_mk]
      | apply memOk_fold
  | cons b_ l_ ih =>
    have ih2 : ∀ {s_ t_ o_}, State.askAll k l_ s_ = (o_, t_) → MemOk p0 s_ → MemOk p0 t_ := by
      intro s_ t_ o_ e h
      have := ih h
      rwa [e] at this
    unfold State.askAll
    with_reducible repeat' first
      | assumption
      | intro _
      | apply ih
      | (refine ih2 (by assumption) ?_)
      | apply State.request_memOk
      | (refine State.request_memOk_eq (by assumption) ?_)
      | split
      | simp only [memOk_mk]
      | apply memOk_fold
theorem State.askAll_memOk_eq {k : Nat} {x1 : List Ask} {x2 : State} {o_ t_} (e : (State.askAll k x1 x2) = (o_, t_)) (h2 : MemOk p0 x2) :
    MemOk p0 t_ := by
  have := State.askAll_memOk k x1 h2
  rwa [e] at this
theorem State.patchMarks_memOk (core : Nat) (sectors : List Nat) (mark : Nat → Bool → Bool) {s : State} (h3 : MemOk p0 s) :
    MemOk p0 (State.patchMarks core sectors mark s) := by
  unfold State.patchMarks
  with_reducible repeat' first
    | assumption
    | intro _
    | apply State.modCore_memOk
    | apply State.modRdc_memOk
    | split
    | simp only [memOk_mk]
    | apply memOk_fold
theorem State.clearMarks_memOk (n : Nat) (os : List (AtomLane × AtomOut)) {s : State} (h2 : MemOk p0 s) :
    MemOk p0 (State.clearMarks n os s) := by
  unfold State.clearMarks
  with_reducible repeat' first
    | assumption
    | intro _
    | apply State.patchMarks_memOk
    | split
    | simp only [memOk_mk]
    | apply memOk_fold
theorem State.lossesAtOnce_memOk (k : Nat) {s : State} (h1 : MemOk p0 s) :
    MemOk p0 (State.lossesAtOnce k s) := by
  unfold State.lossesAtOnce
  with_reducible repeat' first
    | assumption
    | intro _
    | apply State.modGg_memOk
    | split
    | simp only [memOk_mk]
    | apply memOk_fold
theorem State.openAccess_memOk (a : Access) (countA : Bool) (countB : Bool) {s : State} (h3 : MemOk p0 s) :
    MemOk p0 (State.openAccess a countA countB s) := by
  unfold State.openAccess
  with_reducible repeat' first
    | assumption
    | intro _
    | apply State.modGg_memOk
    | apply State.settleAccess_memOk
    | apply State.lossesAtOnce_memOk
    | apply memOk_foldl
    | apply memOk_foldl2
    | split
    | simp only [memOk_mk]
    | apply memOk_fold
theorem State.atomHere_memOk (h : AtomHow) (x : AtomLane) {s : State} (h2 : MemOk p0 s) :
    MemOk p0 (State.atomHere h x s).2 := by
  unfold State.atomHere
  with_reducible repeat' first
    | assumption
    | intro _
    | apply State.writeWindow_memOk
    | apply State.patchCaches_memOk
    | apply State.writeDram_memOk
    | apply State.patchMarks_memOk
    | apply State.dropSectors_memOk
    | split
    | simp only [memOk_mk]
    | apply memOk_fold
theorem State.atomHere_memOk_eq {h : AtomHow} {x : AtomLane} {s : State} {o_ t_} (e : (State.atomHere h x s) = (o_, t_)) (h2 : MemOk p0 s) :
    MemOk p0 t_ := by
  have := State.atomHere_memOk h x h2
  rwa [e] at this
theorem State.atomsHere_memOk (h : AtomHow) (x1 : List AtomLane) {x2 : State} (h2 : MemOk p0 x2) :
    MemOk p0 (State.atomsHere h x1 x2).2 := by
  induction x1 generalizing x2 with
  | nil =>
    unfold State.atomsHere
    with_reducible repeat' first
      | assumption
      | intro _
      | apply State.atomHere_memOk
      | (refine State.atomHere_memOk_eq (by assumption) ?_)
      | split
      | simp only [memOk_mk]
      | apply memOk_fold
  | cons b_ l_ ih =>
    have ih2 : ∀ {s_ t_ o_}, State.atomsHere h l_ s_ = (o_, t_) → MemOk p0 s_ → MemOk p0 t_ := by
      intro s_ t_ o_ e h
      have := ih h
      rwa [e] at this
    unfold State.atomsHere
    with_reducible repeat' first
      | assumption
      | intro _
      | apply ih
      | (refine ih2 (by assumption) ?_)
      | apply State.atomHere_memOk
      | (refine State.atomHere_memOk_eq (by assumption) ?_)
      | split
      | simp only [memOk_mk]
      | apply memOk_fold
theorem State.atomsHere_memOk_eq {h : AtomHow} {x1 : List AtomLane} {x2 : State} {o_ t_} (e : (State.atomsHere h x1 x2) = (o_, t_)) (h2 : MemOk p0 x2) :
    MemOk p0 t_ := by
  have := State.atomsHere_memOk h x1 h2
  rwa [e] at this
theorem State.atomic_memOk (h : AtomHow) (raw : Nat → Nat) (xs : List AtomLane) {s : State} (h3 : MemOk p0 s) :
    MemOk p0 (State.atomic h raw xs s).1 := by
  unfold State.atomic
  with_reducible repeat' first
    | assumption
    | intro _
    | apply State.acquire_memOk
    | apply State.atomsHere_memOk
    | (refine State.atomsHere_memOk_eq (by assumption) ?_)
    | apply State.dropSectors_memOk
    | apply State.clearMarks_memOk
    | apply State.askAll_memOk
    | (refine State.askAll_memOk_eq (by assumption) ?_)
    | apply State.openAccess_memOk
    | apply State.giveLanes_memOk
    | apply State.post_memOk
    | split
    | simp only [memOk_mk]
    | apply memOk_fold
theorem State.atomic_memOk_eq {h : AtomHow} {raw : Nat → Nat} {xs : List AtomLane} {s : State} {o_ t_} (e : (State.atomic h raw xs s) = (t_, o_)) (h3 : MemOk p0 s) :
    MemOk p0 t_ := by
  have := State.atomic_memOk h raw xs h3
  rwa [e] at this
theorem State.atomWord_memOk (fs : List Field) (opCheck : Option FaultInfo) (l : Bool) (a : BitVec 8) (sem : BitVec 3) (scope : BitVec 3) (h : AtomHow) (lane : Nat → Target → AtomLane) {s : State} (h8 : MemOk p0 s) :
    MemOk p0 (State.atomWord fs opCheck l a sem scope h lane s) := by
  unfold State.atomWord
  with_reducible repeat' first
    | assumption
    | intro _
    | apply State.memWord_memOk
    | apply endIssued_memOk
    | apply State.atomic_memOk
    | (refine State.atomic_memOk_eq (by assumption) ?_)
    | apply State.released_memOk
    | split
    | simp only [memOk_mk]
    | apply memOk_fold
theorem State.atomOp_memOk (result : Bool) (l : Bool) (d : BitVec 8) (a : BitVec 8) (sem : BitVec 3) (scope : BitVec 3) (z : BitVec 1) {s : State} (h7 : MemOk p0 s) :
    MemOk p0 (State.atomOp result l d a sem scope z s) := by
  unfold State.atomOp
  with_reducible repeat' first
    | assumption
    | intro _
    | apply State.atomWord_memOk
    | split
    | simp only [memOk_mk]
    | apply memOk_fold
theorem State.maskFrom_memOk (l : Bool) (a : BitVec 8) (tested : Bool → Bool) (f : Bool → Bool → Bool) {s : State} (h4 : MemOk p0 s) :
    MemOk p0 (State.maskFrom l a tested f s) := by
  unfold State.maskFrom
  with_reducible repeat' first
    | assumption
    | intro _
    | apply State.checked_memOk
    | apply State.endWordL_memOk
    | apply State.modGg_memOk
    | split
    | simp only [memOk_mk]
    | apply memOk_fold
theorem execMor_memOk {l : Bool} {a : BitVec 8} {s : State} {t_ : State} (e : (execMor l a s) = .next t_) (h2 : MemOk p0 s) :
    MemOk p0 t_ := by
  unfold execMor at e
  injection e with e
  subst e
  with_reducible repeat' first
    | assumption
    | intro _
    | apply State.maskFrom_memOk
    | split
    | simp only [memOk_mk]
    | apply memOk_fold
theorem State.visit_memOk (dom : Nat) (die : Nat) (part : Nat) (col : Bool) (u : UnitName) {s : State} (h5 : MemOk p0 s) :
    MemOk p0 (State.visit dom die part col u s) := by
  unfold State.visit
  with_reducible repeat' first
    | assumption
    | intro _
    | apply State.modDieCol_memOk
    | apply State.setTag_memOk
    | split
    | simp only [memOk_mk]
    | apply memOk_fold
theorem State.maskTo_memOk (d : BitVec 8) (f : Nat → Sys2Proof.Word) {s : State} (h2 : MemOk p0 s) :
    MemOk p0 (State.maskTo d f s) := by
  unfold State.maskTo
  with_reducible repeat' first
    | assumption
    | intro _
    | apply State.checked_memOk
    | apply State.endWord_memOk
    | apply State.modGg_memOk
    | apply State.beforeRegs_memOk
    | split
    | simp only [memOk_mk]
    | apply memOk_fold
theorem execMpop_memOk {d : BitVec 8} {s : State} {t_ : State} (e : (execMpop d s) = .next t_) (h1 : MemOk p0 s) :
    MemOk p0 t_ := by
  unfold execMpop at e
  injection e with e
  subst e
  with_reducible repeat' first
    | assumption
    | intro _
    | apply State.maskTo_memOk
    | split
    | simp only [memOk_mk]
    | apply memOk_fold
theorem execKeySwitch_memOk {port : Nat} {f : Sys2Proof.Flit} {s : State} {t_ : State} (e : (execKeySwitch port f s) = .next t_) (h2 : MemOk p0 s) :
    MemOk p0 t_ := by
  unfold execKeySwitch at e
  injection e with e
  subst e
  with_reducible repeat' first
    | assumption
    | intro _
    | apply State.takeFlit_memOk
    | apply State.modPort_memOk
    | apply memOk_id
    | split
    | simp only [memOk_mk]
    | apply memOk_fold
theorem execBcast_memOk {l : Bool} {d : BitVec 8} {a : BitVec 8} {b : BitVec 8} {s : State} {t_ : State} (e : (execBcast l d a b s) = .next t_) (h4 : MemOk p0 s) :
    MemOk p0 t_ := by
  unfold execBcast at e
  injection e with e
  subst e
  with_reducible repeat' first
    | assumption
    | intro _
    | apply State.computeAs_memOk
    | split
    | simp only [memOk_mk]
    | apply memOk_fold
theorem State.int2_memOk (f : Nat → Bool → Nat → Nat → Nat) (l : Bool) (d : BitVec 8) (a : BitVec 8) (b : BitVec 8) {s : State} (h5 : MemOk p0 s) :
    MemOk p0 (State.int2 f l d a b s) := by
  unfold State.int2
  with_reducible repeat' first
    | assumption
    | intro _
    | apply State.compute_memOk
    | split
    | simp only [memOk_mk]
    | apply memOk_fold
theorem execSub_memOk {l : Bool} {d : BitVec 8} {a : BitVec 8} {b : BitVec 8} {s : State} {t_ : State} (e : (execSub l d a b s) = .next t_) (h4 : MemOk p0 s) :
    MemOk p0 t_ := by
  unfold execSub at e
  injection e with e
  subst e
  with_reducible repeat' first
    | assumption
    | intro _
    | apply State.int2_memOk
    | split
    | simp only [memOk_mk]
    | apply memOk_fold
theorem State.keyStep_memOk (gap : Bool) {s : State} (h1 : MemOk p0 s) :
    MemOk p0 (State.keyStep gap s) := by
  unfold State.keyStep
  with_reducible repeat' first
    | assumption
    | intro _
    | split
    | simp only [memOk_mk]
    | apply memOk_fold
theorem State.answerLaunch_memOk (ask : Nat) (k : LaunchAsk) (node : Nat) (lst : Nat) {s : State} (h4 : MemOk p0 s) :
    MemOk p0 (State.answerLaunch ask k node lst s) := by
  unfold State.answerLaunch
  with_reducible repeat' first
    | assumption
    | intro _
    | apply State.modGang_memOk
    | apply State.beforeRegs_memOk
    | split
    | simp only [memOk_mk]
    | apply memOk_fold
theorem State.admitLaunch_memOk (ask : Nat) (k : LaunchAsk) (ld : Loaded) (refuse : Bool) {s : State} (h4 : MemOk p0 s) :
    MemOk p0 (State.admitLaunch ask k ld refuse s) := by
  unfold State.admitLaunch
  with_reducible repeat' first
    | assumption
    | intro _
    | apply State.answerLaunch_memOk
    | apply State.addLaunch_memOk
    | (refine State.addLaunch_memOk_eq (by assumption) ?_)
    | split
    | simp only [memOk_mk]
    | apply memOk_fold
theorem State.callHook_memOk (h : Sys2Proof.Hook) {s : State} (h1 : MemOk p0 s) :
    MemOk p0 (State.callHook h s) := by
  unfold State.callHook
  with_reducible repeat' first
    | assumption
    | intro _
    | apply State.post_memOk
    | split
    | simp only [memOk_mk]
    | apply memOk_fold
theorem execLaunchAnswer_memOk {ask : Nat} {s : State} {t_ : State} (e : (execLaunchAnswer ask s) = .next t_) (h1 : MemOk p0 s) :
    MemOk p0 t_ := by
  unfold execLaunchAnswer at e
  injection e with e
  subst e
  with_reducible repeat' first
    | assumption
    | intro _
    | apply State.judgeLaunch_memOk
    | (refine State.judgeLaunch_memOk_eq (by assumption) ?_)
    | apply State.answerLaunch_memOk
    | apply State.callHook_memOk
    | apply State.admitLaunch_memOk
    | split
    | simp only [memOk_mk]
    | apply memOk_fold
theorem execFcmp_memOk {l : Bool} {d : BitVec 8} {a : BitVec 8} {b : BitVec 8} {s : State} {t_ : State} (e : (execFcmp l d a b s) = .next t_) (h4 : MemOk p0 s) :
    MemOk p0 t_ := by
  unfold execFcmp at e
  injection e with e
  subst e
  with_reducible repeat' first
    | assumption
    | intro _
    | apply State.compute_memOk
    | split
    | simp only [memOk_mk]
    | apply memOk_fold
theorem execRetrainComplete_memOk {port : Nat} {s : State} {t_ : State} (e : (execRetrainComplete port s) = .next t_) (h1 : MemOk p0 s) :
    MemOk p0 t_ := by
  unfold execRetrainComplete at e
  injection e with e
  subst e
  with_reducible repeat' first
    | assumption
    | intro _
    | apply State.post_memOk
    | apply State.modPort_memOk
    | split
    | simp only [memOk_mk]
    | apply memOk_fold
theorem State.writeHere_memOk (ds : List LaneData) {s : State} (h1 : MemOk p0 s) :
    MemOk p0 (State.writeHere ds s) := by
  unfold State.writeHere
  with_reducible repeat' first
    | assumption
    | intro _
    | apply State.writeWindow_memOk
    | apply State.writeDram_memOk
    | apply State.writeSys_memOk
    | apply State.patchMarks_memOk
    | apply State.patchCaches_memOk
    | split
    | simp only [memOk_mk]
    | apply memOk_fold
theorem State.channelEvents_memOk (x : Ctx) (full : Bool) {s : State} (x3 : Nat × Nat) (h2 : MemOk p0 s) :
    MemOk p0 (State.channelEvents x full s x3) := by
  unfold State.channelEvents
  with_reducible repeat' first
    | assumption
    | intro _
    | apply State.sourceEvents_memOk
    | (refine State.sourceEvents_memOk_eq (by assumption) ?_)
    | apply State.retireNotices_memOk
    | apply State.retireCore_memOk
    | split
    | simp only [memOk_mk]
    | apply memOk_fold
theorem State.countOutcomes_memOk (x : Ctx) (u : BitVec 5) (t : Tally) {s : State} (h3 : MemOk p0 s) :
    MemOk p0 (State.countOutcomes x u t s) := by
  unfold State.countOutcomes
  with_reducible repeat' first
    | assumption
    | intro _
    | apply State.channelEvents_memOk
    | apply State.sourceEvents_memOk
    | (refine State.sourceEvents_memOk_eq (by assumption) ?_)
    | apply State.retireCore_memOk
    | apply memOk_foldl
    | apply memOk_foldl2
    | split
    | simp only [memOk_mk]
    | apply memOk_fold
theorem execMadw_memOk {l : Bool} {d : BitVec 8} {a : BitVec 8} {b : BitVec 8} {s : State} {t_ : State} (e : (execMadw l d a b s) = .next t_) (h4 : MemOk p0 s) :
    MemOk p0 t_ := by
  unfold execMadw at e
  injection e with e
  subst e
  with_reducible repeat' first
    | assumption
    | intro _
    | apply State.compute_memOk
    | split
    | simp only [memOk_mk]
    | apply memOk_fold
theorem execClz_memOk {l : Bool} {d : BitVec 8} {a : BitVec 8} {s : State} {t_ : State} (e : (execClz l d a s) = .next t_) (h3 : MemOk p0 s) :
    MemOk p0 t_ := by
  unfold execClz at e
  injection e with e
  subst e
  with_reducible repeat' first
    | assumption
    | intro _
    | apply State.compute_memOk
    | split
    | simp only [memOk_mk]
    | apply memOk_fold
theorem State.lineWord_memOk (l : Bool) (a : BitVec 8) (act : List (Nat × Place) → State → State × Bool) {s : State} (h2 : ∀ y0 t, MemOk p0 t → MemOk p0 (act y0 t).1) (h3 : MemOk p0 s) :
    MemOk p0 (State.lineWord l a act s) := by
  unfold State.lineWord
  with_reducible repeat' first
    | assumption
    | intro _
    | apply State.endWordL_memOk
    | apply State.checked_memOk
    | apply State.struck_memOk
    | apply endIssued_memOk
    | split
    | simp only [memOk_mk]
    | apply memOk_fold
    | apply h2
theorem State.cctl_memOk (l : Bool) (a : BitVec 8) (act : Place → State → State) {s : State} (h2 : ∀ y0 t, MemOk p0 t → MemOk p0 (act y0 t)) (h3 : MemOk p0 s) :
    MemOk p0 (State.cctl l a act s) := by
  unfold State.cctl
  with_reducible repeat' first
    | assumption
    | intro _
    | apply State.lineWord_memOk
    | apply State.post_memOk
    | apply State.openAccess_memOk
    | apply memOk_foldl
    | apply memOk_foldl2
    | split
    | simp only [memOk_mk]
    | apply memOk_fold
    | apply h2
theorem execOperatingPointStable_memOk {die : Nat} {s : State} {t_ : State} (e : (execOperatingPointStable die s) = .next t_) (h1 : MemOk p0 s) :
    MemOk p0 t_ := by
  unfold execOperatingPointStable at e
  injection e with e
  subst e
  with_reducible repeat' first
    | assumption
    | intro _
    | split
    | simp only [memOk_mk]
    | apply memOk_fold
theorem State.repostCmds_memOk (c : Nat) {s : State} (h1 : MemOk p0 s) :
    MemOk p0 (State.repostCmds c s) := by
  unfold State.repostCmds
  with_reducible repeat' first
    | assumption
    | intro _
    | split
    | simp only [memOk_mk]
    | apply memOk_fold
theorem execCvt_memOk {l : Bool} {d : BitVec 8} {a : BitVec 8} {src : BitVec 4} {dst : BitVec 4} {s : State} {t_ : State} (e : (execCvt l d a src dst s) = .next t_) (h5 : MemOk p0 s) :
    MemOk p0 t_ := by
  unfold execCvt at e
  injection e with e
  subst e
  with_reducible repeat' first
    | assumption
    | intro _
    | apply State.computeAs_memOk
    | split
    | simp only [memOk_mk]
    | apply memOk_fold
theorem State.askSlot_memOk (h : Nat) (g : Graph) (r : Run) {s : State} (p : Nat) (h3 : MemOk p0 s) :
    MemOk p0 (State.askSlot h g r s p) := by
  unfold State.askSlot
  with_reducible repeat' first
    | assumption
    | intro _
    | apply State.modRun_memOk
    | apply State.queueFlit_memOk
    | split
    | simp only [memOk_mk]
    | apply memOk_fold
theorem State.chooseVariant_memOk (h : Nat) {s : State} (h1 : MemOk p0 s) :
    MemOk p0 (State.chooseVariant h s) := by
  unfold State.chooseVariant
  with_reducible repeat' first
    | assumption
    | intro _
    | apply State.openRun_memOk
    | apply State.askSlot_memOk
    | apply State.modRun_memOk
    | apply memOk_foldl
    | apply memOk_foldl2
    | split
    | simp only [memOk_mk]
    | apply memOk_fold
theorem State.settleSlots_memOk (h : Nat) (x1 : Nat) {x2 : State} (h2 : MemOk p0 x2) :
    MemOk p0 (State.settleSlots h x1 x2) := by
  induction x1 generalizing x2 with
  | zero =>
    unfold State.settleSlots
    with_reducible repeat' first
      | assumption
      | intro _
      | apply State.openRun_memOk
      | apply State.modRun_memOk
      | apply State.releaseSlots_memOk
      | apply State.chooseVariant_memOk
      | apply memOk_getD
      | split
      | simp only [memOk_mk]
      | apply memOk_fold
  | succ f_ ih =>
    unfold State.settleSlots
    with_reducible repeat' first
      | assumption
      | intro _
      | apply ih
      | apply State.openRun_memOk
      | apply State.modRun_memOk
      | apply State.releaseSlots_memOk
      | apply State.chooseVariant_memOk
      | apply memOk_getD
      | split
      | simp only [memOk_mk]
      | apply memOk_fold
theorem execGrun_memOk {l : Bool} {d : BitVec 8} {a : BitVec 8} {b : BitVec 5} {s : State} {t_ : State} (e : (execGrun l d a b s) = .next t_) (h4 : MemOk p0 s) :
    MemOk p0 t_ := by
  unfold execGrun at e
  injection e with e
  subst e
  with_reducible repeat' first
    | assumption
    | intro _
    | apply State.issueEngine_memOk
    | split
    | simp only [memOk_mk]
    | apply memOk_fold
theorem State.modImage_memOk (dom : Nat) (ssn : Nat) (f : Image → Image) {s : State} (h3 : MemOk p0 s) :
    MemOk p0 (State.modImage dom ssn f s) := by
  unfold State.modImage
  with_reducible repeat' first
    | assumption
    | intro _
    | split
    | simp only [memOk_mk]
    | apply memOk_fold
theorem State.tryTrailer_memOk (dom : Nat) (die : Nat) (col : Bool) {s : State} (h3 : MemOk p0 s) :
    MemOk p0 (State.tryTrailer dom die col s) := by
  unfold State.tryTrailer
  with_reducible repeat' first
    | assumption
    | intro _
    | apply State.setDie_memOk
    | apply State.modDieCol_memOk
    | apply State.modImage_memOk
    | apply memOk_foldl
    | apply memOk_foldl2
    | split
    | simp only [memOk_mk]
    | apply memOk_fold
theorem State.drainStaged_memOk (die : Nat) {s : State} (h1 : MemOk p0 s) :
    MemOk p0 (State.drainStaged die s) := by
  unfold State.drainStaged
  with_reducible repeat' first
    | assumption
    | intro _
    | apply State.tryTrailer_memOk
    | apply State.modDieCol_memOk
    | split
    | simp only [memOk_mk]
    | apply memOk_fold
theorem execCas_memOk {l : Bool} {d : BitVec 8} {a : BitVec 8} {sem : BitVec 3} {scope : BitVec 3} {z : BitVec 1} {s : State} {t_ : State} (e : (execCas l d a sem scope z s) = .next t_) (h6 : MemOk p0 s) :
    MemOk p0 t_ := by
  unfold execCas at e
  injection e with e
  subst e
  with_reducible repeat' first
    | assumption
    | intro _
    | apply State.atomWord_memOk
    | split
    | simp only [memOk_mk]
    | apply memOk_fold
theorem execStage_memOk {a : BitVec 8} {n : BitVec 8} {s : State} {t_ : State} (e : (execStage a n s) = .next t_) (h2 : MemOk p0 s) :
    MemOk p0 t_ := by
  unfold execStage at e
  injection e with e
  subst e
  with_reducible repeat' first
    | assumption
    | intro _
    | apply State.checked_memOk
    | apply State.endWord_memOk
    | apply State.modGg_memOk
    | split
    | simp only [memOk_mk]
    | apply memOk_fold
theorem State.vote_memOk (l : Bool) (d : BitVec 8) (a : BitVec 8) (f : List LaneVal → List Nat → Nat) {s : State} (h4 : MemOk p0 s) :
    MemOk p0 (State.vote l d a f s) := by
  unfold State.vote
  with_reducible repeat' first
    | assumption
    | intro _
    | apply State.computeAs_memOk
    | split
    | simp only [memOk_mk]
    | apply memOk_fold
theorem execVoteAll_memOk {l : Bool} {d : BitVec 8} {a : BitVec 8} {s : State} {t_ : State} (e : (execVoteAll l d a s) = .next t_) (h3 : MemOk p0 s) :
    MemOk p0 t_ := by
  unfold execVoteAll at e
  injection e with e
  subst e
  with_reducible repeat' first
    | assumption
    | intro _
    | apply State.vote_memOk
    | split
    | simp only [memOk_mk]
    | apply memOk_fold
theorem State.stopAll_memOk (cs : List Nat) {s : State} (h1 : MemOk p0 s) :
    MemOk p0 (State.stopAll cs s) := by
  unfold State.stopAll
  with_reducible repeat' first
    | assumption
    | intro _
    | apply State.modCtx_memOk
    | apply memOk_foldl
    | apply memOk_foldl2
    | split
    | simp only [memOk_mk]
    | apply memOk_fold
theorem execPreemptionRequest_memOk {ctx : Nat} {s : State} {t_ : State} (e : (execPreemptionRequest ctx s) = .next t_) (h1 : MemOk p0 s) :
    MemOk p0 t_ := by
  unfold execPreemptionRequest at e
  injection e with e
  subst e
  with_reducible repeat' first
    | assumption
    | intro _
    | apply State.stopAll_memOk
    | split
    | simp only [memOk_mk]
    | apply memOk_fold
theorem State.countFallback_memOk (part : Nat) (engine : Nat) {s : State} (h2 : MemOk p0 s) :
    MemOk p0 (State.countFallback part engine s) := by
  unfold State.countFallback
  with_reducible repeat' first
    | assumption
    | intro _
    | apply State.modPart_memOk
    | split
    | simp only [memOk_mk]
    | apply memOk_fold
theorem State.rowUpset_memOk (k : Nat) (i : Nat) {s : State} (h2 : MemOk p0 s) :
    MemOk p0 (State.rowUpset k i s) := by
  unfold State.rowUpset
  with_reducible repeat' first
    | assumption
    | intro _
    | apply State.modCmd_memOk
    | split
    | simp only [memOk_mk]
    | apply memOk_fold
theorem State.retireStorage_memOk (cls : Nat) (unit : Nat) (core : Nat) (die : Nat) (ps : List Nat) {s : State} (h5 : MemOk p0 s) :
    MemOk p0 (State.retireStorage cls unit core die ps s) := by
  unfold State.retireStorage
  with_reducible repeat' first
    | assumption
    | intro _
    | apply State.retireNotices_memOk
    | apply State.retireCore_memOk
    | split
    | simp only [memOk_mk]
    | apply memOk_fold
theorem State.storageEvent_memOk (cls : Nat) (unit : Nat) (core : Nat) (die : Nat) (ps : List Nat) (corrected : Bool) {s : State} (h6 : MemOk p0 s) :
    MemOk p0 (State.storageEvent cls unit core die ps corrected s) := by
  unfold State.storageEvent
  with_reducible repeat' first
    | assumption
    | intro _
    | apply State.sourceEvents_memOk
    | (refine State.sourceEvents_memOk_eq (by assumption) ?_)
    | apply State.retireStorage_memOk
    | split
    | simp only [memOk_mk]
    | apply memOk_fold
theorem State.hostLogged_memOk (reg : Sys2Proof.RegName) (n : Nat) {s : State} (h2 : MemOk p0 s) :
    MemOk p0 (State.hostLogged reg n s) := by
  unfold State.hostLogged
  with_reducible repeat' first
    | assumption
    | intro _
    | apply State.logMessage_memOk
    | split
    | simp only [memOk_mk]
    | apply memOk_fold
theorem State.residueUpset_memOk (a p ch e v : Nat) {s : State} (h : MemOk p0 s) :
    MemOk p0 (State.residueUpset a p ch e v s) := by
  unfold State.residueUpset
  simp only
  split <;> exact h
theorem State.dieRetired_memOk (die : Nat) {s : State} (h1 : MemOk p0 s) :
    MemOk p0 (State.dieRetired die s) := by
  unfold State.dieRetired
  with_reducible repeat' first
    | assumption
    | intro _
    | apply State.retireCore_memOk
    | apply State.failSnap_memOk
    | apply memOk_foldl
    | apply memOk_foldl2
    | split
    | simp only [memOk_mk]
    | apply memOk_fold
theorem State.spoilSector_memOk (k : Nat) {s : State} (h1 : MemOk p0 s) :
    MemOk p0 (State.spoilSector k s) := by
  have h := State.freeBytes_memOk 32 h1
  unfold State.spoilSector
  simp only [memOk_mk]
  exact ⟨Memory.wf_putBytes _ _ h.1, h.2⟩
theorem State.wayEvent_memOk (die : Nat) (way : Nat) (corrected : Bool) {s : State} (h3 : MemOk p0 s) :
    MemOk p0 (State.wayEvent die way corrected s) := by
  unfold State.wayEvent
  with_reducible repeat' first
    | assumption
    | intro _
    | apply State.storageEvent_memOk
    | split
    | simp only [memOk_mk]
    | apply memOk_fold
theorem State.sectorLost_memOk (way : Option Nat) (k : Nat) {s : State} (h2 : MemOk p0 s) :
    MemOk p0 (State.sectorLost way k s) := by
  unfold State.sectorLost
  with_reducible repeat' first
    | assumption
    | intro _
    | apply State.storageEvent_memOk
    | apply State.spoilSector_memOk
    | apply State.wayEvent_memOk
    | split
    | simp only [memOk_mk]
    | apply memOk_fold
theorem State.scratchLost_memOk (c : Nat) (w : Nat) {s : State} (h2 : MemOk p0 s) :
    MemOk p0 (State.scratchLost c w s) := by
  unfold State.scratchLost
  with_reducible repeat' first
    | assumption
    | intro _
    | apply State.freeBytes_memOk
    | (refine State.freeBytes_memOk_eq (by assumption) ?_)
    | apply State.storageEvent_memOk
    | apply State.modCtx_memOk
    | apply memOk_getD
    | split
    | simp only [memOk_mk]
    | apply memOk_fold
theorem State.slotLost_memOk (a : Nat) (t : Nat) {s : State} (h2 : MemOk p0 s) :
    MemOk p0 (State.slotLost a t s) := by
  unfold State.slotLost
  with_reducible repeat' first
    | assumption
    | intro _
    | apply State.free_memOk
    | (refine State.free_memOk_eq (by assumption) ?_)
    | apply State.storageEvent_memOk
    | apply State.modArray_memOk
    | split
    | simp only [memOk_mk]
    | apply memOk_fold
theorem State.correctedError_memOk (m : Mover) {s : State} (h1 : MemOk p0 s) :
    MemOk p0 (State.correctedError m s) := by
  unfold State.correctedError
  with_reducible repeat' first
    | assumption
    | intro _
    | apply State.wayEvent_memOk
    | apply State.storageEvent_memOk
    | split
    | simp only [memOk_mk]
    | apply memOk_fold
theorem State.gatherFailure_memOk (k : Nat) (i : Nat) {s : State} (h2 : MemOk p0 s) :
    MemOk p0 (State.gatherFailure k i s) := by
  unfold State.gatherFailure
  with_reducible repeat' first
    | assumption
    | intro _
    | apply State.modCmd_memOk
    | apply memOk_getD
    | split
    | simp only [memOk_mk]
    | apply memOk_fold
theorem State.hostAsks_memOk (c : Nat) (resume : Bool) {s : State} (h2 : MemOk p0 s) :
    MemOk p0 (State.hostAsks c resume s) := by
  unfold State.hostAsks
  with_reducible repeat' first
    | assumption
    | intro _
    | apply State.saveToPool_memOk
    | apply State.modCtx_memOk
    | apply State.terminate_memOk
    | split
    | simp only [memOk_mk]
    | apply memOk_fold
theorem State.nameAllocator_memOk (dom : Nat) (die : Nat) {s : State} (h2 : MemOk p0 s) :
    MemOk p0 (State.nameAllocator dom die s) := by
  unfold State.nameAllocator
  with_reducible repeat' first
    | assumption
    | intro _
    | apply State.modDomain_memOk
    | split
    | simp only [memOk_mk]
    | apply memOk_fold
theorem State.takeAsk_memOk (dom : Nat) (a : SnapAsk) {s : State} (h2 : MemOk p0 s) :
    MemOk p0 (State.takeAsk dom a s) := by
  unfold State.takeAsk
  with_reducible repeat' first
    | assumption
    | intro _
    | apply State.post_memOk
    | apply State.modDomain_memOk
    | split
    | simp only [memOk_mk]
    | apply memOk_fold
theorem State.surroundings_memOk (m : Mover) {s : State} (h1 : MemOk p0 s) :
    MemOk p0 (State.surroundings m s) := by
  unfold State.surroundings
  with_reducible repeat' first
    | assumption
    | intro _
    | apply State.modCore_memOk
    | apply State.modRdc_memOk
    | apply State.sectorLost_memOk
    | apply State.scratchLost_memOk
    | apply State.slotLost_memOk
    | apply State.pumpAll_memOk
    | apply State.loseRequest_memOk
    | apply State.gatherFailure_memOk
    | apply State.residueUpset_memOk
    | apply State.dieRetired_memOk
    | apply State.retireCore_memOk
    | apply State.rowUpset_memOk
    | apply State.correctedError_memOk
    | apply State.hostAsks_memOk
    | apply State.hostLogged_memOk
    | apply State.nameAllocator_memOk
    | apply State.takeAsk_memOk
    | apply State.writeSys_memOk
    | apply State.modPart_memOk
    | apply memOk_foldl
    | apply memOk_foldl2
    | split
    | simp only [memOk_mk]
    | apply memOk_fold
theorem State.resumeWord_memOk {s : State} (h0 : MemOk p0 s) :
    MemOk p0 (State.resumeWord s) := by
  unfold State.resumeWord
  with_reducible repeat' first
    | assumption
    | intro _
    | apply State.advance_memOk
    | apply State.modGg_memOk
    | split
    | simp only [memOk_mk]
    | apply memOk_fold
theorem State.disarm_memOk {s : State} (h0 : MemOk p0 s) :
    MemOk p0 (State.disarm s) := by
  unfold State.disarm
  with_reducible repeat' first
    | assumption
    | intro _
    | apply State.modGg_memOk
    | split
    | simp only [memOk_mk]
    | apply memOk_fold
theorem State.asIssuing_memOk (c : Nat) (g : Nat) (sub : Nat) (test : Slice → Bool) {s : State} (h4 : MemOk p0 s) :
    MemOk p0 (State.asIssuing c g sub test s) := by
  unfold State.asIssuing
  with_reducible repeat' first
    | assumption
    | intro _
    | apply memOk_getD
    | split
    | simp only [memOk_mk]
    | apply memOk_fold
theorem State.resumeMwait_memOk (c : Nat) (g : Nat) (sub : Nat) {s : State} (h3 : MemOk p0 s) :
    MemOk p0 (State.resumeMwait c g sub s) := by
  unfold State.resumeMwait
  with_reducible repeat' first
    | assumption
    | intro _
    | apply State.asIssuing_memOk
    | apply State.resumeWord_memOk
    | apply State.disarm_memOk
    | split
    | simp only [memOk_mk]
    | apply memOk_fold
theorem State.resumeMwaits_memOk (c : Nat) {s : State} (h1 : MemOk p0 s) :
    MemOk p0 (State.resumeMwaits c s) := by
  unfold State.resumeMwaits
  with_reducible repeat' first
    | assumption
    | intro _
    | apply State.resumeMwait_memOk
    | apply State.modCtx_memOk
    | apply memOk_foldl
    | apply memOk_foldl2
    | apply memOk_getD
    | split
    | simp only [memOk_mk]
    | apply memOk_fold
theorem State.moveCmds_memOk (c : Nat) (core : Nat) {s : State} (h2 : MemOk p0 s) :
    MemOk p0 (State.moveCmds c core s) := by
  unfold State.moveCmds
  with_reducible repeat' first
    | assumption
    | intro _
    | split
    | simp only [memOk_mk]
    | apply memOk_fold
theorem State.resumeCtx_memOk (c : Nat) (p : Site) {s : State} (h2 : MemOk p0 s) :
    MemOk p0 (State.resumeCtx c p s) := by
  unfold State.resumeCtx
  with_reducible repeat' first
    | assumption
    | intro _
    | apply State.placeCtx_memOk
    | apply State.dropL1_memOk
    | apply State.modCtx_memOk
    | apply State.modArray_memOk
    | apply State.settleCtx_memOk
    | apply State.repostCmds_memOk
    | apply State.moveCmds_memOk
    | apply State.resumeMwaits_memOk
    | split
    | simp only [memOk_mk]
    | apply memOk_fold
theorem State.startErd_memOk (k : Nat) (c : Cmd) {s : State} (h2 : MemOk p0 s) :
    MemOk p0 (State.startErd k c s) := by
  unfold State.startErd
  with_reducible repeat' first
    | assumption
    | intro _
    | apply State.endCmd_memOk
    | apply State.writeRanges_memOk
    | split
    | simp only [memOk_mk]
    | apply memOk_fold
theorem State.startRowq_memOk (k : Nat) (c : Cmd) {s : State} (h2 : MemOk p0 s) :
    MemOk p0 (State.startRowq k c s) := by
  unfold State.startRowq
  with_reducible repeat' first
    | assumption
    | intro _
    | apply State.endCmd_memOk
    | split
    | simp only [memOk_mk]
    | apply memOk_fold
theorem State.readBases_memOk (c : Cmd) (n : Nat) {s : State} (h2 : MemOk p0 s) :
    MemOk p0 (State.readBases c n s).2 := by
  unfold State.readBases
  with_reducible repeat' first
    | assumption
    | intro _
    | apply State.frontRead_memOk
    | (refine State.frontRead_memOk_eq (by assumption) ?_)
    | apply memOk_getD
    | split
    | simp only [memOk_mk]
    | apply memOk_fold
theorem State.readBases_memOk_eq {c : Cmd} {n : Nat} {s : State} {o_ t_} (e : (State.readBases c n s) = (o_, t_)) (h2 : MemOk p0 s) :
    MemOk p0 t_ := by
  have := State.readBases_memOk c n h2
  rwa [e] at this
theorem State.judgeRun_memOk (c : Cmd) {s : State} (h1 : MemOk p0 s) :
    MemOk p0 (State.judgeRun c s).2 := by
  unfold State.judgeRun
  with_reducible repeat' first
    | assumption
    | intro _
    | apply State.readBases_memOk
    | (refine State.readBases_memOk_eq (by assumption) ?_)
    | split
    | simp only [memOk_mk]
    | apply memOk_fold
theorem State.judgeRun_memOk_eq {c : Cmd} {s : State} {o_ t_} (e : (State.judgeRun c s) = (o_, t_)) (h1 : MemOk p0 s) :
    MemOk p0 t_ := by
  have := State.judgeRun_memOk c h1
  rwa [e] at this
theorem State.beginRun_memOk (k : Nat) (h : Nat) (g : Graph) (bases : List Nat) (var : Nat) {s : State} (h5 : MemOk p0 s) :
    MemOk p0 (State.beginRun k h g bases var s) := by
  unfold State.beginRun
  with_reducible repeat' first
    | assumption
    | intro _
    | apply State.settleSlots_memOk
    | apply State.chooseVariant_memOk
    | apply State.modGraph_memOk
    | split
    | simp only [memOk_mk]
    | apply memOk_fold
theorem State.startRun_memOk (k : Nat) (c : Cmd) (asked : Bool) {s : State} (h3 : MemOk p0 s) :
    MemOk p0 (State.startRun k c asked s) := by
  unfold State.startRun
  with_reducible repeat' first
    | assumption
    | intro _
    | apply State.judgeRun_memOk
    | (refine State.judgeRun_memOk_eq (by assumption) ?_)
    | apply State.endCmd_memOk
    | apply State.callHook_memOk
    | apply State.beginRun_memOk
    | split
    | simp only [memOk_mk]
    | apply memOk_fold
theorem State.endConv_memOk (k : Nat) (c : Cmd) (x : Ctx) (cswAt : Nat) (u : BitVec 5) (os : List (Nat × RnsOutcome)) (wrotePsn : Bool) (ranges : List (Spot × List (Sys2Proof.Byte × Bool))) {s : State} (h8 : MemOk p0 s) :
    MemOk p0 (State.endConv k c x cswAt u os wrotePsn ranges s) := by
  unfold State.endConv
  with_reducible repeat' first
    | assumption
    | intro _
    | apply State.writeRanges_memOk
    | apply State.modCmd_memOk
    | apply State.post_memOk
    | apply State.countOutcomes_memOk
    | split
    | simp only [memOk_mk]
    | apply memOk_fold
theorem State.doRchk_memOk (k : Nat) (c : Cmd) (x : Ctx) {s : State} (h3 : MemOk p0 s) :
    MemOk p0 (State.doRchk k c x s) := by
  unfold State.doRchk
  with_reducible repeat' first
    | assumption
    | intro _
    | apply State.putSlot_memOk
    | apply State.endConv_memOk
    | split
    | simp only [memOk_mk]
    | apply memOk_fold
theorem State.doRmma_memOk (k : Nat) (c : Cmd) (x : Ctx) {s : State} (h3 : MemOk p0 s) :
    MemOk p0 (State.doRmma k c x s) := by
  unfold State.doRmma
  with_reducible repeat' first
    | assumption
    | intro _
    | apply State.putSlot_memOk
    | apply State.modArray_memOk
    | apply State.endCmd_memOk
    | apply memOk_foldl
    | apply memOk_foldl2
    | split
    | simp only [memOk_mk]
    | apply memOk_fold
theorem State.doRfwd_memOk (k : Nat) (c : Cmd) (x : Ctx) {s : State} (h3 : MemOk p0 s) :
    MemOk p0 (State.doRfwd k c x s) := by
  unfold State.doRfwd
  with_reducible repeat' first
    | assumption
    | intro _
    | apply State.writeRanges_memOk
    | apply State.endCmd_memOk
    | apply memOk_foldl
    | apply memOk_foldl2
    | split
    | simp only [memOk_mk]
    | apply memOk_fold
theorem State.doRscl_memOk (k : Nat) (c : Cmd) (x : Ctx) {s : State} (h3 : MemOk p0 s) :
    MemOk p0 (State.doRscl k c x s) := by
  unfold State.doRscl
  with_reducible repeat' first
    | assumption
    | intro _
    | apply State.endConv_memOk
    | split
    | simp only [memOk_mk]
    | apply memOk_fold
theorem State.doRrev_memOk (k : Nat) (c : Cmd) (x : Ctx) {s : State} (h3 : MemOk p0 s) :
    MemOk p0 (State.doRrev k c x s) := by
  unfold State.doRrev
  with_reducible repeat' first
    | assumption
    | intro _
    | apply State.endConv_memOk
    | split
    | simp only [memOk_mk]
    | apply memOk_fold
theorem State.startRns_memOk (k : Nat) (c : Cmd) (x : Ctx) {s : State} (h3 : MemOk p0 s) :
    MemOk p0 (State.startRns k c x s) := by
  unfold State.startRns
  with_reducible repeat' first
    | assumption
    | intro _
    | apply State.endCmd_memOk
    | apply State.claimArray_memOk
    | apply State.doRfwd_memOk
    | apply State.doRmma_memOk
    | apply State.doRrev_memOk
    | apply State.doRchk_memOk
    | apply State.doRscl_memOk
    | split
    | simp only [memOk_mk]
    | apply memOk_fold
theorem State.startRow_memOk (k : Nat) (c : Cmd) {s : State} (h2 : MemOk p0 s) :
    MemOk p0 (State.startRow k c s) := by
  unfold State.startRow
  with_reducible repeat' first
    | assumption
    | intro _
    | apply State.endCmd_memOk
    | split
    | simp only [memOk_mk]
    | apply memOk_fold
theorem State.startCopy_memOk (k : Nat) (c0 : Cmd) (x : Ctx) {s : State} (h3 : MemOk p0 s) :
    MemOk p0 (State.startCopy k c0 x s) := by
  unfold State.startCopy
  with_reducible repeat' first
    | assumption
    | intro _
    | apply State.endCopy_memOk
    | apply State.free_memOk
    | (refine State.free_memOk_eq (by assumption) ?_)
    | apply State.askReads_memOk
    | apply State.modCmd_memOk
    | apply State.post_memOk
    | split
    | simp only [memOk_mk]
    | apply memOk_fold
theorem State.completeSnap_memOk (dom : Nat) (d : Domain) (a : AllocColour) (col : Bool) {s : State} (h4 : MemOk p0 s) :
    MemOk p0 (State.completeSnap dom d a col s) := by
  unfold State.completeSnap
  with_reducible repeat' first
    | assumption
    | intro _
    | apply State.setAlloc_memOk
    | apply State.modImage_memOk
    | apply State.modDomain_memOk
    | apply memOk_foldl
    | apply memOk_foldl2
    | split
    | simp only [memOk_mk]
    | apply memOk_fold
theorem State.freeColour_memOk (dom : Nat) (a : AllocColour) (col : Bool) {s : State} (h3 : MemOk p0 s) :
    MemOk p0 (State.freeColour dom a col s) := by
  unfold State.freeColour
  with_reducible repeat' first
    | assumption
    | intro _
    | apply State.setAlloc_memOk
    | apply State.modDomain_memOk
    | apply State.post_memOk
    | apply memOk_foldl
    | apply memOk_foldl2
    | split
    | simp only [memOk_mk]
    | apply memOk_fold
theorem State.judgeReports_memOk (dom : Nat) (col : Bool) {s : State} (h2 : MemOk p0 s) :
    MemOk p0 (State.judgeReports dom col s) := by
  unfold State.judgeReports
  with_reducible repeat' first
    | assumption
    | intro _
    | apply State.setAlloc_memOk
    | apply State.completeSnap_memOk
    | apply State.freeColour_memOk
    | split
    | simp only [memOk_mk]
    | apply memOk_fold
theorem State.tryClose_memOk (dom : Nat) (die : Nat) (col : Bool) {s : State} (h3 : MemOk p0 s) :
    MemOk p0 (State.tryClose dom die col s) := by
  unfold State.tryClose
  with_reducible repeat' first
    | assumption
    | intro _
    | apply State.setDie_memOk
    | split
    | simp only [memOk_mk]
    | apply memOk_fold
theorem State.captureCtx_memOk (dom : Nat) (die : Nat) (col : Bool) {s : State} (x4 : Nat × Ctx) (h3 : MemOk p0 s) :
    MemOk p0 (State.captureCtx dom die col s x4) := by
  unfold State.captureCtx
  with_reducible repeat' first
    | assumption
    | intro _
    | apply State.modDieCol_memOk
    | split
    | simp only [memOk_mk]
    | apply memOk_fold
theorem State.modAudit_memOk (p : Nat) (f : Audit → Audit) {s : State} (h2 : MemOk p0 s) :
    MemOk p0 (State.modAudit p f s) := by
  unfold State.modAudit
  with_reducible repeat' first
    | assumption
    | intro _
    | split
    | simp only [memOk_mk]
    | apply memOk_fold
theorem State.showReading_memOk (p : Nat) {s : State} (h1 : MemOk p0 s) :
    MemOk p0 (State.showReading p s) := by
  unfold State.showReading
  with_reducible repeat' first
    | assumption
    | intro _
    | apply State.setPage_memOk
    | apply memOk_foldl
    | apply memOk_foldl2
    | split
    | simp only [memOk_mk]
    | apply memOk_fold
theorem State.signReading_memOk (p : Nat) (snap : Bool) (nonce : List Sys2Proof.Byte) {s : State} (h3 : MemOk p0 s) :
    MemOk p0 (State.signReading p snap nonce s).2 := by
  unfold State.signReading
  with_reducible repeat' first
    | assumption
    | intro _
    | apply State.modAudit_memOk
    | apply State.showReading_memOk
    | split
    | simp only [memOk_mk]
    | apply memOk_fold
theorem State.signReading_memOk_eq {p : Nat} {snap : Bool} {nonce : List Sys2Proof.Byte} {s : State} {o_ t_} (e : (State.signReading p snap nonce s) = (o_, t_)) (h3 : MemOk p0 s) :
    MemOk p0 t_ := by
  have := State.signReading_memOk p snap nonce h3
  rwa [e] at this
theorem State.writeMirror_memOk {s : State} (h0 : MemOk p0 s) :
    MemOk p0 (State.writeMirror s) := by
  unfold State.writeMirror
  with_reducible repeat' first
    | assumption
    | intro _
    | split
    | simp only [memOk_mk]
    | apply memOk_fold
theorem State.captureEnergy_memOk (dom : Nat) (d : Domain) (col : Bool) (ssn : Nat) {s : State} (h4 : MemOk p0 s) :
    MemOk p0 (State.captureEnergy dom d col ssn s) := by
  unfold State.captureEnergy
  with_reducible repeat' first
    | assumption
    | intro _
    | apply State.modAudit_memOk
    | apply State.signReading_memOk
    | (refine State.signReading_memOk_eq (by assumption) ?_)
    | apply State.writeMirror_memOk
    | apply State.modDieCol_memOk
    | split
    | simp only [memOk_mk]
    | apply memOk_fold
theorem State.snapPages_memOk (dom : Nat) (col : Bool) (ssn : Nat) (vs : List Nat) {s : State} (h4 : MemOk p0 s) :
    MemOk p0 (State.snapPages dom col ssn vs s) := by
  unfold State.snapPages
  with_reducible repeat' first
    | assumption
    | intro _
    | apply State.setPage_memOk
    | apply memOk_foldl
    | apply memOk_foldl2
    | split
    | simp only [memOk_mk]
    | apply memOk_fold
theorem State.openImage_memOk (dom : Nat) (d : Domain) (a : AllocColour) {s : State} (h3 : MemOk p0 s) :
    MemOk p0 (State.openImage dom d a s) := by
  unfold State.openImage
  with_reducible repeat' first
    | assumption
    | intro _
    | split
    | simp only [memOk_mk]
    | apply memOk_fold
theorem State.sendMarkers_memOk (dom : Nat) (d : Domain) (die : Nat) (ssn : Nat) (col : Bool) {s : State} (h5 : MemOk p0 s) :
    MemOk p0 (State.sendMarkers dom d die ssn col s) := by
  unfold State.sendMarkers
  with_reducible repeat' first
    | assumption
    | intro _
    | apply State.queueFlit_memOk
    | apply memOk_foldl
    | apply memOk_foldl2
    | apply memOk_getD
    | split
    | simp only [memOk_mk]
    | apply memOk_fold
theorem State.capturePart_memOk (dom : Nat) (d : Domain) (col : Bool) {s : State} (h3 : MemOk p0 s) :
    MemOk p0 (State.capturePart dom d col s) := by
  unfold State.capturePart
  with_reducible repeat' first
    | assumption
    | intro _
    | apply State.snapPages_memOk
    | apply State.captureEnergy_memOk
    | apply State.modImage_memOk
    | split
    | simp only [memOk_mk]
    | apply memOk_fold
theorem State.cutRequests_memOk (part : Nat) (die : Nat) (col : Bool) {s : State} (h3 : MemOk p0 s) :
    MemOk p0 (State.cutRequests part die col s) := by
  unfold State.cutRequests
  with_reducible repeat' first
    | assumption
    | intro _
    | split
    | simp only [memOk_mk]
    | apply memOk_fold
theorem State.flip_memOk (dom : Nat) (d : Domain) (col : Bool) (die : Nat) (grant : Option Nat) {s : State} (h5 : MemOk p0 s) :
    MemOk p0 (State.flip dom d col die grant s) := by
  unfold State.flip
  with_reducible repeat' first
    | assumption
    | intro _
    | apply State.openImage_memOk
    | apply State.modDieCol_memOk
    | split
    | simp only [memOk_mk]
    | apply memOk_fold
theorem State.finishRing_memOk (k : Nat) (r : RingRef) (c : Cmd) (arrives : Bool) {s : State} (h4 : MemOk p0 s) :
    MemOk p0 (State.finishRing k r c arrives s) := by
  unfold State.finishRing
  with_reducible repeat' first
    | assumption
    | intro _
    | apply State.modCmd_memOk
    | apply State.finishSlot_memOk
    | apply State.discardWrote_memOk
    | apply State.arriveNamed_memOk
    | apply State.askRetire_memOk
    | apply State.finishFlag_memOk
    | split
    | simp only [memOk_mk]
    | apply memOk_fold
theorem State.completeCmd_memOk (k : Nat) {s : State} (h1 : MemOk p0 s) :
    MemOk p0 (State.completeCmd k s) := by
  unfold State.completeCmd
  with_reducible repeat' first
    | assumption
    | intro _
    | apply State.finishRing_memOk
    | apply State.modCmd_memOk
    | split
    | simp only [memOk_mk]
    | apply memOk_fold
theorem State.grantCmd_memOk (dom : Nat) (k : Nat) (col : Bool) (ssn : Nat) {s : State} (h4 : MemOk p0 s) :
    MemOk p0 (State.grantCmd dom k col ssn s) := by
  unfold State.grantCmd
  with_reducible repeat' first
    | assumption
    | intro _
    | apply State.modDomain_memOk
    | apply State.completeCmd_memOk
    | apply State.modCmd_memOk
    | split
    | simp only [memOk_mk]
    | apply memOk_fold
theorem State.doMmag_memOk (k : Nat) (c : Cmd) (x : Ctx) {s : State} (h3 : MemOk p0 s) :
    MemOk p0 (State.doMmag k c x s) := by
  unfold State.doMmag
  with_reducible repeat' first
    | assumption
    | intro _
    | apply State.putSlot_memOk
    | apply State.modCmd_memOk
    | apply memOk_foldl
    | apply memOk_foldl2
    | split
    | simp only [memOk_mk]
    | apply memOk_fold
theorem State.lateMatrix_memOk (k : Nat) (c : Cmd) (x : Ctx) {s : State} (h3 : MemOk p0 s) :
    MemOk p0 (State.lateMatrix k c x s) := by
  unfold State.lateMatrix
  with_reducible repeat' first
    | assumption
    | intro _
    | apply State.modCmd_memOk
    | apply State.doMmag_memOk
    | split
    | simp only [memOk_mk]
    | apply memOk_fold
theorem State.noteConv_memOk (c : Cmd) {s : State} (h1 : MemOk p0 s) :
    MemOk p0 (State.noteConv c s) := by
  unfold State.noteConv
  with_reducible repeat' first
    | assumption
    | intro _
    | apply State.modGang_memOk
    | split
    | simp only [memOk_mk]
    | apply memOk_fold
theorem State.endArrayCmd_memOk {s : State} (k : Nat) (h0 : MemOk p0 s) :
    MemOk p0 (State.endArrayCmd s k) := by
  unfold State.endArrayCmd
  with_reducible repeat' first
    | assumption
    | intro _
    | apply State.lateMatrix_memOk
    | apply State.completeCmd_memOk
    | apply State.noteConv_memOk
    | apply memOk_getD
    | split
    | simp only [memOk_mk]
    | apply memOk_fold
theorem State.settleArrays_memOk (part : Nat) (die : Nat) {s : State} (h2 : MemOk p0 s) :
    MemOk p0 (State.settleArrays part die s) := by
  unfold State.settleArrays
  with_reducible repeat' first
    | assumption
    | intro _
    | apply State.endArrayCmd_memOk
    | apply memOk_foldl
    | apply memOk_foldl2
    | split
    | simp only [memOk_mk]
    | apply memOk_fold
theorem State.recordDie_memOk (dom : Nat) (col : Bool) (grant : Option Nat) (die : Nat) {s : State} (h4 : MemOk p0 s) :
    MemOk p0 (State.recordDie dom col grant die s) := by
  unfold State.recordDie
  with_reducible repeat' first
    | assumption
    | intro _
    | apply State.flip_memOk
    | apply State.setDie_memOk
    | apply State.settleArrays_memOk
    | apply State.grantCmd_memOk
    | apply State.cutRequests_memOk
    | apply State.captureCtx_memOk
    | apply State.capturePart_memOk
    | apply State.tryClose_memOk
    | apply State.sendMarkers_memOk
    | apply memOk_foldl
    | apply memOk_foldl2
    | split
    | simp only [memOk_mk]
    | apply memOk_fold
theorem State.takeGrant_memOk (dom : Nat) (die : Nat) (col : Bool) {s : State} (h3 : MemOk p0 s) :
    MemOk p0 (State.takeGrant dom die col s) := by
  unfold State.takeGrant
  with_reducible repeat' first
    | assumption
    | intro _
    | apply State.recordDie_memOk
    | split
    | simp only [memOk_mk]
    | apply memOk_fold
theorem State.grantFirst_memOk (dom : Nat) (col : Bool) {s : State} (h2 : MemOk p0 s) :
    MemOk p0 (State.grantFirst dom col s) := by
  unfold State.grantFirst
  with_reducible repeat' first
    | assumption
    | intro _
    | apply State.takeGrant_memOk
    | split
    | simp only [memOk_mk]
    | apply memOk_fold
theorem State.startSnaprel_memOk (k : Nat) (c : Cmd) {s : State} (h2 : MemOk p0 s) :
    MemOk p0 (State.startSnaprel k c s) := by
  unfold State.startSnaprel
  with_reducible repeat' first
    | assumption
    | intro _
    | apply State.free_memOk
    | (refine State.free_memOk_eq (by assumption) ?_)
    | apply State.endCmd_memOk
    | apply State.modDomain_memOk
    | apply State.modCmd_memOk
    | apply State.setAlloc_memOk
    | apply State.grantFirst_memOk
    | split
    | simp only [memOk_mk]
    | apply memOk_fold
theorem State.resumeRun_memOk (h : Nat) {s : State} (h1 : MemOk p0 s) :
    MemOk p0 (State.resumeRun h s) := by
  unfold State.resumeRun
  with_reducible repeat' first
    | assumption
    | intro _
    | apply State.queueChunk_memOk
    | apply State.chooseVariant_memOk
    | apply State.modRun_memOk
    | apply State.askSlot_memOk
    | apply memOk_foldl
    | apply memOk_foldl2
    | split
    | simp only [memOk_mk]
    | apply memOk_fold
theorem State.restoreCtxs_memOk (part : Nat) (m : Remap) (chain : List Image) (i : Image) (l0 : Nat) (next : Nat) (caps : List (Nat × Ctx)) (cmds : List (Nat × Cmd)) {s : State} (h8 : MemOk p0 s) :
    MemOk p0 (State.restoreCtxs part m chain i l0 next caps cmds s) := by
  unfold State.restoreCtxs
  with_reducible repeat' first
    | assumption
    | intro _
    | apply memOk_foldl
    | apply memOk_foldl2
    | split
    | simp only [memOk_mk]
    | apply memOk_fold
theorem State.restoreAsk_memOk (part : Nat) (m : Remap) {s : State} (a : LaunchAsk) (h2 : MemOk p0 s) :
    MemOk p0 (State.restoreAsk part m s a) := by
  unfold State.restoreAsk
  with_reducible repeat' first
    | assumption
    | intro _
    | apply State.post_memOk
    | split
    | simp only [memOk_mk]
    | apply memOk_fold
theorem State.loadPackage_memOk (part : Nat) (m : Remap) (i : Image) {s : State} (h3 : MemOk p0 s) :
    MemOk p0 (State.loadPackage part m i s) := by
  unfold State.loadPackage
  with_reducible repeat' first
    | assumption
    | intro _
    | apply memOk_foldl
    | apply memOk_foldl2
    | split
    | simp only [memOk_mk]
    | apply memOk_fold
theorem State.rebuild_memOk (m : Remap) (own : Nat) (table : Nat) (ls : List (Nat × Nat)) {s : State} (h : MemOk p0 s) :
    MemOk p0 (State.rebuild m own table ls s) := by
  induction ls generalizing table s with
  | nil => exact h
  | cons b l ih =>
    unfold State.rebuild
    repeat' first
      | with_reducible assumption
      | intro _
      | with_reducible apply ih
      | with_reducible apply State.writeDram_memOk
      | with_reducible apply memOk_foldl
      | split
      | dsimp only
theorem State.loadGranule_memOk (m : Remap) (part : Nat) {s : State} (u : Saved) (h2 : MemOk p0 s) :
    MemOk p0 (State.loadGranule m part s u) := by
  unfold State.loadGranule
  with_reducible repeat' first
    | assumption
    | intro _
    | apply State.writeDram_memOk
    | apply State.setTag_memOk
    | split
    | simp only [memOk_mk]
    | apply memOk_fold
theorem State.freeGranule_memOk {s : State} (g : Nat) (h0 : MemOk p0 s) :
    MemOk p0 (State.freeGranule s g) := by
  unfold State.freeGranule
  with_reducible repeat' first
    | assumption
    | intro _
    | apply State.freeBytes_memOk
    | (refine State.freeBytes_memOk_eq (by assumption) ?_)
    | apply State.writeDram_memOk
    | split
    | simp only [memOk_mk]
    | apply memOk_fold
theorem State.reslice_memOk (part : Nat) (i : Image) {s : State} (h2 : MemOk p0 s) :
    MemOk p0 (State.reslice part i s) := by
  unfold State.reslice
  with_reducible repeat' first
    | assumption
    | intro _
    | apply State.freeGranule_memOk
    | apply memOk_foldl
    | apply memOk_foldl2
    | split
    | simp only [memOk_mk]
    | apply memOk_fold
theorem State.restoreMemory_memOk (part : Nat) (m : Remap) (chain : List Image) (i : Image) {s : State} (h4 : MemOk p0 s) :
    MemOk p0 (State.restoreMemory part m chain i s) := by
  unfold State.restoreMemory
  with_reducible repeat' first
    | assumption
    | intro _
    | apply State.loadGranule_memOk
    | apply State.rebuild_memOk
    | apply State.reslice_memOk
    | apply memOk_foldl
    | apply memOk_foldl2
    | split
    | simp only [memOk_mk]
    | apply memOk_fold
theorem State.restoreAccesses_memOk (cs : List Nat) {s : State} (h1 : MemOk p0 s) :
    MemOk p0 (State.restoreAccesses cs s) := by
  unfold State.restoreAccesses
  with_reducible repeat' first
    | assumption
    | intro _
    | split
    | simp only [memOk_mk]
    | apply memOk_fold
theorem State.repostNodeCmds_memOk (ks : List Nat) {s : State} (h1 : MemOk p0 s) :
    MemOk p0 (State.repostNodeCmds ks s) := by
  unfold State.repostNodeCmds
  with_reducible repeat' first
    | assumption
    | intro _
    | split
    | simp only [memOk_mk]
    | apply memOk_fold
theorem State.restoreSites_memOk (part : Nat) (o : LaunchFrom) (l0 : Nat) (cs : List Nat) {s : State} (h4 : MemOk p0 s) :
    MemOk p0 (State.restoreSites part o l0 cs s) := by
  unfold State.restoreSites
  with_reducible repeat' first
    | assumption
    | intro _
    | apply State.saveToPool_memOk
    | apply memOk_foldl
    | apply memOk_foldl2
    | split
    | simp only [memOk_mk]
    | apply memOk_fold
theorem State.faultNotice_memOk (c : Nat) (r : FaultRec) {s : State} (h2 : MemOk p0 s) :
    MemOk p0 (State.faultNotice c r s) := by
  unfold State.faultNotice
  with_reducible repeat' first
    | assumption
    | intro _
    | (refine State.tryNotice_memOk (by assumption) ?_)
    | apply State.modPart_memOk
    | split
    | simp only [memOk_mk]
    | apply memOk_fold
theorem State.faultPolicy_memOk (c : Nat) (x : Ctx) {s : State} (h2 : MemOk p0 s) :
    MemOk p0 (State.faultPolicy c x s) := by
  unfold State.faultPolicy
  with_reducible repeat' first
    | assumption
    | intro _
    | apply State.callHook_memOk
    | apply State.modCtx_memOk
    | split
    | simp only [memOk_mk]
    | apply memOk_fold
theorem State.reportFault_memOk (c : Nat) (x : Ctx) (r : FaultRec) {s : State} (h3 : MemOk p0 s) :
    MemOk p0 (State.reportFault c x r s) := by
  unfold State.reportFault
  with_reducible repeat' first
    | assumption
    | intro _
    | apply State.faultNotice_memOk
    | apply State.faultPolicy_memOk
    | split
    | simp only [memOk_mk]
    | apply memOk_fold
theorem State.goOnStopped_memOk (c : Nat) (due : Bool) {s : State} (h2 : MemOk p0 s) :
    MemOk p0 (State.goOnStopped c due s) := by
  unfold State.goOnStopped
  with_reducible repeat' first
    | assumption
    | intro _
    | apply State.modCtx_memOk
    | apply State.terminate_memOk
    | apply State.faultNotice_memOk
    | apply State.reportFault_memOk
    | apply State.faultPolicy_memOk
    | split
    | simp only [memOk_mk]
    | apply memOk_fold
theorem State.restoreState_memOk (part : Nat) (o : LaunchFrom) (i : Image) (chain : List Image) {s : State} (h4 : MemOk p0 s) :
    MemOk p0 (State.restoreState part o i chain s) := by
  unfold State.restoreState
  with_reducible repeat' first
    | assumption
    | intro _
    | apply State.loadPackage_memOk
    | apply State.restoreCtxs_memOk
    | apply State.restoreMemory_memOk
    | apply State.restoreAccesses_memOk
    | apply State.restoreAsk_memOk
    | apply State.replay_memOk
    | apply State.resumeRun_memOk
    | apply State.restoreSites_memOk
    | apply State.repostNodeCmds_memOk
    | apply State.goOnStopped_memOk
    | apply memOk_foldl
    | apply memOk_foldl2
    | split
    | simp only [memOk_mk]
    | apply memOk_fold
theorem State.restoreChain_memOk (part : Nat) (o : LaunchFrom) (ssn : Nat) {s : State} (h3 : MemOk p0 s) :
    MemOk p0 (State.restoreChain part o ssn s).2 := by
  unfold State.restoreChain
  with_reducible repeat' first
    | assumption
    | intro _
    | apply State.setPage_memOk
    | apply State.restoreState_memOk
    | apply memOk_foldl
    | apply memOk_foldl2
    | split
    | simp only [memOk_mk]
    | apply memOk_fold
theorem State.restoreChain_memOk_eq {part : Nat} {o : LaunchFrom} {ssn : Nat} {s : State} {o_ t_} (e : (State.restoreChain part o ssn s) = (o_, t_)) (h3 : MemOk p0 s) :
    MemOk p0 t_ := by
  have := State.restoreChain_memOk part o ssn h3
  rwa [e] at this
theorem State.restoreHeld_memOk (part : Nat) (o : LaunchFrom) (at_ : Nat) {s : State} (h3 : MemOk p0 s) :
    MemOk p0 (State.restoreHeld part o at_ s).2 := by
  unfold State.restoreHeld
  with_reducible repeat' first
    | assumption
    | intro _
    | apply State.saveToPool_memOk
    | apply State.modCtx_memOk
    | split
    | simp only [memOk_mk]
    | apply memOk_fold
theorem State.restoreHeld_memOk_eq {part : Nat} {o : LaunchFrom} {at_ : Nat} {s : State} {o_ t_} (e : (State.restoreHeld part o at_ s) = (o_, t_)) (h3 : MemOk p0 s) :
    MemOk p0 t_ := by
  have := State.restoreHeld_memOk part o at_ h3
  rwa [e] at this
theorem State.restore_memOk (part : Nat) (o : LaunchFrom) (at_ : Nat) (kind : Nat) (ssn : Nat) {s : State} (h5 : MemOk p0 s) :
    MemOk p0 (State.restore part o at_ kind ssn s).2 := by
  unfold State.restore
  with_reducible repeat' first
    | assumption
    | intro _
    | apply State.restoreHeld_memOk
    | (refine State.restoreHeld_memOk_eq (by assumption) ?_)
    | apply State.restoreChain_memOk
    | (refine State.restoreChain_memOk_eq (by assumption) ?_)
    | split
    | simp only [memOk_mk]
    | apply memOk_fold
theorem State.restore_memOk_eq {part : Nat} {o : LaunchFrom} {at_ : Nat} {kind : Nat} {ssn : Nat} {s : State} {o_ t_} (e : (State.restore part o at_ kind ssn s) = (o_, t_)) (h5 : MemOk p0 s) :
    MemOk p0 t_ := by
  have := State.restore_memOk part o at_ kind ssn h5
  rwa [e] at this
theorem State.startRestore_memOk (k : Nat) (c : Cmd) {s : State} (h2 : MemOk p0 s) :
    MemOk p0 (State.startRestore k c s) := by
  unfold State.startRestore
  with_reducible repeat' first
    | assumption
    | intro _
    | apply State.restore_memOk
    | (refine State.restore_memOk_eq (by assumption) ?_)
    | apply State.endCmd_memOk
    | split
    | simp only [memOk_mk]
    | apply memOk_fold
theorem State.startSnapq_memOk (k : Nat) (c : Cmd) {s : State} (h2 : MemOk p0 s) :
    MemOk p0 (State.startSnapq k c s) := by
  unfold State.startSnapq
  with_reducible repeat' first
    | assumption
    | intro _
    | apply State.endCmd_memOk
    | apply State.free_memOk
    | (refine State.free_memOk_eq (by assumption) ?_)
    | apply State.writeRanges_memOk
    | split
    | simp only [memOk_mk]
    | apply memOk_fold
theorem State.startOn_memOk (k : Nat) (c : Cmd) (x : Ctx) {s : State} (h3 : MemOk p0 s) :
    MemOk p0 (State.startOn k c x s) := by
  unfold State.startOn
  with_reducible repeat' first
    | assumption
    | intro _
    | apply State.startMatrix_memOk
    | apply State.startRns_memOk
    | apply State.startCancel_memOk
    | apply State.startCopy_memOk
    | apply State.startRowq_memOk
    | apply State.startRow_memOk
    | apply State.startSnap_memOk
    | apply State.startSnapq_memOk
    | apply State.startSnaprel_memOk
    | apply State.startRun_memOk
    | apply State.startErd_memOk
    | apply State.startRestore_memOk
    | split
    | simp only [memOk_mk]
    | apply memOk_fold
theorem State.startCmd_memOk (k : Nat) (c : Cmd) {s : State} (h2 : MemOk p0 s) :
    MemOk p0 (State.startCmd k c s) := by
  unfold State.startCmd
  with_reducible repeat' first
    | assumption
    | intro _
    | apply State.queueChunk_memOk
    | apply State.acquire_memOk
    | apply State.startOn_memOk
    | apply State.modCmd_memOk
    | split
    | simp only [memOk_mk]
    | apply memOk_fold
theorem execEngineCommandStart_memOk {cmd : Nat} {s : State} {t_ : State} (e : (execEngineCommandStart cmd s) = .next t_) (h1 : MemOk p0 s) :
    MemOk p0 t_ := by
  unfold execEngineCommandStart at e
  injection e with e
  subst e
  with_reducible repeat' first
    | assumption
    | intro _
    | apply State.startCmd_memOk
    | split
    | simp only [memOk_mk]
    | apply memOk_fold
theorem execRingStallEnd_memOk {ctx : Nat} {gang : Nat} {sub : Nat} {s : State} {t_ : State} (e : (execRingStallEnd ctx gang sub s) = .next t_) (h3 : MemOk p0 s) :
    MemOk p0 t_ := by
  unfold execRingStallEnd at e
  injection e with e
  subst e
  with_reducible repeat' first
    | assumption
    | intro _
    | apply State.asIssuing_memOk
    | apply State.startWatch_memOk
    | apply State.modGg_memOk
    | apply State.issueEngine_memOk
    | split
    | simp only [memOk_mk]
    | apply memOk_fold
theorem State.float1_memOk (f : Fmt → FMode → Nat → Nat) (l : Bool) (d : BitVec 8) (a : BitVec 8) {s : State} (h4 : MemOk p0 s) :
    MemOk p0 (State.float1 f l d a s) := by
  unfold State.float1
  with_reducible repeat' first
    | assumption
    | intro _
    | apply State.compute_memOk
    | split
    | simp only [memOk_mk]
    | apply memOk_fold
theorem execFlog2_memOk {l : Bool} {d : BitVec 8} {a : BitVec 8} {s : State} {t_ : State} (e : (execFlog2 l d a s) = .next t_) (h3 : MemOk p0 s) :
    MemOk p0 t_ := by
  unfold execFlog2 at e
  injection e with e
  subst e
  with_reducible repeat' first
    | assumption
    | intro _
    | apply State.float1_memOk
    | split
    | simp only [memOk_mk]
    | apply memOk_fold
theorem State.sbar_memOk (x : BitVec 8) (y : BitVec 8) (usesY : Bool) (init : Bool) (fin : Bool) (scope : BitVec 3) (act : Nat → State → State) {s : State} (h6 : ∀ y0 t, MemOk p0 t → MemOk p0 (act y0 t)) (h7 : MemOk p0 s) :
    MemOk p0 (State.sbar x y usesY init fin scope act s) := by
  unfold State.sbar
  with_reducible repeat' first
    | assumption
    | intro _
    | apply State.raise_memOk
    | split
    | simp only [memOk_mk]
    | apply memOk_fold
    | apply h6
theorem State.arriveScope_memOk (loc : Nat) {s : State} (h1 : MemOk p0 s) :
    MemOk p0 (State.arriveScope loc s) := by
  unfold State.arriveScope
  with_reducible repeat' first
    | assumption
    | intro _
    | apply State.completeScope_memOk
    | apply State.putScope_memOk
    | split
    | simp only [memOk_mk]
    | apply memOk_fold
theorem State.countArrival_memOk (c : Nat) (g : Nat) (bar : BarName) {s : State} (h3 : MemOk p0 s) :
    MemOk p0 (State.countArrival c g bar s) := by
  unfold State.countArrival
  with_reducible repeat' first
    | assumption
    | intro _
    | apply State.modGang_memOk
    | apply State.arriveNamed_memOk
    | apply State.arriveScope_memOk
    | apply memOk_getD
    | split
    | simp only [memOk_mk]
    | apply memOk_fold
theorem State.arrive_memOk (bar : BarName) {s : State} (h1 : MemOk p0 s) :
    MemOk p0 (State.arrive bar s) := by
  unfold State.arrive
  with_reducible repeat' first
    | assumption
    | intro _
    | apply State.countArrival_memOk
    | apply State.modGg_memOk
    | split
    | simp only [memOk_mk]
    | apply memOk_fold
theorem State.arriveWord_memOk (bar : BarName) (scope : Nat) (l : Bool) (a : Nat) (n : Nat) (second : Nat → FaultInfo) {s : State} (h6 : MemOk p0 s) :
    MemOk p0 (State.arriveWord bar scope l a n second s) := by
  unfold State.arriveWord
  with_reducible repeat' first
    | assumption
    | intro _
    | apply State.checked_memOk
    | apply State.released_memOk
    | apply State.endWordL_memOk
    | apply State.arrive_memOk
    | split
    | simp only [memOk_mk]
    | apply memOk_fold
theorem execSbarArr_memOk {l : Bool} {x : BitVec 8} {scope : BitVec 3} {s : State} {t_ : State} (e : (execSbarArr l x scope s) = .next t_) (h3 : MemOk p0 s) :
    MemOk p0 t_ := by
  unfold execSbarArr at e
  injection e with e
  subst e
  with_reducible repeat' first
    | assumption
    | intro _
    | apply State.sbar_memOk
    | apply State.arriveWord_memOk
    | split
    | simp only [memOk_mk]
    | apply memOk_fold
theorem execCctlWb_memOk {l : Bool} {a : BitVec 8} {s : State} {t_ : State} (e : (execCctlWb l a s) = .next t_) (h2 : MemOk p0 s) :
    MemOk p0 t_ := by
  unfold execCctlWb at e
  injection e with e
  subst e
  with_reducible repeat' first
    | assumption
    | intro _
    | apply State.cctl_memOk
    | split
    | simp only [memOk_mk]
    | apply memOk_fold
theorem execMaccLoad_memOk {l : Bool} {d : BitVec 8} {a : BitVec 8} {b : BitVec 5} {s : State} {t_ : State} (e : (execMaccLoad l d a b s) = .next t_) (h4 : MemOk p0 s) :
    MemOk p0 t_ := by
  unfold execMaccLoad at e
  injection e with e
  subst e
  with_reducible repeat' first
    | assumption
    | intro _
    | apply State.issueEngine_memOk
    | split
    | simp only [memOk_mk]
    | apply memOk_fold
theorem execMovW8_memOk {l : Bool} {d : BitVec 8} {a : BitVec 8} {s : State} {t_ : State} (e : (execMovW8 l d a s) = .next t_) (h3 : MemOk p0 s) :
    MemOk p0 t_ := by
  unfold execMovW8 at e
  injection e with e
  subst e
  with_reducible repeat' first
    | assumption
    | intro _
    | apply State.endWordL_memOk
    | apply State.checked_memOk
    | apply State.struck_memOk
    | apply State.modGg_memOk
    | apply State.beforeRegs_memOk
    | split
    | simp only [memOk_mk]
    | apply memOk_fold
theorem execDieStateReport_memOk {dom : Nat} {die : Nat} {col : Bool} {s : State} {t_ : State} (e : (execDieStateReport dom die col s) = .next t_) (h3 : MemOk p0 s) :
    MemOk p0 t_ := by
  unfold execDieStateReport at e
  injection e with e
  subst e
  with_reducible repeat' first
    | assumption
    | intro _
    | apply State.judgeReports_memOk
    | apply State.modDomain_memOk
    | split
    | simp only [memOk_mk]
    | apply memOk_fold
theorem execReduxAnd_memOk {l : Bool} {d : BitVec 8} {a : BitVec 8} {s : State} {t_ : State} (e : (execReduxAnd l d a s) = .next t_) (h3 : MemOk p0 s) :
    MemOk p0 t_ := by
  unfold execReduxAnd at e
  injection e with e
  subst e
  with_reducible repeat' first
    | assumption
    | intro _
    | apply State.redux_memOk
    | apply memOk_foldl
    | apply memOk_foldl2
    | split
    | simp only [memOk_mk]
    | apply memOk_fold
theorem execColStagingDrain_memOk {die : Nat} {s : State} {t_ : State} (e : (execColStagingDrain die s) = .next t_) (h1 : MemOk p0 s) :
    MemOk p0 t_ := by
  unfold execColStagingDrain at e
  injection e with e
  subst e
  with_reducible repeat' first
    | assumption
    | intro _
    | apply State.drainStaged_memOk
    | split
    | simp only [memOk_mk]
    | apply memOk_fold
theorem State.readGraph_memOk (p : Nat) (va : Nat) {s : State} (h2 : MemOk p0 s) :
    MemOk p0 (State.readGraph p va s).2 := by
  unfold State.readGraph
  with_reducible repeat' first
    | assumption
    | intro _
    | apply State.frontRead_memOk
    | (refine State.frontRead_memOk_eq (by assumption) ?_)
    | apply State.readVariants_memOk
    | (refine State.readVariants_memOk_eq (by assumption) ?_)
    | split
    | simp only [memOk_mk]
    | apply memOk_fold
theorem State.readGraph_memOk_eq {p : Nat} {va : Nat} {s : State} {o_ t_} (e : (State.readGraph p va s) = (o_, t_)) (h2 : MemOk p0 s) :
    MemOk p0 t_ := by
  have := State.readGraph_memOk p va h2
  rwa [e] at this
theorem State.loadGraph_memOk (p : Nat) (va : Nat) {s : State} (h2 : MemOk p0 s) :
    MemOk p0 (State.loadGraph p va s).2 := by
  unfold State.loadGraph
  with_reducible repeat' first
    | assumption
    | intro _
    | apply State.readGraph_memOk
    | (refine State.readGraph_memOk_eq (by assumption) ?_)
    | split
    | simp only [memOk_mk]
    | apply memOk_fold
theorem State.loadGraph_memOk_eq {p : Nat} {va : Nat} {s : State} {o_ t_} (e : (State.loadGraph p va s) = (o_, t_)) (h2 : MemOk p0 s) :
    MemOk p0 t_ := by
  have := State.loadGraph_memOk p va h2
  rwa [e] at this
theorem execMwaitWake_memOk {ctx : Nat} {gang : Nat} {sub : Nat} {s : State} {t_ : State} (e : (execMwaitWake ctx gang sub s) = .next t_) (h3 : MemOk p0 s) :
    MemOk p0 t_ := by
  unfold execMwaitWake at e
  injection e with e
  subst e
  with_reducible repeat' first
    | assumption
    | intro _
    | apply State.asIssuing_memOk
    | apply State.resumeWord_memOk
    | apply State.disarm_memOk
    | split
    | simp only [memOk_mk]
    | apply memOk_fold
theorem State.enterEntryCmd_memOk (v : Nat) (c : Nat) (k : Cmd) {s : State} (h3 : MemOk p0 s) :
    MemOk p0 (State.enterEntryCmd v c k s) := by
  unfold State.enterEntryCmd
  with_reducible repeat' first
    | assumption
    | intro _
    | apply State.addCmd_memOk
    | (refine State.addCmd_memOk_eq (by assumption) ?_)
    | apply State.enqueue_memOk
    | split
    | simp only [memOk_mk]
    | apply memOk_fold
theorem execEngine_memOk {vf : Nat} {chain : Nat} {entry : Nat} {s : State} {t_ : State} (e : (execEngine vf chain entry s) = .next t_) (h3 : MemOk p0 s) :
    MemOk p0 t_ := by
  unfold execEngine at e
  injection e with e
  subst e
  with_reducible repeat' first
    | assumption
    | intro _
    | apply State.entryStarts_memOk
    | apply State.enterEntryCmd_memOk
    | split
    | simp only [memOk_mk]
    | apply memOk_fold
theorem State.answerSnapshot_memOk (dom : Nat) (ans : Nat) {s : State} (h2 : MemOk p0 s) :
    MemOk p0 (State.answerSnapshot dom ans s) := by
  unfold State.answerSnapshot
  with_reducible repeat' first
    | assumption
    | intro _
    | apply State.tryClose_memOk
    | apply State.modDieCol_memOk
    | apply State.settlePend_memOk
    | apply memOk_foldl
    | apply memOk_foldl2
    | split
    | simp only [memOk_mk]
    | apply memOk_fold
theorem State.takeEntries_memOk (v : Nat) {s : State} (c : Nat) (h1 : MemOk p0 s) :
    MemOk p0 (State.takeEntries v s c) := by
  unfold State.takeEntries
  with_reducible repeat' first
    | assumption
    | intro _
    | apply State.notice_memOk
    | apply State.setPage_memOk
    | apply State.modChain_memOk
    | apply State.frontRead_memOk
    | (refine State.frontRead_memOk_eq (by assumption) ?_)
    | apply State.startNext_memOk
    | apply memOk_foldl
    | apply memOk_foldl2
    | apply memOk_getD
    | split
    | simp only [memOk_mk]
    | apply memOk_fold
theorem State.drainRecords_memOk (p : Nat) (x1 : Nat) {x2 : State} (h2 : MemOk p0 x2) :
    MemOk p0 (State.drainRecords p x1 x2) := by
  induction x1 generalizing x2 with
  | zero =>
    unfold State.drainRecords
    with_reducible repeat' first
      | assumption
      | intro _
      | (refine State.tryNotice_memOk (by assumption) ?_)
      | apply State.modPart_memOk
      | split
      | simp only [memOk_mk]
      | apply memOk_fold
  | succ f_ ih =>
    unfold State.drainRecords
    with_reducible repeat' first
      | assumption
      | intro _
      | apply ih
      | (refine State.tryNotice_memOk (by assumption) ?_)
      | apply State.modPart_memOk
      | split
      | simp only [memOk_mk]
      | apply memOk_fold
theorem State.takeRecords_memOk (p : Nat) {s : State} (h1 : MemOk p0 s) :
    MemOk p0 (State.takeRecords p s) := by
  unfold State.takeRecords
  with_reducible repeat' first
    | assumption
    | intro _
    | apply State.drainRecords_memOk
    | apply State.faultPolicy_memOk
    | apply memOk_foldl
    | apply memOk_foldl2
    | split
    | simp only [memOk_mk]
    | apply memOk_fold
theorem execNotify_memOk {vf : Nat} {s : State} {t_ : State} (e : (execNotify vf s) = .next t_) (h1 : MemOk p0 s) :
    MemOk p0 t_ := by
  unfold execNotify at e
  injection e with e
  subst e
  with_reducible repeat' first
    | assumption
    | intro _
    | apply State.logMessage_memOk
    | apply State.modVf_memOk
    | apply State.answerSnapshot_memOk
    | apply State.post_memOk
    | apply State.takeRecords_memOk
    | apply State.takeEntries_memOk
    | apply memOk_foldl
    | apply memOk_foldl2
    | split
    | simp only [memOk_mk]
    | apply memOk_fold
theorem State.survivors_memOk (keep : Tab Ctx) {s : State} (h1 : MemOk p0 s) : MemOk p0 (State.survivors keep s) := by
  unfold State.survivors
  simp only [memOk_mk]
  refine ⟨?_, h1.2⟩
  have h := h1.1
  unfold State.tableMemory
  simp only [Memory.wf, Tab.wf, Bool.and_eq_true, List.all_eq_true] at h ⊢
  exact ⟨Tab.rising_filter _ h.1, fun b hb => h.2 b (List.mem_filter.1 hb).1⟩
theorem State.dropChains_memOk (vf : Nat) {s : State} (h1 : MemOk p0 s) :
    MemOk p0 (State.dropChains vf s) := by
  unfold State.dropChains
  with_reducible repeat' first
    | assumption
    | intro _
    | split
    | simp only [memOk_mk]
    | apply memOk_fold
theorem State.tryRelease_memOk (vf : Nat) {s : State} (h1 : MemOk p0 s) :
    MemOk p0 (State.tryRelease vf s) := by
  unfold State.tryRelease
  with_reducible repeat' first
    | assumption
    | intro _
    | apply State.dropChains_memOk
    | apply State.modVf_memOk
    | split
    | simp only [memOk_mk]
    | apply memOk_fold
theorem execTeardownAcknowledgement_memOk {port : Nat} {f : Sys2Proof.Flit} {s : State} {t_ : State} (e : (execTeardownAcknowledgement port f s) = .next t_) (h2 : MemOk p0 s) :
    MemOk p0 t_ := by
  unfold execTeardownAcknowledgement at e
  injection e with e
  subst e
  with_reducible repeat' first
    | assumption
    | intro _
    | apply State.takeFlit_memOk
    | apply State.tryRelease_memOk
    | apply State.modVf_memOk
    | split
    | simp only [memOk_mk]
    | apply memOk_fold
theorem execAttributionPeriodEnd_memOk {die : Nat} {m : Sys2Proof.Metered} {ctxs : List Sys2Proof.CtxUse} {s : State} {t_ : State} (e : (execAttributionPeriodEnd die m ctxs s) = .next t_) (h3 : MemOk p0 s) :
    MemOk p0 t_ := by
  unfold execAttributionPeriodEnd at e
  injection e with e
  subst e
  with_reducible repeat' first
    | assumption
    | intro _
    | apply State.post_memOk
    | apply State.modCtx_memOk
    | apply memOk_foldl
    | apply memOk_foldl2
    | split
    | simp only [memOk_mk]
    | apply memOk_fold
theorem execSubb_memOk {l : Bool} {d : BitVec 8} {a : BitVec 8} {b : BitVec 8} {s : State} {t_ : State} (e : (execSubb l d a b s) = .next t_) (h4 : MemOk p0 s) :
    MemOk p0 t_ := by
  unfold execSubb at e
  injection e with e
  subst e
  with_reducible repeat' first
    | assumption
    | intro _
    | apply State.computeAs_memOk
    | split
    | simp only [memOk_mk]
    | apply memOk_fold
theorem State.logic2_memOk (f : Nat → Nat → Nat) (l : Bool) (d : BitVec 8) (a : BitVec 8) (b : BitVec 8) {s : State} (h5 : MemOk p0 s) :
    MemOk p0 (State.logic2 f l d a b s) := by
  unfold State.logic2
  with_reducible repeat' first
    | assumption
    | intro _
    | apply State.compute_memOk
    | split
    | simp only [memOk_mk]
    | apply memOk_fold
theorem State.activate_memOk {s : State} (h0 : MemOk p0 s) :
    MemOk p0 (State.activate s) := by
  unfold State.activate
  with_reducible repeat' first
    | assumption
    | intro _
    | split
    | simp only [memOk_mk]
    | apply memOk_fold
theorem State.endReading_memOk (vf : Nat) (err : Bool) (code : Nat) {s : State} (h3 : MemOk p0 s) :
    MemOk p0 (State.endReading vf err code s) := by
  unfold State.endReading
  with_reducible repeat' first
    | assumption
    | intro _
    | apply State.showPages_memOk
    | apply State.modVf_memOk
    | split
    | simp only [memOk_mk]
    | apply memOk_fold
theorem State.transfer_memOk (ds : List Dest) {s : State} (h1 : MemOk p0 s) :
    MemOk p0 (State.transfer ds s) := by
  unfold State.transfer
  with_reducible repeat' first
    | assumption
    | intro _
    | apply State.transferWith_memOk
    | apply memOk_id
    | split
    | simp only [memOk_mk]
    | apply memOk_fold
theorem State.branchOn_memOk (take : Nat → Gang → Nat → Bool) (l : Bool) (c : BitVec 8) (o : BitVec 16) {s : State} (h4 : MemOk p0 s) :
    MemOk p0 (State.branchOn take l c o s) := by
  unfold State.branchOn
  with_reducible repeat' first
    | assumption
    | intro _
    | apply State.checked_memOk
    | apply State.transferWith_memOk
    | split
    | simp only [memOk_mk]
    | apply memOk_fold
theorem execBall_memOk {l : Bool} {c : BitVec 8} {o : BitVec 16} {s : State} {t_ : State} (e : (execBall l c o s) = .next t_) (h3 : MemOk p0 s) :
    MemOk p0 t_ := by
  unfold execBall at e
  injection e with e
  subst e
  with_reducible repeat' first
    | assumption
    | intro _
    | apply State.branchOn_memOk
    | split
    | simp only [memOk_mk]
    | apply memOk_fold
theorem execRmma_memOk {l : Bool} {d : BitVec 8} {a : BitVec 8} {b : BitVec 5} {s : State} {t_ : State} (e : (execRmma l d a b s) = .next t_) (h4 : MemOk p0 s) :
    MemOk p0 t_ := by
  unfold execRmma at e
  injection e with e
  subst e
  with_reducible repeat' first
    | assumption
    | intro _
    | apply State.issueEngine_memOk
    | split
    | simp only [memOk_mk]
    | apply memOk_fold
theorem State.homeDone_memOk (c : Nat) (g : Nat) (k : Nat) (test : AccKind → Bool) {s : State} (h4 : MemOk p0 s) :
    MemOk p0 (State.homeDone c g k test s) := by
  unfold State.homeDone
  with_reducible repeat' first
    | assumption
    | intro _
    | apply State.settleAccess_memOk
    | apply State.modGang_memOk
    | apply memOk_getD
    | split
    | simp only [memOk_mk]
    | apply memOk_fold
theorem execStoreAcknowledgement_memOk {ctx : Nat} {gang : Nat} {access : Nat} {s : State} {t_ : State} (e : (execStoreAcknowledgement ctx gang access s) = .next t_) (h3 : MemOk p0 s) :
    MemOk p0 t_ := by
  unfold execStoreAcknowledgement at e
  injection e with e
  subst e
  with_reducible repeat' first
    | assumption
    | intro _
    | apply State.homeDone_memOk
    | split
    | simp only [memOk_mk]
    | apply memOk_fold
theorem execMul_memOk {l : Bool} {d : BitVec 8} {a : BitVec 8} {b : BitVec 8} {s : State} {t_ : State} (e : (execMul l d a b s) = .next t_) (h4 : MemOk p0 s) :
    MemOk p0 t_ := by
  unfold execMul at e
  injection e with e
  subst e
  with_reducible repeat' first
    | assumption
    | intro _
    | apply State.int2_memOk
    | split
    | simp only [memOk_mk]
    | apply memOk_fold
theorem State.advanceCopy_memOk (k : Nat) {s : State} (h1 : MemOk p0 s) :
    MemOk p0 (State.advanceCopy k s) := by
  unfold State.advanceCopy
  with_reducible repeat' first
    | assumption
    | intro _
    | apply State.settleCopy_memOk
    | apply State.moveCopy_memOk
    | split
    | simp only [memOk_mk]
    | apply memOk_fold
theorem execWorkgroupRetire_memOk {ctx : Nat} {s : State} {t_ : State} (e : (execWorkgroupRetire ctx s) = .next t_) (h1 : MemOk p0 s) :
    MemOk p0 t_ := by
  unfold execWorkgroupRetire at e
  injection e with e
  subst e
  with_reducible repeat' first
    | assumption
    | intro _
    | apply State.endCtx_memOk
    | split
    | simp only [memOk_mk]
    | apply memOk_fold
theorem State.startNodeCopy_memOk (k : Nat) (c : Cmd) {s : State} (h2 : MemOk p0 s) :
    MemOk p0 (State.startNodeCopy k c s) := by
  unfold State.startNodeCopy
  with_reducible repeat' first
    | assumption
    | intro _
    | apply State.acquire_memOk
    | apply State.startCopy_memOk
    | apply State.modCmd_memOk
    | split
    | simp only [memOk_mk]
    | apply memOk_fold
theorem State.startChunk_memOk (h : Nat) (n : Nat) {s : State} (h2 : MemOk p0 s) :
    MemOk p0 (State.startChunk h n s) := by
  unfold State.startChunk
  with_reducible repeat' first
    | assumption
    | intro _
    | apply State.modRun_memOk
    | apply State.startNodeCopy_memOk
    | apply State.acquire_memOk
    | apply State.contribute_memOk
    | apply State.failNode_memOk
    | apply State.addCmd_memOk
    | (refine State.addCmd_memOk_eq (by assumption) ?_)
    | split
    | simp only [memOk_mk]
    | apply memOk_fold
theorem State.visitChunks_memOk (v : Nat) (x1 : Nat) {x2 : State} (h2 : MemOk p0 x2) :
    MemOk p0 (State.visitChunks v x1 x2) := by
  induction x1 generalizing x2 with
  | zero =>
    unfold State.visitChunks
    with_reducible repeat' first
      | assumption
      | intro _
      | apply State.startChunk_memOk
      | split
      | simp only [memOk_mk]
      | apply memOk_fold
  | succ f_ ih =>
    unfold State.visitChunks
    with_reducible repeat' first
      | assumption
      | intro _
      | apply ih
      | apply State.startChunk_memOk
      | split
      | simp only [memOk_mk]
      | apply memOk_fold
theorem execChunkDispatch_memOk {s : State} {t_ : State} (e : (execChunkDispatch s) = .next t_) (h0 : MemOk p0 s) :
    MemOk p0 t_ := by
  unfold execChunkDispatch at e
  injection e with e
  subst e
  with_reducible repeat' first
    | assumption
    | intro _
    | apply State.visitChunks_memOk
    | apply State.post_memOk
    | split
    | simp only [memOk_mk]
    | apply memOk_fold
theorem execBany_memOk {l : Bool} {c : BitVec 8} {o : BitVec 16} {s : State} {t_ : State} (e : (execBany l c o s) = .next t_) (h3 : MemOk p0 s) :
    MemOk p0 t_ := by
  unfold execBany at e
  injection e with e
  subst e
  with_reducible repeat' first
    | assumption
    | intro _
    | apply State.branchOn_memOk
    | split
    | simp only [memOk_mk]
    | apply memOk_fold
theorem execAnd_memOk {l : Bool} {d : BitVec 8} {a : BitVec 8} {b : BitVec 8} {s : State} {t_ : State} (e : (execAnd l d a b s) = .next t_) (h4 : MemOk p0 s) :
    MemOk p0 t_ := by
  unfold execAnd at e
  injection e with e
  subst e
  with_reducible repeat' first
    | assumption
    | intro _
    | apply State.logic2_memOk
    | split
    | simp only [memOk_mk]
    | apply memOk_fold
theorem State.testBar_memOk (bar : BarName) (dest : Nat) (scope : Nat) {s : State} (h3 : MemOk p0 s) :
    MemOk p0 (State.testBar bar dest scope s) := by
  unfold State.testBar
  with_reducible repeat' first
    | assumption
    | intro _
    | apply State.modGg_memOk
    | apply State.acquire_memOk
    | apply State.endWord_memOk
    | apply State.beforeRegs_memOk
    | split
    | simp only [memOk_mk]
    | apply memOk_fold
theorem execBartest_memOk {x : BitVec 8} {b : BitVec 5} {s : State} {t_ : State} (e : (execBartest x b s) = .next t_) (h2 : MemOk p0 s) :
    MemOk p0 t_ := by
  unfold execBartest at e
  injection e with e
  subst e
  with_reducible repeat' first
    | assumption
    | intro _
    | apply State.checked_memOk
    | apply State.testBar_memOk
    | split
    | simp only [memOk_mk]
    | apply memOk_fold
theorem execXpack_memOk {l : Bool} {d : BitVec 8} {a : BitVec 8} {b : BitVec 5} {s : State} {t_ : State} (e : (execXpack l d a b s) = .next t_) (h4 : MemOk p0 s) :
    MemOk p0 t_ := by
  unfold execXpack at e
  injection e with e
  subst e
  with_reducible repeat' first
    | assumption
    | intro _
    | apply State.issueEngine_memOk
    | split
    | simp only [memOk_mk]
    | apply memOk_fold
theorem State.readConst_memOk (core : Nat) (p : Place) {s : State} (h2 : MemOk p0 s) :
    MemOk p0 (State.readConst core p s).2 := by
  unfold State.readConst
  with_reducible repeat' first
    | assumption
    | intro _
    | apply State.fillConst_memOk
    | split
    | simp only [memOk_mk]
    | apply memOk_fold
theorem State.readConst_memOk_eq {core : Nat} {p : Place} {s : State} {o_ t_} (e : (State.readConst core p s) = (o_, t_)) (h2 : MemOk p0 s) :
    MemOk p0 t_ := by
  have := State.readConst_memOk core p h2
  rwa [e] at this
theorem State.readSector_memOk (core : Nat) (loc : Nat) (l : Leaf) {s : State} (h3 : MemOk p0 s) :
    MemOk p0 (State.readSector core loc l s).2 := by
  unfold State.readSector
  with_reducible repeat' first
    | assumption
    | intro _
    | apply State.fillSector_memOk
    | split
    | simp only [memOk_mk]
    | apply memOk_fold
theorem State.readSector_memOk_eq {core : Nat} {loc : Nat} {l : Leaf} {s : State} {o_ t_} (e : (State.readSector core loc l s) = (o_, t_)) (h3 : MemOk p0 s) :
    MemOk p0 t_ := by
  have := State.readSector_memOk core loc l h3
  rwa [e] at this
theorem State.readTarget_memOk (const : Bool) (core : Nat) (n : Nat) (t : Target) {s : State} (h4 : MemOk p0 s) :
    MemOk p0 (State.readTarget const core n t s).2 := by
  unfold State.readTarget
  with_reducible repeat' first
    | assumption
    | intro _
    | apply State.readConst_memOk
    | (refine State.readConst_memOk_eq (by assumption) ?_)
    | apply State.readSector_memOk
    | (refine State.readSector_memOk_eq (by assumption) ?_)
    | split
    | simp only [memOk_mk]
    | apply memOk_fold
theorem State.readTarget_memOk_eq {const : Bool} {core : Nat} {n : Nat} {t : Target} {s : State} {o_ t_} (e : (State.readTarget const core n t s) = (o_, t_)) (h4 : MemOk p0 s) :
    MemOk p0 t_ := by
  have := State.readTarget_memOk const core n t h4
  rwa [e] at this
theorem State.readAll_memOk (const : Bool) (core : Nat) (n : Nat) (x3 : List (Nat × Target)) {x4 : State} (h4 : MemOk p0 x4) :
    MemOk p0 (State.readAll const core n x3 x4).2 := by
  induction x3 generalizing x4 with
  | nil =>
    unfold State.readAll
    with_reducible repeat' first
      | assumption
      | intro _
      | apply State.readTarget_memOk
      | (refine State.readTarget_memOk_eq (by assumption) ?_)
      | split
      | simp only [memOk_mk]
      | apply memOk_fold
  | cons b_ l_ ih =>
    have ih2 : ∀ {s_ t_ o_}, State.readAll const core n l_ s_ = (o_, t_) → MemOk p0 s_ → MemOk p0 t_ := by
      intro s_ t_ o_ e h
      have := ih h
      rwa [e] at this
    unfold State.readAll
    with_reducible repeat' first
      | assumption
      | intro _
      | apply ih
      | (refine ih2 (by assumption) ?_)
      | apply State.readTarget_memOk
      | (refine State.readTarget_memOk_eq (by assumption) ?_)
      | split
      | simp only [memOk_mk]
      | apply memOk_fold
theorem State.readAll_memOk_eq {const : Bool} {core : Nat} {n : Nat} {x3 : List (Nat × Target)} {x4 : State} {o_ t_} (e : (State.readAll const core n x3 x4) = (o_, t_)) (h4 : MemOk p0 x4) :
    MemOk p0 t_ := by
  have := State.readAll_memOk const core n x3 h4
  rwa [e] at this
theorem State.load_memOk (h : LoadHow) (ts : List (Nat × Target)) {s : State} (h2 : MemOk p0 s) :
    MemOk p0 (State.load h ts s).1 := by
  unfold State.load
  with_reducible repeat' first
    | assumption
    | intro _
    | apply State.acquire_memOk
    | apply State.readAll_memOk
    | (refine State.readAll_memOk_eq (by assumption) ?_)
    | apply State.askAll_memOk
    | (refine State.askAll_memOk_eq (by assumption) ?_)
    | apply State.openAccess_memOk
    | apply State.giveLanes_memOk
    | apply State.post_memOk
    | split
    | simp only [memOk_mk]
    | apply memOk_fold
theorem State.load_memOk_eq {h : LoadHow} {ts : List (Nat × Target)} {s : State} {o_ t_} (e : (State.load h ts s) = (t_, o_)) (h2 : MemOk p0 s) :
    MemOk p0 t_ := by
  have := State.load_memOk h ts h2
  rwa [e] at this
theorem execRowand_memOk {l : Bool} {d : BitVec 8} {a : BitVec 8} {b : BitVec 5} {s : State} {t_ : State} (e : (execRowand l d a b s) = .next t_) (h4 : MemOk p0 s) :
    MemOk p0 t_ := by
  unfold execRowand at e
  injection e with e
  subst e
  with_reducible repeat' first
    | assumption
    | intro _
    | apply State.issueEngine_memOk
    | split
    | simp only [memOk_mk]
    | apply memOk_fold
theorem State.closeChannel_memOk (die : Nat) (ch : Sys2Proof.Channel) (m : Sys2Proof.Marker) {s : State} (h3 : MemOk p0 s) :
    MemOk p0 (State.closeChannel die ch m s) := by
  unfold State.closeChannel
  with_reducible repeat' first
    | assumption
    | intro _
    | apply State.tryClose_memOk
    | apply State.modDieCol_memOk
    | split
    | simp only [memOk_mk]
    | apply memOk_fold
theorem State.namePlanes_memOk (d : Domain) (pod : Nat) (m : Sys2Proof.Marker) {s : State} (h3 : MemOk p0 s) :
    MemOk p0 (State.namePlanes d pod m s) := by
  unfold State.namePlanes
  with_reducible repeat' first
    | assumption
    | intro _
    | apply State.tryClose_memOk
    | apply State.modDieCol_memOk
    | apply State.modDomain_memOk
    | apply memOk_foldl
    | apply memOk_foldl2
    | split
    | simp only [memOk_mk]
    | apply memOk_fold
theorem State.takeMarker_memOk (die : Nat) (ch : Sys2Proof.Channel) (m : Sys2Proof.Marker) {s : State} (h3 : MemOk p0 s) :
    MemOk p0 (State.takeMarker die ch m s) := by
  unfold State.takeMarker
  with_reducible repeat' first
    | assumption
    | intro _
    | apply State.modDieCol_memOk
    | apply State.namePlanes_memOk
    | apply State.recordDie_memOk
    | apply State.closeChannel_memOk
    | split
    | simp only [memOk_mk]
    | apply memOk_fold
theorem execKeySwitchSend_memOk {port : Nat} {s : State} {t_ : State} (e : (execKeySwitchSend port s) = .next t_) (h1 : MemOk p0 s) :
    MemOk p0 t_ := by
  unfold execKeySwitchSend at e
  injection e with e
  subst e
  with_reducible repeat' first
    | assumption
    | intro _
    | apply State.post_memOk
    | apply State.modPort_memOk
    | split
    | simp only [memOk_mk]
    | apply memOk_fold
theorem execFsub_memOk {l : Bool} {d : BitVec 8} {a : BitVec 8} {b : BitVec 8} {s : State} {t_ : State} (e : (execFsub l d a b s) = .next t_) (h4 : MemOk p0 s) :
    MemOk p0 t_ := by
  unfold execFsub at e
  injection e with e
  subst e
  with_reducible repeat' first
    | assumption
    | intro _
    | apply State.float2_memOk
    | split
    | simp only [memOk_mk]
    | apply memOk_fold
theorem execWrite_memOk {port : Nat} {f : Sys2Proof.Flit} {s : State} {t_ : State} (e : (execWrite port f s) = .next t_) (h2 : MemOk p0 s) :
    MemOk p0 t_ := by
  unfold execWrite at e
  injection e with e
  subst e
  with_reducible repeat' first
    | assumption
    | intro _
    | apply State.takeKind_memOk
    | apply State.serveWrite_memOk
    | split
    | simp only [memOk_mk]
    | apply memOk_fold
theorem State.giveSlots_memOk {s : State} (h0 : MemOk p0 s) :
    MemOk p0 (State.giveSlots s) := by
  unfold State.giveSlots
  with_reducible repeat' first
    | assumption
    | intro _
    | apply State.giveSlot_memOk
    | apply memOk_foldl
    | apply memOk_foldl2
    | split
    | simp only [memOk_mk]
    | apply memOk_fold
theorem execRestore_memOk {vf : Nat} {chain : Nat} {entry : Nat} {s : State} {t_ : State} (e : (execRestore vf chain entry s) = .next t_) (h3 : MemOk p0 s) :
    MemOk p0 t_ := by
  unfold execRestore at e
  injection e with e
  subst e
  with_reducible repeat' first
    | assumption
    | intro _
    | apply State.entryStarts_memOk
    | apply State.restore_memOk
    | (refine State.restore_memOk_eq (by assumption) ?_)
    | apply State.endEntry_memOk
    | split
    | simp only [memOk_mk]
    | apply memOk_fold
theorem State.onCode_memOk (x : Ctx) (va : Nat) (act : State → State) {s : State} (h2 : ∀ t, MemOk p0 t → MemOk p0 (act t)) (h3 : MemOk p0 s) :
    MemOk p0 (State.onCode x va act s) := by
  unfold State.onCode
  with_reducible repeat' first
    | assumption
    | intro _
    | apply State.askCode_memOk
    | split
    | simp only [memOk_mk]
    | apply memOk_fold
    | apply h2
theorem execRegang_memOk {t : BitVec 3} {s : State} {t_ : State} (e : (execRegang t s) = .next t_) (h1 : MemOk p0 s) :
    MemOk p0 t_ := by
  unfold execRegang at e
  injection e with e
  subst e
  with_reducible repeat' first
    | assumption
    | intro _
    | apply State.checked_memOk
    | apply State.onCode_memOk
    | apply State.raise_memOk
    | apply State.yieldNow_memOk
    | apply State.modGg_memOk
    | apply State.countWord_memOk
    | apply memOk_getD
    | split
    | simp only [memOk_mk]
    | apply memOk_fold
theorem execPack2_memOk {l : Bool} {d : BitVec 8} {a : BitVec 8} {b : BitVec 8} {s : State} {t_ : State} (e : (execPack2 l d a b s) = .next t_) (h4 : MemOk p0 s) :
    MemOk p0 t_ := by
  unfold execPack2 at e
  injection e with e
  subst e
  with_reducible repeat' first
    | assumption
    | intro _
    | apply State.compute_memOk
    | split
    | simp only [memOk_mk]
    | apply memOk_fold
theorem execSnapshotMarker_memOk {die : Nat} {chan : Sys2Proof.Channel} {f : Sys2Proof.Flit} {s : State} {t_ : State} (e : (execSnapshotMarker die chan f s) = .next t_) (h3 : MemOk p0 s) :
    MemOk p0 t_ := by
  unfold execSnapshotMarker at e
  injection e with e
  subst e
  with_reducible repeat' first
    | assumption
    | intro _
    | apply State.takeKind_memOk
    | apply State.takeMarker_memOk
    | split
    | simp only [memOk_mk]
    | apply memOk_fold
theorem execReduxMax_memOk {l : Bool} {d : BitVec 8} {a : BitVec 8} {s : State} {t_ : State} (e : (execReduxMax l d a s) = .next t_) (h3 : MemOk p0 s) :
    MemOk p0 t_ := by
  unfold execReduxMax at e
  injection e with e
  subst e
  with_reducible repeat' first
    | assumption
    | intro _
    | apply State.redux_memOk
    | apply memOk_foldl
    | apply memOk_foldl2
    | split
    | simp only [memOk_mk]
    | apply memOk_fold
theorem State.bootStep_memOk {s : State} (h0 : MemOk p0 s) :
    MemOk p0 (State.bootStep s) := by
  unfold State.bootStep
  with_reducible repeat' first
    | assumption
    | intro _
    | split
    | simp only [memOk_mk]
    | apply memOk_fold
theorem State.settleBypass_memOk {s : State} (h0 : MemOk p0 s) :
    MemOk p0 (State.settleBypass s) := by
  unfold State.settleBypass
  with_reducible repeat' first
    | assumption
    | intro _
    | split
    | simp only [memOk_mk]
    | apply memOk_fold
theorem State.raisePoints_memOk {s : State} (h0 : MemOk p0 s) :
    MemOk p0 (State.raisePoints s) := by
  unfold State.raisePoints
  with_reducible repeat' first
    | assumption
    | intro _
    | apply State.post_memOk
    | apply memOk_foldl
    | apply memOk_foldl2
    | split
    | simp only [memOk_mk]
    | apply memOk_fold
theorem execVfFunctionLevelReset_memOk {vf : Nat} {s : State} {t_ : State} (e : (execVfFunctionLevelReset vf s) = .next t_) (h1 : MemOk p0 s) :
    MemOk p0 t_ := by
  unfold execVfFunctionLevelReset at e
  injection e with e
  subst e
  with_reducible repeat' first
    | assumption
    | intro _
    | apply State.beginTeardown_memOk
    | apply State.dropChains_memOk
    | apply State.modVf_memOk
    | split
    | simp only [memOk_mk]
    | apply memOk_fold
theorem State.logSys_memOk (c : Nat) (g : Nat) (k : Nat) {s : State} (h3 : MemOk p0 s) :
    MemOk p0 (State.logSys c g k s) := by
  unfold State.logSys
  with_reducible repeat' first
    | assumption
    | intro _
    | apply State.logMessage_memOk
    | split
    | simp only [memOk_mk]
    | apply memOk_fold
theorem execLoadCompletion_memOk {ctx : Nat} {gang : Nat} {access : Nat} {s : State} {t_ : State} (e : (execLoadCompletion ctx gang access s) = .next t_) (h3 : MemOk p0 s) :
    MemOk p0 t_ := by
  unfold execLoadCompletion at e
  injection e with e
  subst e
  with_reducible repeat' first
    | assumption
    | intro _
    | apply State.homeDone_memOk
    | apply State.logSys_memOk
    | split
    | simp only [memOk_mk]
    | apply memOk_fold
theorem State.returnWait_memOk (bar : BarName) (dest : Nat) (scope : Nat) {s : State} (h3 : MemOk p0 s) :
    MemOk p0 (State.returnWait bar dest scope s) := by
  unfold State.returnWait
  with_reducible repeat' first
    | assumption
    | intro _
    | apply State.modGg_memOk
    | apply State.beforeRegs_memOk
    | apply State.acquire_memOk
    | split
    | simp only [memOk_mk]
    | apply memOk_fold
theorem State.waitBar_memOk (bar : BarName) (va : Nat) (dest : Nat) (scope : Nat) {s : State} (h4 : MemOk p0 s) :
    MemOk p0 (State.waitBar bar va dest scope s) := by
  unfold State.waitBar
  with_reducible repeat' first
    | assumption
    | intro _
    | apply State.endWord_memOk
    | apply State.returnWait_memOk
    | apply State.startWatch_memOk
    | apply State.beginWait_memOk
    | apply State.countWord_memOk
    | split
    | simp only [memOk_mk]
    | apply memOk_fold
theorem execBarwait_memOk {x : BitVec 8} {b : BitVec 5} {s : State} {t_ : State} (e : (execBarwait x b s) = .next t_) (h2 : MemOk p0 s) :
    MemOk p0 t_ := by
  unfold execBarwait at e
  injection e with e
  subst e
  with_reducible repeat' first
    | assumption
    | intro _
    | apply State.checked_memOk
    | apply State.waitBar_memOk
    | split
    | simp only [memOk_mk]
    | apply memOk_fold
theorem State.launchEntry_memOk (v : Nat) (c : Nat) (n : Nat) (asked : Bool) (refuse : Bool) (x5 : Entry) {s : State} (h6 : MemOk p0 s) :
    MemOk p0 (State.launchEntry v c n asked refuse x5 s) := by
  unfold State.launchEntry
  with_reducible repeat' first
    | assumption
    | intro _
    | apply State.judgeLaunch_memOk
    | (refine State.judgeLaunch_memOk_eq (by assumption) ?_)
    | apply State.endEntry_memOk
    | apply State.callHook_memOk
    | apply State.addLaunch_memOk
    | (refine State.addLaunch_memOk_eq (by assumption) ?_)
    | apply State.modEntry_memOk
    | split
    | simp only [memOk_mk]
    | apply memOk_fold
theorem execChainLaunch_memOk {vf : Nat} {chain : Nat} {entry : Nat} {s : State} {t_ : State} (e : (execChainLaunch vf chain entry s) = .next t_) (h3 : MemOk p0 s) :
    MemOk p0 t_ := by
  unfold execChainLaunch at e
  injection e with e
  subst e
  with_reducible repeat' first
    | assumption
    | intro _
    | apply State.entryStarts_memOk
    | apply State.launchEntry_memOk
    | split
    | simp only [memOk_mk]
    | apply memOk_fold
theorem State.sealImage_memOk (c : Nat) (x : Ctx) {s : State} (h2 : MemOk p0 s) :
    MemOk p0 (State.sealImage c x s) := by
  unfold State.sealImage
  with_reducible repeat' first
    | assumption
    | intro _
    | apply State.free_memOk
    | (refine State.free_memOk_eq (by assumption) ?_)
    | apply State.beforeWrites_memOk
    | apply State.lowerPoint_memOk
    | apply State.modCtx_memOk
    | split
    | simp only [memOk_mk]
    | apply memOk_fold
theorem execImageSeal_memOk {ctx : Nat} {s : State} {t_ : State} (e : execImageSeal ctx s = .next t_) (h : MemOk p0 s) :
    MemOk p0 t_ := by
  unfold execImageSeal at e
  injection e with e
  subst e
  have hk : ∀ v : State, MemOk p0 v → MemOk p0 (if v.pool = [] then v else v.post .nodeDispatch) := by
    intro v hv
    split
    · exact hv
    · exact State.post_memOk _ hv
  cases s.ctxOf ctx with
  | none => exact h
  | some x =>
    simp only []
    split
    · apply hk
      with_reducible repeat' first
        | exact h
        | apply State.stopAll_memOk
        | apply State.terminate_memOk
        | apply State.faultNotice_memOk
        | apply State.reportFault_memOk
        | apply State.sealImage_memOk
        | apply State.saveToPool_memOk
        | split
    · exact h
theorem State.intAs2_memOk (f : Nat → Bool → Nat → Nat → Nat) (l : Bool) (d : BitVec 8) (a : BitVec 8) (b : BitVec 8) {s : State} (h5 : MemOk p0 s) :
    MemOk p0 (State.intAs2 f l d a b s) := by
  unfold State.intAs2
  with_reducible repeat' first
    | assumption
    | intro _
    | apply State.compute_memOk
    | split
    | simp only [memOk_mk]
    | apply memOk_fold
theorem execShr_memOk {l : Bool} {d : BitVec 8} {a : BitVec 8} {b : BitVec 8} {s : State} {t_ : State} (e : (execShr l d a b s) = .next t_) (h4 : MemOk p0 s) :
    MemOk p0 t_ := by
  unfold execShr at e
  injection e with e
  subst e
  with_reducible repeat' first
    | assumption
    | intro _
    | apply State.intAs2_memOk
    | split
    | simp only [memOk_mk]
    | apply memOk_fold
theorem execSbarInit_memOk {l : Bool} {x : BitVec 8} {y : BitVec 8} {scope : BitVec 3} {s : State} {t_ : State} (e : (execSbarInit l x y scope s) = .next t_) (h4 : MemOk p0 s) :
    MemOk p0 t_ := by
  unfold execSbarInit at e
  injection e with e
  subst e
  with_reducible repeat' first
    | assumption
    | intro _
    | apply State.sbar_memOk
    | apply State.released_memOk
    | apply State.putScope_memOk
    | apply State.endWordL_memOk
    | split
    | simp only [memOk_mk]
    | apply memOk_fold
theorem execMrel_memOk {l : Bool} {d : BitVec 8} {a : BitVec 8} {b : BitVec 5} {s : State} {t_ : State} (e : (execMrel l d a b s) = .next t_) (h4 : MemOk p0 s) :
    MemOk p0 t_ := by
  unfold execMrel at e
  injection e with e
  subst e
  with_reducible repeat' first
    | assumption
    | intro _
    | apply State.issueEngine_memOk
    | split
    | simp only [memOk_mk]
    | apply memOk_fold
theorem execXexp_memOk {l : Bool} {d : BitVec 8} {a : BitVec 8} {b : BitVec 5} {s : State} {t_ : State} (e : (execXexp l d a b s) = .next t_) (h4 : MemOk p0 s) :
    MemOk p0 t_ := by
  unfold execXexp at e
  injection e with e
  subst e
  with_reducible repeat' first
    | assumption
    | intro _
    | apply State.issueEngine_memOk
    | split
    | simp only [memOk_mk]
    | apply memOk_fold
theorem execRemoteCompletion_memOk {cmd : Nat} {s : State} {t_ : State} (e : (execRemoteCompletion cmd s) = .next t_) (h1 : MemOk p0 s) :
    MemOk p0 t_ := by
  unfold execRemoteCompletion at e
  injection e with e
  subst e
  with_reducible repeat' first
    | assumption
    | intro _
    | apply State.remoteDone_memOk
    | split
    | simp only [memOk_mk]
    | apply memOk_fold
theorem execMov_memOk {l : Bool} {d : BitVec 8} {a : BitVec 8} {s : State} {t_ : State} (e : (execMov l d a s) = .next t_) (h3 : MemOk p0 s) :
    MemOk p0 t_ := by
  unfold execMov at e
  injection e with e
  subst e
  with_reducible repeat' first
    | assumption
    | intro _
    | apply State.computeAs_memOk
    | split
    | simp only [memOk_mk]
    | apply memOk_fold
theorem State.openFrame_memOk (l : Bool) (x : Nat) (t : Nat) (token : Nat) (join : Nat) (targets : List Nat) (k : Nat) (left : List Nat) {s : State} (h8 : MemOk p0 s) :
    MemOk p0 (State.openFrame l x t token join targets k left s) := by
  unfold State.openFrame
  with_reducible repeat' first
    | assumption
    | intro _
    | apply State.onCode_memOk
    | apply State.raise_memOk
    | apply State.yieldNow_memOk
    | apply State.modGg_memOk
    | apply State.countWord_memOk
    | apply State.unstage_memOk
    | split
    | simp only [memOk_mk]
    | apply memOk_fold
theorem execSar_memOk {l : Bool} {d : BitVec 8} {a : BitVec 8} {b : BitVec 8} {s : State} {t_ : State} (e : (execSar l d a b s) = .next t_) (h4 : MemOk p0 s) :
    MemOk p0 t_ := by
  unfold execSar at e
  injection e with e
  subst e
  with_reducible repeat' first
    | assumption
    | intro _
    | apply State.intAs2_memOk
    | split
    | simp only [memOk_mk]
    | apply memOk_fold
theorem execCmp_memOk {l : Bool} {d : BitVec 8} {a : BitVec 8} {b : BitVec 8} {s : State} {t_ : State} (e : (execCmp l d a b s) = .next t_) (h4 : MemOk p0 s) :
    MemOk p0 t_ := by
  unfold execCmp at e
  injection e with e
  subst e
  with_reducible repeat' first
    | assumption
    | intro _
    | apply State.compute_memOk
    | split
    | simp only [memOk_mk]
    | apply memOk_fold
theorem execShflx_memOk {l : Bool} {d : BitVec 8} {a : BitVec 8} {b : BitVec 8} {s : State} {t_ : State} (e : (execShflx l d a b s) = .next t_) (h4 : MemOk p0 s) :
    MemOk p0 t_ := by
  unfold execShflx at e
  injection e with e
  subst e
  with_reducible repeat' first
    | assumption
    | intro _
    | apply State.shuffle_memOk
    | split
    | simp only [memOk_mk]
    | apply memOk_fold
theorem execLdih_memOk {d : BitVec 8} {imm : BitVec 16} {s : State} {t_ : State} (e : (execLdih d imm s) = .next t_) (h2 : MemOk p0 s) :
    MemOk p0 t_ := by
  unfold execLdih at e
  injection e with e
  subst e
  with_reducible repeat' first
    | assumption
    | intro _
    | apply State.computeAs_memOk
    | split
    | simp only [memOk_mk]
    | apply memOk_fold
theorem execGuardOff_memOk {s : State} {t_ : State} (e : (execGuardOff s) = .next t_) (h0 : MemOk p0 s) :
    MemOk p0 t_ := by
  unfold execGuardOff at e
  injection e with e
  subst e
  with_reducible repeat' first
    | assumption
    | intro _
    | apply State.endWord_memOk
    | apply State.modGg_memOk
    | split
    | simp only [memOk_mk]
    | apply memOk_fold
theorem execMfirst_memOk {d : BitVec 8} {s : State} {t_ : State} (e : (execMfirst d s) = .next t_) (h1 : MemOk p0 s) :
    MemOk p0 t_ := by
  unfold execMfirst at e
  injection e with e
  subst e
  with_reducible repeat' first
    | assumption
    | intro _
    | apply State.maskTo_memOk
    | split
    | simp only [memOk_mk]
    | apply memOk_fold
theorem execFfma_memOk {l : Bool} {d : BitVec 8} {a : BitVec 8} {b : BitVec 8} {s : State} {t_ : State} (e : (execFfma l d a b s) = .next t_) (h4 : MemOk p0 s) :
    MemOk p0 t_ := by
  unfold execFfma at e
  injection e with e
  subst e
  with_reducible repeat' first
    | assumption
    | intro _
    | apply State.compute_memOk
    | split
    | simp only [memOk_mk]
    | apply memOk_fold
theorem execPowerLimitSet_memOk {s : State} {t_ : State} (e : (execPowerLimitSet s) = .next t_) (h0 : MemOk p0 s) :
    MemOk p0 t_ := by
  unfold execPowerLimitSet at e
  injection e with e
  subst e
  with_reducible repeat' first
    | assumption
    | intro _
    | apply State.requestDone_memOk
    | apply State.raisePoints_memOk
    | apply State.requestRefused_memOk
    | split
    | simp only [memOk_mk]
    | apply memOk_fold
theorem execSbarFin_memOk {l : Bool} {x : BitVec 8} {scope : BitVec 3} {s : State} {t_ : State} (e : (execSbarFin l x scope s) = .next t_) (h3 : MemOk p0 s) :
    MemOk p0 t_ := by
  unfold execSbarFin at e
  injection e with e
  subst e
  with_reducible repeat' first
    | assumption
    | intro _
    | apply State.sbar_memOk
    | apply State.putScope_memOk
    | apply State.endWordL_memOk
    | split
    | simp only [memOk_mk]
    | apply memOk_fold
theorem execFirmwareStage_memOk {s : State} {t_ : State} (e : (execFirmwareStage s) = .next t_) (h0 : MemOk p0 s) :
    MemOk p0 t_ := by
  unfold execFirmwareStage at e
  injection e with e
  subst e
  with_reducible repeat' first
    | assumption
    | intro _
    | apply State.requestDone_memOk
    | apply State.requestRefused_memOk
    | split
    | simp only [memOk_mk]
    | apply memOk_fold
theorem execMpair_memOk {l : Bool} {d : BitVec 8} {a : BitVec 8} {b : BitVec 5} {s : State} {t_ : State} (e : (execMpair l d a b s) = .next t_) (h4 : MemOk p0 s) :
    MemOk p0 t_ := by
  unfold execMpair at e
  injection e with e
  subst e
  with_reducible repeat' first
    | assumption
    | intro _
    | apply State.issueEngine_memOk
    | split
    | simp only [memOk_mk]
    | apply memOk_fold
theorem execGraphDecrement_memOk {port : Nat} {f : Sys2Proof.Flit} {s : State} {t_ : State} (e : (execGraphDecrement port f s) = .next t_) (h2 : MemOk p0 s) :
    MemOk p0 t_ := by
  unfold execGraphDecrement at e
  injection e with e
  subst e
  with_reducible repeat' first
    | assumption
    | intro _
    | apply State.takeKind_memOk
    | apply State.serveDecrement_memOk
    | split
    | simp only [memOk_mk]
    | apply memOk_fold
theorem execBarrierArrival_memOk {port : Nat} {f : Sys2Proof.Flit} {s : State} {t_ : State} (e : (execBarrierArrival port f s) = .next t_) (h2 : MemOk p0 s) :
    MemOk p0 t_ := by
  unfold execBarrierArrival at e
  injection e with e
  subst e
  with_reducible repeat' first
    | assumption
    | intro _
    | apply State.takeKind_memOk
    | apply State.serveArrival_memOk
    | split
    | simp only [memOk_mk]
    | apply memOk_fold
theorem execBarrierTimeout_memOk {ctx : Nat} {watch : Nat} {s : State} {t_ : State} (e : (execBarrierTimeout ctx watch s) = .next t_) (h2 : MemOk p0 s) :
    MemOk p0 t_ := by
  unfold execBarrierTimeout at e
  injection e with e
  subst e
  with_reducible repeat' first
    | assumption
    | intro _
    | apply State.modCtx_memOk
    | apply State.stopCtx_memOk
    | apply memOk_getD
    | split
    | simp only [memOk_mk]
    | apply memOk_fold
theorem State.place_memOk (w : Sys2Proof.Word) {s : State} (h1 : MemOk p0 s) :
    MemOk p0 (State.place w s) := by
  unfold State.place
  with_reducible repeat' first
    | assumption
    | intro _
    | split
    | simp only [memOk_mk]
    | apply memOk_fold
theorem State.store_memOk (flags : Bool) (acq : Bool) (scope : Nat) (n : Nat) (d : Nat) (raw : Nat → Nat) (ts : List (Nat × Target)) {s : State} (h7 : MemOk p0 s) :
    MemOk p0 (State.store flags acq scope n d raw ts s).1 := by
  unfold State.store
  with_reducible repeat' first
    | assumption
    | intro _
    | apply State.acquire_memOk
    | apply State.askAll_memOk
    | (refine State.askAll_memOk_eq (by assumption) ?_)
    | apply State.writeHere_memOk
    | apply State.openAccess_memOk
    | apply State.post_memOk
    | split
    | simp only [memOk_mk]
    | apply memOk_fold
theorem State.store_memOk_eq {flags : Bool} {acq : Bool} {scope : Nat} {n : Nat} {d : Nat} {raw : Nat → Nat} {ts : List (Nat × Target)} {s : State} {o_ t_} (e : (State.store flags acq scope n d raw ts s) = (t_, o_)) (h7 : MemOk p0 s) :
    MemOk p0 t_ := by
  have := State.store_memOk flags acq scope n d raw ts h7
  rwa [e] at this
theorem execMad_memOk {l : Bool} {d : BitVec 8} {a : BitVec 8} {b : BitVec 8} {s : State} {t_ : State} (e : (execMad l d a b s) = .next t_) (h4 : MemOk p0 s) :
    MemOk p0 t_ := by
  unfold execMad at e
  injection e with e
  subst e
  with_reducible repeat' first
    | assumption
    | intro _
    | apply State.compute_memOk
    | split
    | simp only [memOk_mk]
    | apply memOk_fold
theorem execMandn_memOk {l : Bool} {a : BitVec 8} {s : State} {t_ : State} (e : (execMandn l a s) = .next t_) (h2 : MemOk p0 s) :
    MemOk p0 t_ := by
  unfold execMandn at e
  injection e with e
  subst e
  with_reducible repeat' first
    | assumption
    | intro _
    | apply State.maskFrom_memOk
    | split
    | simp only [memOk_mk]
    | apply memOk_fold
theorem execFaultWindowSet_memOk {s : State} {t_ : State} (e : (execFaultWindowSet s) = .next t_) (h0 : MemOk p0 s) :
    MemOk p0 t_ := by
  unfold execFaultWindowSet at e
  injection e with e
  subst e
  with_reducible repeat' first
    | assumption
    | intro _
    | apply State.requestDone_memOk
    | apply State.requestRefused_memOk
    | split
    | simp only [memOk_mk]
    | apply memOk_fold
theorem State.entryActs_memOk (v : Nat) (c : Nat) (n : Nat) (kind : Nat) (act : Entry → State → State) {s : State} (h4 : ∀ y0 t, MemOk p0 t → MemOk p0 (act y0 t)) (h5 : MemOk p0 s) :
    MemOk p0 (State.entryActs v c n kind act s) := by
  unfold State.entryActs
  with_reducible repeat' first
    | assumption
    | intro _
    | apply State.modEntry_memOk
    | split
    | simp only [memOk_mk]
    | apply memOk_fold
    | apply h4
theorem execGload_memOk {vf : Nat} {chain : Nat} {entry : Nat} {s : State} {t_ : State} (e : (execGload vf chain entry s) = .next t_) (h3 : MemOk p0 s) :
    MemOk p0 t_ := by
  unfold execGload at e
  injection e with e
  subst e
  with_reducible repeat' first
    | assumption
    | intro _
    | apply State.entryActs_memOk
    | apply State.loadGraph_memOk
    | (refine State.loadGraph_memOk_eq (by assumption) ?_)
    | apply State.endEntry_memOk
    | split
    | simp only [memOk_mk]
    | apply memOk_fold
theorem execMload_memOk {l : Bool} {a : BitVec 8} {s : State} {t_ : State} (e : (execMload l a s) = .next t_) (h2 : MemOk p0 s) :
    MemOk p0 t_ := by
  unfold execMload at e
  injection e with e
  subst e
  with_reducible repeat' first
    | assumption
    | intro _
    | apply State.maskFrom_memOk
    | split
    | simp only [memOk_mk]
    | apply memOk_fold
theorem execAtomic_memOk {port : Nat} {f : Sys2Proof.Flit} {s : State} {t_ : State} (e : (execAtomic port f s) = .next t_) (h2 : MemOk p0 s) :
    MemOk p0 t_ := by
  unfold execAtomic at e
  injection e with e
  subst e
  with_reducible repeat' first
    | assumption
    | intro _
    | apply State.takeKind_memOk
    | apply State.serveAtomic_memOk
    | split
    | simp only [memOk_mk]
    | apply memOk_fold
theorem execChainRun_memOk {vf : Nat} {chain : Nat} {entry : Nat} {s : State} {t_ : State} (e : (execChainRun vf chain entry s) = .next t_) (h3 : MemOk p0 s) :
    MemOk p0 t_ := by
  unfold execChainRun at e
  injection e with e
  subst e
  with_reducible repeat' first
    | assumption
    | intro _
    | apply State.entryActs_memOk
    | apply State.addCmd_memOk
    | (refine State.addCmd_memOk_eq (by assumption) ?_)
    | apply State.startRun_memOk
    | split
    | simp only [memOk_mk]
    | apply memOk_fold
theorem State.sendFlit_memOk (p : Nat) (f : Sys2Proof.Flit) (x : Port) {s : State} (h3 : MemOk p0 s) :
    MemOk p0 (State.sendFlit p f x s) := by
  unfold State.sendFlit
  with_reducible repeat' first
    | assumption
    | intro _
    | apply State.modPort_memOk
    | apply State.post_memOk
    | apply memOk_getD
    | split
    | simp only [memOk_mk]
    | apply memOk_fold
theorem execFlitSend_memOk {port : Nat} {s : State} {t_ : State} (e : (execFlitSend port s) = .next t_) (h1 : MemOk p0 s) :
    MemOk p0 t_ := by
  unfold execFlitSend at e
  injection e with e
  subst e
  with_reducible repeat' first
    | assumption
    | intro _
    | apply State.post_memOk
    | apply State.modPort_memOk
    | apply State.sendFlit_memOk
    | split
    | simp only [memOk_mk]
    | apply memOk_fold
theorem execFence_memOk {sem : BitVec 3} {scope : BitVec 3} {s : State} {t_ : State} (e : (execFence sem scope s) = .next t_) (h2 : MemOk p0 s) :
    MemOk p0 t_ := by
  unfold execFence at e
  injection e with e
  subst e
  with_reducible repeat' first
    | assumption
    | intro _
    | apply State.endWord_memOk
    | apply State.acquire_memOk
    | apply State.released_memOk
    | split
    | simp only [memOk_mk]
    | apply memOk_fold
theorem State.guard_memOk (l : Bool) (a : BitVec 8) (sense : Bool) {s : State} (h3 : MemOk p0 s) :
    MemOk p0 (State.guard l a sense s) := by
  unfold State.guard
  with_reducible repeat' first
    | assumption
    | intro _
    | apply State.checked_memOk
    | apply State.endWordL_memOk
    | apply State.modGg_memOk
    | split
    | simp only [memOk_mk]
    | apply memOk_fold
theorem execVfTeardown_memOk {vf : Nat} {s : State} {t_ : State} (e : (execVfTeardown vf s) = .next t_) (h1 : MemOk p0 s) :
    MemOk p0 t_ := by
  unfold execVfTeardown at e
  injection e with e
  subst e
  with_reducible repeat' first
    | assumption
    | intro _
    | apply State.beginTeardown_memOk
    | split
    | simp only [memOk_mk]
    | apply memOk_fold
theorem State.recordStep_memOk {s : State} (h0 : MemOk p0 s) :
    MemOk p0 (State.recordStep s) := by
  unfold State.recordStep
  with_reducible repeat' first
    | assumption
    | intro _
    | apply State.setDomain_memOk
    | apply State.modVf_memOk
    | apply memOk_foldl
    | apply memOk_foldl2
    | apply memOk_id
    | split
    | simp only [memOk_mk]
    | apply memOk_fold
theorem State.readyStep_memOk {s : State} (h0 : MemOk p0 s) :
    MemOk p0 (State.readyStep s) := by
  unfold State.readyStep
  with_reducible repeat' first
    | assumption
    | intro _
    | apply State.setPage_memOk
    | apply State.setMgmt_memOk
    | apply memOk_foldl
    | apply memOk_foldl2
    | split
    | simp only [memOk_mk]
    | apply memOk_fold
theorem State.failUnit_memOk {s : State} (d : Defect) (h0 : MemOk p0 s) :
    MemOk p0 (State.failUnit s d) := by
  unfold State.failUnit
  with_reducible repeat' first
    | assumption
    | intro _
    | apply State.modCore_memOk
    | split
    | simp only [memOk_mk]
    | apply memOk_fold
theorem State.testStep_memOk {s : State} (h0 : MemOk p0 s) :
    MemOk p0 (State.testStep s) := by
  unfold State.testStep
  with_reducible repeat' first
    | assumption
    | intro _
    | apply State.failUnit_memOk
    | apply memOk_foldl
    | apply memOk_foldl2
    | split
    | simp only [memOk_mk]
    | apply memOk_fold
theorem State.trainStep_memOk {s : State} (h0 : MemOk p0 s) :
    MemOk p0 (State.trainStep s) := by
  unfold State.trainStep
  with_reducible repeat' first
    | assumption
    | intro _
    | apply State.modPort_memOk
    | apply memOk_foldl
    | apply memOk_foldl2
    | split
    | simp only [memOk_mk]
    | apply memOk_fold
theorem State.bringUp_memOk (gap : Bool) {s : State} (h1 : MemOk p0 s) :
    MemOk p0 (State.bringUp gap s) := by
  unfold State.bringUp
  with_reducible repeat' first
    | assumption
    | intro _
    | apply State.bootStep_memOk
    | apply State.keyStep_memOk
    | apply State.testStep_memOk
    | apply State.recordStep_memOk
    | apply State.readyStep_memOk
    | apply State.trainStep_memOk
    | split
    | simp only [memOk_mk]
    | apply memOk_fold
theorem execSysr_memOk {x : BitVec 8} {r : BitVec 8} {s : State} {t_ : State} (e : (execSysr x r s) = .next t_) (h2 : MemOk p0 s) :
    MemOk p0 t_ := by
  unfold execSysr at e
  injection e with e
  subst e
  with_reducible repeat' first
    | assumption
    | intro _
    | apply State.checked_memOk
    | apply State.beforeRegs_memOk
    | apply State.modGg_memOk
    | apply State.endWord_memOk
    | split
    | simp only [memOk_mk]
    | apply memOk_fold
theorem execAtomicResponse_memOk {port : Nat} {f : Sys2Proof.Flit} {s : State} {t_ : State} (e : (execAtomicResponse port f s) = .next t_) (h2 : MemOk p0 s) :
    MemOk p0 t_ := by
  unfold execAtomicResponse at e
  injection e with e
  subst e
  with_reducible repeat' first
    | assumption
    | intro _
    | apply State.takeKind_memOk
    | apply State.serveOld_memOk
    | split
    | simp only [memOk_mk]
    | apply memOk_fold
theorem State.decideFault_memOk (c : Nat) (answer : Nat) {s : State} (h2 : MemOk p0 s) :
    MemOk p0 (State.decideFault c answer s) := by
  unfold State.decideFault
  with_reducible repeat' first
    | assumption
    | intro _
    | apply State.saveToPool_memOk
    | apply State.modCtx_memOk
    | apply State.terminate_memOk
    | split
    | simp only [memOk_mk]
    | apply memOk_fold
theorem State.actHook_memOk (h : Sys2Proof.Hook) (answer : Nat) {s : State} (h2 : MemOk p0 s) :
    MemOk p0 (State.actHook h answer s) := by
  unfold State.actHook
  with_reducible repeat' first
    | assumption
    | intro _
    | apply State.decideFault_memOk
    | apply State.judgeLaunch_memOk
    | (refine State.judgeLaunch_memOk_eq (by assumption) ?_)
    | apply State.answerLaunch_memOk
    | apply State.admitLaunch_memOk
    | apply State.launchEntry_memOk
    | apply State.endCmd_memOk
    | apply State.startRun_memOk
    | split
    | simp only [memOk_mk]
    | apply memOk_fold
theorem State.defaultHook_memOk (h : Sys2Proof.Hook) {s : State} (h1 : MemOk p0 s) :
    MemOk p0 (State.defaultHook h s) := by
  unfold State.defaultHook
  with_reducible repeat' first
    | assumption
    | intro _
    | apply State.actHook_memOk
    | apply State.modPart_memOk
    | split
    | simp only [memOk_mk]
    | apply memOk_fold
theorem State.teardownMarkers_memOk (vf : Nat) {s : State} (h1 : MemOk p0 s) :
    MemOk p0 (State.teardownMarkers vf s) := by
  unfold State.teardownMarkers
  with_reducible repeat' first
    | assumption
    | intro _
    | apply State.queueFlit_memOk
    | apply memOk_foldl
    | apply memOk_foldl2
    | split
    | simp only [memOk_mk]
    | apply memOk_fold
theorem State.countDispatch_memOk (at_ : Nat) {s : State} (h1 : MemOk p0 s) :
    MemOk p0 (State.countDispatch at_ s) := by
  unfold State.countDispatch
  with_reducible repeat' first
    | assumption
    | intro _
    | apply State.settleBypass_memOk
    | split
    | simp only [memOk_mk]
    | apply memOk_fold
theorem State.dispatchCmd_memOk (i : Nat) (n : PoolNode) {s : State} (h2 : MemOk p0 s) :
    MemOk p0 (State.dispatchCmd i n s) := by
  unfold State.dispatchCmd
  with_reducible repeat' first
    | assumption
    | intro _
    | apply State.countDispatch_memOk
    | apply State.dropNode_memOk
    | apply State.post_memOk
    | split
    | simp only [memOk_mk]
    | apply memOk_fold
theorem State.startGroupOf_memOk (l : Launch) (i : Nat) (p : Site) {s : State} (h3 : MemOk p0 s) :
    MemOk p0 (State.startGroupOf l i p s) := by
  unfold State.startGroupOf
  with_reducible repeat' first
    | assumption
    | intro _
    | apply State.placeCtx_memOk
    | split
    | simp only [memOk_mk]
    | apply memOk_fold
theorem State.startNode_memOk (i : Nat) (n : PoolNode) (ps : List Site) {s : State} (h3 : MemOk p0 s) :
    MemOk p0 (State.startNode i n ps s) := by
  unfold State.startNode
  with_reducible repeat' first
    | assumption
    | intro _
    | apply State.dropNode_memOk
    | apply State.startGroupOf_memOk
    | apply State.resumeCtx_memOk
    | apply memOk_foldl
    | apply memOk_foldl2
    | split
    | simp only [memOk_mk]
    | apply memOk_fold
theorem State.dispatchAt_memOk (i : Nat) (n : PoolNode) (ps : List Site) {s : State} (h3 : MemOk p0 s) :
    MemOk p0 (State.dispatchAt i n ps s) := by
  unfold State.dispatchAt
  with_reducible repeat' first
    | assumption
    | intro _
    | apply State.startNode_memOk
    | apply State.countDispatch_memOk
    | apply memOk_foldl
    | apply memOk_foldl2
    | split
    | simp only [memOk_mk]
    | apply memOk_fold
theorem State.lookedBefore_memOk (i : Nat) {s : State} (h1 : MemOk p0 s) :
    MemOk p0 (State.lookedBefore i s) := by
  unfold State.lookedBefore
  with_reducible repeat' first
    | assumption
    | intro _
    | split
    | simp only [memOk_mk]
    | apply memOk_fold
theorem execNodeDispatch_memOk {s : State} {t_ : State} (e : execNodeDispatch s = .next t_) (h0 : MemOk p0 s) : MemOk p0 t_ := by
  unfold execNodeDispatch at e
  injection e with e
  subst e
  have h := State.giveSlots_memOk h0
  generalize s.giveSlots = u at h
  cases u.firstReady u.pool 0 with
  | some r =>
    obtain ⟨i, n, ps⟩ := r
    simp only []
    have hk : ∀ v : State, MemOk p0 v → MemOk p0 (if v.pool = [] then v else v.post .nodeDispatch) := by
      intro v hv
      split
      · exact hv
      · exact State.post_memOk _ hv
    apply hk
    split
    · exact State.dispatchCmd_memOk _ _ h
    · exact State.dispatchCmd_memOk _ _ h
    · exact State.dispatchAt_memOk _ _ _ h
  | none =>
    simp only []
    split
    · exact State.askPreempt_memOk _ _ (State.lookedBefore_memOk _ h)
    · exact State.lookedBefore_memOk _ h
theorem execGunload_memOk {vf : Nat} {chain : Nat} {entry : Nat} {s : State} {t_ : State} (e : (execGunload vf chain entry s) = .next t_) (h3 : MemOk p0 s) :
    MemOk p0 t_ := by
  unfold execGunload at e
  injection e with e
  subst e
  with_reducible repeat' first
    | assumption
    | intro _
    | apply State.entryActs_memOk
    | apply State.endEntry_memOk
    | split
    | simp only [memOk_mk]
    | apply memOk_fold
theorem State.contributeAgain_memOk (h : Nat) {s : State} (h1 : MemOk p0 s) :
    MemOk p0 (State.contributeAgain h s) := by
  unfold State.contributeAgain
  with_reducible repeat' first
    | assumption
    | intro _
    | apply State.contribute_memOk
    | apply State.modRun_memOk
    | apply memOk_foldl
    | apply memOk_foldl2
    | split
    | simp only [memOk_mk]
    | apply memOk_fold
theorem execLds_memOk {l : Bool} {d : BitVec 8} {a : BitVec 8} {sem : BitVec 3} {size : BitVec 2} {s : State} {t_ : State} (e : (execLds l d a sem size s) = .next t_) (h5 : MemOk p0 s) :
    MemOk p0 t_ := by
  unfold execLds at e
  injection e with e
  subst e
  with_reducible repeat' first
    | assumption
    | intro _
    | apply State.memWord_memOk
    | apply endIssued_memOk
    | apply State.load_memOk
    | (refine State.load_memOk_eq (by assumption) ?_)
    | apply State.released_memOk
    | split
    | simp only [memOk_mk]
    | apply memOk_fold
theorem execCctlInv_memOk {l : Bool} {a : BitVec 8} {s : State} {t_ : State} (e : (execCctlInv l a s) = .next t_) (h2 : MemOk p0 s) :
    MemOk p0 t_ := by
  unfold execCctlInv at e
  injection e with e
  subst e
  with_reducible repeat' first
    | assumption
    | intro _
    | apply State.cctl_memOk
    | apply State.dropDieLines_memOk
    | split
    | simp only [memOk_mk]
    | apply memOk_fold
theorem State.askLaunch_memOk (l : Bool) (d : Nat) (a : Nat) (scope : Nat) {s : State} (h4 : MemOk p0 s) :
    MemOk p0 (State.askLaunch l d a scope s) := by
  unfold State.askLaunch
  with_reducible repeat' first
    | assumption
    | intro _
    | apply State.endWordL_memOk
    | apply State.post_memOk
    | apply State.modGg_memOk
    | split
    | simp only [memOk_mk]
    | apply memOk_fold
theorem execColourGrant_memOk {dom : Nat} {die : Nat} {col : Bool} {s : State} {t_ : State} (e : (execColourGrant dom die col s) = .next t_) (h3 : MemOk p0 s) :
    MemOk p0 t_ := by
  unfold execColourGrant at e
  injection e with e
  subst e
  with_reducible repeat' first
    | assumption
    | intro _
    | apply State.takeGrant_memOk
    | apply State.grantCmd_memOk
    | split
    | simp only [memOk_mk]
    | apply memOk_fold
theorem State.freeSlotsOf_memOk (pod : Nat) (vf : Nat) {s : State} (h2 : MemOk p0 s) :
    MemOk p0 (State.freeSlotsOf pod vf s) := by
  unfold State.freeSlotsOf
  with_reducible repeat' first
    | assumption
    | intro _
    | split
    | simp only [memOk_mk]
    | apply memOk_fold
theorem execTeardownMarker_memOk {port : Nat} {f : Sys2Proof.Flit} {s : State} {t_ : State} (e : (execTeardownMarker port f s) = .next t_) (h2 : MemOk p0 s) :
    MemOk p0 t_ := by
  unfold execTeardownMarker at e
  injection e with e
  subst e
  with_reducible repeat' first
    | assumption
    | intro _
    | apply State.takeFlit_memOk
    | apply State.freeSlotsOf_memOk
    | apply State.queueFlit_memOk
    | apply memOk_getD
    | split
    | simp only [memOk_mk]
    | apply memOk_fold
theorem execSbarWait_memOk {l : Bool} {x : BitVec 8} {y : BitVec 8} {scope : BitVec 3} {s : State} {t_ : State} (e : (execSbarWait l x y scope s) = .next t_) (h4 : MemOk p0 s) :
    MemOk p0 t_ := by
  unfold execSbarWait at e
  injection e with e
  subst e
  with_reducible repeat' first
    | assumption
    | intro _
    | apply State.sbar_memOk
    | apply State.waitBar_memOk
    | apply State.unstage_memOk
    | split
    | simp only [memOk_mk]
    | apply memOk_fold
theorem State.writeChain_memOk (v : Nat) (c : Nat) (field : Nat) (value : Nat) {s : State} (h4 : MemOk p0 s) :
    MemOk p0 (State.writeChain v c field value s) := by
  unfold State.writeChain
  with_reducible repeat' first
    | assumption
    | intro _
    | apply State.setPage_memOk
    | apply State.post_memOk
    | apply State.modChain_memOk
    | split
    | simp only [memOk_mk]
    | apply memOk_fold
theorem State.writePage_memOk (v : Nat) (off : Nat) (value : Nat) {s : State} (h3 : MemOk p0 s) :
    MemOk p0 (State.writePage v off value s) := by
  unfold State.writePage
  with_reducible repeat' first
    | assumption
    | intro _
    | apply State.post_memOk
    | apply State.writeChain_memOk
    | apply State.setPage_memOk
    | apply State.modVf_memOk
    | split
    | simp only [memOk_mk]
    | apply memOk_fold
theorem execFmul_memOk {l : Bool} {d : BitVec 8} {a : BitVec 8} {b : BitVec 8} {s : State} {t_ : State} (e : (execFmul l d a b s) = .next t_) (h4 : MemOk p0 s) :
    MemOk p0 t_ := by
  unfold execFmul at e
  injection e with e
  subst e
  with_reducible repeat' first
    | assumption
    | intro _
    | apply State.float2_memOk
    | split
    | simp only [memOk_mk]
    | apply memOk_fold
theorem execSnap_memOk {l : Bool} {d : BitVec 8} {a : BitVec 8} {b : BitVec 5} {s : State} {t_ : State} (e : (execSnap l d a b s) = .next t_) (h4 : MemOk p0 s) :
    MemOk p0 t_ := by
  unfold execSnap at e
  injection e with e
  subst e
  with_reducible repeat' first
    | assumption
    | intro _
    | apply State.issueEngine_memOk
    | split
    | simp only [memOk_mk]
    | apply memOk_fold
theorem execUnexpectedReset_memOk {s : State} {t_ : State} (e : (execUnexpectedReset s) = .next t_) (h0 : MemOk p0 s) :
    MemOk p0 t_ := by
  unfold execUnexpectedReset at e
  injection e with e
  subst e
  with_reducible repeat' first
    | assumption
    | intro _
    | apply State.bringUp_memOk
    | apply State.survivors_memOk
    | split
    | simp only [memOk_mk]
    | apply memOk_fold
theorem execFmax_memOk {l : Bool} {d : BitVec 8} {a : BitVec 8} {b : BitVec 8} {s : State} {t_ : State} (e : (execFmax l d a b s) = .next t_) (h4 : MemOk p0 s) :
    MemOk p0 t_ := by
  unfold execFmax at e
  injection e with e
  subst e
  with_reducible repeat' first
    | assumption
    | intro _
    | apply State.float2_memOk
    | split
    | simp only [memOk_mk]
    | apply memOk_fold
theorem execSlotRelease_memOk {plane : Nat} {f : Sys2Proof.Flit} {s : State} {t_ : State} (e : (execSlotRelease plane f s) = .next t_) (h2 : MemOk p0 s) :
    MemOk p0 t_ := by
  unfold execSlotRelease at e
  injection e with e
  subst e
  with_reducible repeat' first
    | assumption
    | intro _
    | split
    | simp only [memOk_mk]
    | apply memOk_fold
theorem execFcos_memOk {l : Bool} {d : BitVec 8} {a : BitVec 8} {s : State} {t_ : State} (e : (execFcos l d a s) = .next t_) (h3 : MemOk p0 s) :
    MemOk p0 t_ := by
  unfold execFcos at e
  injection e with e
  subst e
  with_reducible repeat' first
    | assumption
    | intro _
    | apply State.float1_memOk
    | split
    | simp only [memOk_mk]
    | apply memOk_fold
theorem execReadResponse_memOk {port : Nat} {f : Sys2Proof.Flit} {s : State} {t_ : State} (e : (execReadResponse port f s) = .next t_) (h2 : MemOk p0 s) :
    MemOk p0 t_ := by
  unfold execReadResponse at e
  injection e with e
  subst e
  with_reducible repeat' first
    | assumption
    | intro _
    | apply State.takeKind_memOk
    | apply State.serveData_memOk
    | split
    | simp only [memOk_mk]
    | apply memOk_fold
theorem State.exitArrivals_memOk (c : Nat) (g : Nat) {s : State} (h2 : MemOk p0 s) :
    MemOk p0 (State.exitArrivals c g s) := by
  unfold State.exitArrivals
  with_reducible repeat' first
    | assumption
    | intro _
    | apply State.countArrival_memOk
    | apply memOk_foldl
    | apply memOk_foldl2
    | apply memOk_getD
    | split
    | simp only [memOk_mk]
    | apply memOk_fold
theorem State.exitSlices_memOk {s : State} (h0 : MemOk p0 s) :
    MemOk p0 (State.exitSlices s) := by
  unfold State.exitSlices
  with_reducible repeat' first
    | assumption
    | intro _
    | apply State.modGg_memOk
    | apply State.countWord_memOk
    | apply State.yieldNow_memOk
    | apply State.exitArrivals_memOk
    | apply State.post_memOk
    | split
    | simp only [memOk_mk]
    | apply memOk_fold
theorem execExit_memOk {s : State} {t_ : State} (e : (execExit s) = .next t_) (h0 : MemOk p0 s) :
    MemOk p0 t_ := by
  unfold execExit at e
  injection e with e
  subst e
  with_reducible repeat' first
    | assumption
    | intro _
    | (refine State.takeLost_memOk (by assumption) ?_)
    | apply State.raise_memOk
    | (refine State.takeConv_memOk (by assumption) ?_)
    | apply State.exitSlices_memOk
    | split
    | simp only [memOk_mk]
    | apply memOk_fold
theorem execMirrorWrite_memOk {s : State} {t_ : State} (e : (execMirrorWrite s) = .next t_) (h0 : MemOk p0 s) :
    MemOk p0 t_ := by
  unfold execMirrorWrite at e
  injection e with e
  subst e
  with_reducible repeat' first
    | assumption
    | intro _
    | apply State.writeMirror_memOk
    | split
    | simp only [memOk_mk]
    | apply memOk_fold
theorem execVoteAny_memOk {l : Bool} {d : BitVec 8} {a : BitVec 8} {s : State} {t_ : State} (e : (execVoteAny l d a s) = .next t_) (h3 : MemOk p0 s) :
    MemOk p0 t_ := by
  unfold execVoteAny at e
  injection e with e
  subst e
  with_reducible repeat' first
    | assumption
    | intro _
    | apply State.vote_memOk
    | split
    | simp only [memOk_mk]
    | apply memOk_fold
theorem State.fetchLine_memOk (core : Nat) (p : Place) (cache : Nat) {s : State} (h3 : MemOk p0 s) :
    MemOk p0 (State.fetchLine core p cache s) := by
  unfold State.fetchLine
  with_reducible repeat' first
    | assumption
    | intro _
    | apply State.readSector_memOk
    | (refine State.readSector_memOk_eq (by assumption) ?_)
    | apply memOk_foldl
    | apply memOk_foldl2
    | split
    | simp only [memOk_mk]
    | apply memOk_fold
theorem execReduxOr_memOk {l : Bool} {d : BitVec 8} {a : BitVec 8} {s : State} {t_ : State} (e : (execReduxOr l d a s) = .next t_) (h3 : MemOk p0 s) :
    MemOk p0 t_ := by
  unfold execReduxOr at e
  injection e with e
  subst e
  with_reducible repeat' first
    | assumption
    | intro _
    | apply State.redux_memOk
    | apply memOk_foldl
    | apply memOk_foldl2
    | split
    | simp only [memOk_mk]
    | apply memOk_fold
theorem execShfl_memOk {l : Bool} {d : BitVec 8} {a : BitVec 8} {b : BitVec 8} {s : State} {t_ : State} (e : (execShfl l d a b s) = .next t_) (h4 : MemOk p0 s) :
    MemOk p0 t_ := by
  unfold execShfl at e
  injection e with e
  subst e
  with_reducible repeat' first
    | assumption
    | intro _
    | apply State.shuffle_memOk
    | split
    | simp only [memOk_mk]
    | apply memOk_fold
theorem execStagingBufferRoom_memOk {die : Nat} {s : State} {t_ : State} (e : (execStagingBufferRoom die s) = .next t_) (h1 : MemOk p0 s) :
    MemOk p0 t_ := by
  unfold execStagingBufferRoom at e
  injection e with e
  subst e
  with_reducible repeat' first
    | assumption
    | intro _
    | apply State.drainStaged_memOk
    | split
    | simp only [memOk_mk]
    | apply memOk_fold
theorem execPowerLimitReached_memOk {s : State} {t_ : State} (e : (execPowerLimitReached s) = .next t_) (h0 : MemOk p0 s) :
    MemOk p0 t_ := by
  unfold execPowerLimitReached at e
  injection e with e
  subst e
  with_reducible repeat' first
    | assumption
    | intro _
    | apply State.free_memOk
    | (refine State.free_memOk_eq (by assumption) ?_)
    | apply State.lowerPoint_memOk
    | apply memOk_foldl
    | apply memOk_foldl2
    | split
    | simp only [memOk_mk]
    | apply memOk_fold
theorem execAtomnr_memOk {l : Bool} {d : BitVec 8} {a : BitVec 8} {sem : BitVec 3} {scope : BitVec 3} {z : BitVec 1} {s : State} {t_ : State} (e : (execAtomnr l d a sem scope z s) = .next t_) (h6 : MemOk p0 s) :
    MemOk p0 t_ := by
  unfold execAtomnr at e
  injection e with e
  subst e
  with_reducible repeat' first
    | assumption
    | intro _
    | apply State.atomOp_memOk
    | split
    | simp only [memOk_mk]
    | apply memOk_fold
theorem State.failFrame_memOk (part : Nat) (engine : Nat) {s : State} (h2 : MemOk p0 s) :
    MemOk p0 (State.failFrame part engine s) := by
  unfold State.failFrame
  with_reducible repeat' first
    | assumption
    | intro _
    | apply State.sourceEvents_memOk
    | (refine State.sourceEvents_memOk_eq (by assumption) ?_)
    | apply State.countFallback_memOk
    | apply State.retireNotices_memOk
    | split
    | simp only [memOk_mk]
    | apply memOk_fold
theorem State.runFrame_memOk (k : Nat) (c : Cmd) (i : Nat) {s : State} (h3 : MemOk p0 s) :
    MemOk p0 (State.runFrame k c i s) := by
  unfold State.runFrame
  with_reducible repeat' first
    | assumption
    | intro _
    | apply State.countFallback_memOk
    | apply State.failFrame_memOk
    | split
    | simp only [memOk_mk]
    | apply memOk_fold
theorem State.doFrame_memOk (k : Nat) (c : Cmd) {s : State} (i : Nat) (h2 : MemOk p0 s) :
    MemOk p0 (State.doFrame k c s i) := by
  unfold State.doFrame
  with_reducible repeat' first
    | assumption
    | intro _
    | apply State.modCmd_memOk
    | apply State.forceMet_memOk
    | apply State.writeDram_memOk
    | apply State.runFrame_memOk
    | split
    | simp only [memOk_mk]
    | apply memOk_fold
theorem State.lateRow_memOk (k : Nat) (c : Cmd) {s : State} (h2 : MemOk p0 s) :
    MemOk p0 (State.lateRow k c s) := by
  unfold State.lateRow
  with_reducible repeat' first
    | assumption
    | intro _
    | apply State.free_memOk
    | (refine State.free_memOk_eq (by assumption) ?_)
    | apply State.doFrame_memOk
    | apply memOk_foldl
    | apply memOk_foldl2
    | split
    | simp only [memOk_mk]
    | apply memOk_fold
theorem State.lateWork_memOk (k : Nat) (c : Cmd) {s : State} (h2 : MemOk p0 s) :
    MemOk p0 (State.lateWork k c s) := by
  unfold State.lateWork
  with_reducible repeat' first
    | assumption
    | intro _
    | apply State.lateMatrix_memOk
    | apply State.lateRow_memOk
    | apply memOk_getD
    | split
    | simp only [memOk_mk]
    | apply memOk_fold
theorem State.gathered_memOk (k : Nat) (c : Cmd) {s : State} (h2 : MemOk p0 s) :
    MemOk p0 (State.gathered k c s) := by
  unfold State.gathered
  with_reducible repeat' first
    | assumption
    | intro _
    | apply State.failNode_memOk
    | apply State.giveStep_memOk
    | split
    | simp only [memOk_mk]
    | apply memOk_fold
theorem execCommandCompletion_memOk {cmd : Nat} {s : State} {t_ : State} (e : (execCommandCompletion cmd s) = .next t_) (h1 : MemOk p0 s) :
    MemOk p0 t_ := by
  unfold execCommandCompletion at e
  injection e with e
  subst e
  with_reducible repeat' first
    | assumption
    | intro _
    | apply State.gathered_memOk
    | apply State.advanceCopy_memOk
    | apply State.lateWork_memOk
    | apply State.completeCmd_memOk
    | apply State.noteConv_memOk
    | apply memOk_getD
    | split
    | simp only [memOk_mk]
    | apply memOk_fold
theorem execMonitor_memOk {l : Bool} {a : BitVec 8} {s : State} {t_ : State} (e : (execMonitor l a s) = .next t_) (h2 : MemOk p0 s) :
    MemOk p0 t_ := by
  unfold execMonitor at e
  injection e with e
  subst e
  with_reducible repeat' first
    | assumption
    | intro _
    | apply State.memWord_memOk
    | apply State.endWordL_memOk
    | apply State.modGg_memOk
    | split
    | simp only [memOk_mk]
    | apply memOk_fold
theorem execPolicyHookTimeout_memOk {h : Sys2Proof.Hook} {s : State} {t_ : State} (e : (execPolicyHookTimeout h s) = .next t_) (h1 : MemOk p0 s) :
    MemOk p0 t_ := by
  unfold execPolicyHookTimeout at e
  injection e with e
  subst e
  with_reducible repeat' first
    | assumption
    | intro _
    | apply State.defaultHook_memOk
    | split
    | simp only [memOk_mk]
    | apply memOk_fold
theorem execRowor_memOk {l : Bool} {d : BitVec 8} {a : BitVec 8} {b : BitVec 5} {s : State} {t_ : State} (e : (execRowor l d a b s) = .next t_) (h4 : MemOk p0 s) :
    MemOk p0 t_ := by
  unfold execRowor at e
  injection e with e
  subst e
  with_reducible repeat' first
    | assumption
    | intro _
    | apply State.issueEngine_memOk
    | split
    | simp only [memOk_mk]
    | apply memOk_fold
theorem execRowcpy_memOk {l : Bool} {d : BitVec 8} {a : BitVec 8} {b : BitVec 5} {s : State} {t_ : State} (e : (execRowcpy l d a b s) = .next t_) (h4 : MemOk p0 s) :
    MemOk p0 t_ := by
  unfold execRowcpy at e
  injection e with e
  subst e
  with_reducible repeat' first
    | assumption
    | intro _
    | apply State.issueEngine_memOk
    | split
    | simp only [memOk_mk]
    | apply memOk_fold
theorem State.dropPart_memOk (p : Nat) {s : State} (h1 : MemOk p0 s) :
    MemOk p0 (State.dropPart p s) := by
  unfold State.dropPart
  with_reducible repeat' first
    | assumption
    | intro _
    | apply memOk_id
    | split
    | simp only [memOk_mk]
    | apply memOk_fold
theorem execMulhi_memOk {l : Bool} {d : BitVec 8} {a : BitVec 8} {b : BitVec 8} {s : State} {t_ : State} (e : (execMulhi l d a b s) = .next t_) (h4 : MemOk p0 s) :
    MemOk p0 t_ := by
  unfold execMulhi at e
  injection e with e
  subst e
  with_reducible repeat' first
    | assumption
    | intro _
    | apply State.int2_memOk
    | split
    | simp only [memOk_mk]
    | apply memOk_fold
theorem execBzm_memOk {o : BitVec 16} {s : State} {t_ : State} (e : (execBzm o s) = .next t_) (h1 : MemOk p0 s) :
    MemOk p0 t_ := by
  unfold execBzm at e
  injection e with e
  subst e
  with_reducible repeat' first
    | assumption
    | intro _
    | apply State.transfer_memOk
    | split
    | simp only [memOk_mk]
    | apply memOk_fold
theorem execFsqrt_memOk {l : Bool} {d : BitVec 8} {a : BitVec 8} {s : State} {t_ : State} (e : (execFsqrt l d a s) = .next t_) (h3 : MemOk p0 s) :
    MemOk p0 t_ := by
  unfold execFsqrt at e
  injection e with e
  subst e
  with_reducible repeat' first
    | assumption
    | intro _
    | apply State.float1_memOk
    | split
    | simp only [memOk_mk]
    | apply memOk_fold
theorem execMst_memOk {l : Bool} {d : BitVec 8} {a : BitVec 8} {b : BitVec 5} {s : State} {t_ : State} (e : (execMst l d a b s) = .next t_) (h4 : MemOk p0 s) :
    MemOk p0 t_ := by
  unfold execMst at e
  injection e with e
  subst e
  with_reducible repeat' first
    | assumption
    | intro _
    | apply State.issueEngine_memOk
    | split
    | simp only [memOk_mk]
    | apply memOk_fold
theorem execBfe_memOk {l : Bool} {d : BitVec 8} {a : BitVec 8} {b : BitVec 8} {s : State} {t_ : State} (e : (execBfe l d a b s) = .next t_) (h4 : MemOk p0 s) :
    MemOk p0 t_ := by
  unfold execBfe at e
  injection e with e
  subst e
  with_reducible repeat' first
    | assumption
    | intro _
    | apply State.compute_memOk
    | split
    | simp only [memOk_mk]
    | apply memOk_fold
theorem execCctlInvl1_memOk {s : State} {t_ : State} (e : (execCctlInvl1 s) = .next t_) (h0 : MemOk p0 s) :
    MemOk p0 t_ := by
  unfold execCctlInvl1 at e
  injection e with e
  subst e
  with_reducible repeat' first
    | assumption
    | intro _
    | apply State.endWord_memOk
    | apply State.dropL1_memOk
    | split
    | simp only [memOk_mk]
    | apply memOk_fold
theorem execXcan_memOk {l : Bool} {d : BitVec 8} {a : BitVec 8} {b : BitVec 5} {s : State} {t_ : State} (e : (execXcan l d a b s) = .next t_) (h4 : MemOk p0 s) :
    MemOk p0 t_ := by
  unfold execXcan at e
  injection e with e
  subst e
  with_reducible repeat' first
    | assumption
    | intro _
    | apply State.issueEngine_memOk
    | split
    | simp only [memOk_mk]
    | apply memOk_fold
theorem execMset_memOk {s : State} {t_ : State} (e : (execMset s) = .next t_) (h0 : MemOk p0 s) :
    MemOk p0 t_ := by
  unfold execMset at e
  injection e with e
  subst e
  with_reducible repeat' first
    | assumption
    | intro _
    | apply State.endWord_memOk
    | apply State.modGg_memOk
    | split
    | simp only [memOk_mk]
    | apply memOk_fold
theorem execRchk_memOk {l : Bool} {d : BitVec 8} {a : BitVec 8} {b : BitVec 5} {s : State} {t_ : State} (e : (execRchk l d a b s) = .next t_) (h4 : MemOk p0 s) :
    MemOk p0 t_ := by
  unfold execRchk at e
  injection e with e
  subst e
  with_reducible repeat' first
    | assumption
    | intro _
    | apply State.issueEngine_memOk
    | split
    | simp only [memOk_mk]
    | apply memOk_fold
theorem execVoteBallot_memOk {l : Bool} {d : BitVec 8} {a : BitVec 8} {s : State} {t_ : State} (e : (execVoteBallot l d a s) = .next t_) (h3 : MemOk p0 s) :
    MemOk p0 t_ := by
  unfold execVoteBallot at e
  injection e with e
  subst e
  with_reducible repeat' first
    | assumption
    | intro _
    | apply State.vote_memOk
    | split
    | simp only [memOk_mk]
    | apply memOk_fold
theorem execRowfill_memOk {l : Bool} {d : BitVec 8} {a : BitVec 8} {b : BitVec 5} {s : State} {t_ : State} (e : (execRowfill l d a b s) = .next t_) (h4 : MemOk p0 s) :
    MemOk p0 t_ := by
  unfold execRowfill at e
  injection e with e
  subst e
  with_reducible repeat' first
    | assumption
    | intro _
    | apply State.issueEngine_memOk
    | split
    | simp only [memOk_mk]
    | apply memOk_fold
theorem execSts_memOk {l : Bool} {d : BitVec 8} {a : BitVec 8} {sem : BitVec 3} {size : BitVec 2} {s : State} {t_ : State} (e : (execSts l d a sem size s) = .next t_) (h5 : MemOk p0 s) :
    MemOk p0 t_ := by
  unfold execSts at e
  injection e with e
  subst e
  with_reducible repeat' first
    | assumption
    | intro _
    | apply State.memWord_memOk
    | apply endIssued_memOk
    | apply State.store_memOk
    | (refine State.store_memOk_eq (by assumption) ?_)
    | apply State.released_memOk
    | split
    | simp only [memOk_mk]
    | apply memOk_fold
theorem execBararr_memOk {b : BitVec 5} {s : State} {t_ : State} (e : (execBararr b s) = .next t_) (h1 : MemOk p0 s) :
    MemOk p0 t_ := by
  unfold execBararr at e
  injection e with e
  subst e
  with_reducible repeat' first
    | assumption
    | intro _
    | apply State.checked_memOk
    | apply State.arriveWord_memOk
    | split
    | simp only [memOk_mk]
    | apply memOk_fold
theorem execAtom_memOk {l : Bool} {d : BitVec 8} {a : BitVec 8} {sem : BitVec 3} {scope : BitVec 3} {z : BitVec 1} {s : State} {t_ : State} (e : (execAtom l d a sem scope z s) = .next t_) (h6 : MemOk p0 s) :
    MemOk p0 t_ := by
  unfold execAtom at e
  injection e with e
  subst e
  with_reducible repeat' first
    | assumption
    | intro _
    | apply State.atomOp_memOk
    | split
    | simp only [memOk_mk]
    | apply memOk_fold
theorem execContribution_memOk {plane : Nat} {f : Sys2Proof.Flit} {s : State} {t_ : State} (e : (execContribution plane f s) = .next t_) (h2 : MemOk p0 s) :
    MemOk p0 t_ := by
  unfold execContribution at e
  injection e with e
  subst e
  with_reducible repeat' first
    | assumption
    | intro _
    | apply State.sendResults_memOk
    | split
    | simp only [memOk_mk]
    | apply memOk_fold
theorem State.takeTurn_memOk {s : State} (h0 : MemOk p0 s) :
    MemOk p0 (State.takeTurn s).2 := by
  unfold State.takeTurn
  with_reducible repeat' first
    | assumption
    | intro _
    | split
    | simp only [memOk_mk]
    | apply memOk_fold
theorem State.takeTurn_memOk_eq {s : State} {o_ t_} (e : (State.takeTurn s) = (o_, t_)) (h0 : MemOk p0 s) :
    MemOk p0 t_ := by
  have := State.takeTurn_memOk  h0
  rwa [e] at this
theorem execSnapq_memOk {l : Bool} {d : BitVec 8} {a : BitVec 8} {b : BitVec 5} {s : State} {t_ : State} (e : (execSnapq l d a b s) = .next t_) (h4 : MemOk p0 s) :
    MemOk p0 t_ := by
  unfold execSnapq at e
  injection e with e
  subst e
  with_reducible repeat' first
    | assumption
    | intro _
    | apply State.issueEngine_memOk
    | split
    | simp only [memOk_mk]
    | apply memOk_fold
theorem execLd_memOk {l : Bool} {d : BitVec 8} {a : BitVec 8} {sem : BitVec 3} {scope : BitVec 3} {size : BitVec 2} {s : State} {t_ : State} (e : (execLd l d a sem scope size s) = .next t_) (h6 : MemOk p0 s) :
    MemOk p0 t_ := by
  unfold execLd at e
  injection e with e
  subst e
  with_reducible repeat' first
    | assumption
    | intro _
    | apply State.memWord_memOk
    | apply endIssued_memOk
    | apply State.load_memOk
    | (refine State.load_memOk_eq (by assumption) ?_)
    | apply State.released_memOk
    | split
    | simp only [memOk_mk]
    | apply memOk_fold
theorem execBfi_memOk {l : Bool} {d : BitVec 8} {a : BitVec 8} {b : BitVec 8} {s : State} {t_ : State} (e : (execBfi l d a b s) = .next t_) (h4 : MemOk p0 s) :
    MemOk p0 t_ := by
  unfold execBfi at e
  injection e with e
  subst e
  with_reducible repeat' first
    | assumption
    | intro _
    | apply State.compute_memOk
    | split
    | simp only [memOk_mk]
    | apply memOk_fold
theorem State.deliver_memOk (bs : List Sys2Proof.Byte) {s : State} (h1 : MemOk p0 s) :
    MemOk p0 (State.deliver bs s) := by
  unfold State.deliver
  with_reducible repeat' first
    | assumption
    | intro _
    | apply State.requestRefused_memOk
    | apply State.requestDone_memOk
    | apply State.writeSys_memOk
    | split
    | simp only [memOk_mk]
    | apply memOk_fold
theorem execColdReset_memOk {s : State} {t_ : State} (e : (execColdReset s) = .next t_) (h0 : MemOk p0 s) :
    MemOk p0 t_ := by
  unfold execColdReset at e
  injection e with e
  subst e
  with_reducible repeat' first
    | assumption
    | intro _
    | apply State.bringUp_memOk
    | apply State.survivors_memOk
    | apply State.activate_memOk
    | split
    | simp only [memOk_mk]
    | apply memOk_fold
theorem execJtx_memOk {l : Bool} {x : BitVec 8} {t : BitVec 8} {s : State} {t_ : State} (e : (execJtx l x t s) = .next t_) (h3 : MemOk p0 s) :
    MemOk p0 t_ := by
  unfold execJtx at e
  injection e with e
  subst e
  with_reducible repeat' first
    | assumption
    | intro _
    | apply State.checked_memOk
    | apply State.openFrame_memOk
    | apply State.transferWith_memOk
    | split
    | simp only [memOk_mk]
    | apply memOk_fold
theorem execRowq_memOk {l : Bool} {d : BitVec 8} {a : BitVec 8} {b : BitVec 5} {s : State} {t_ : State} (e : (execRowq l d a b s) = .next t_) (h4 : MemOk p0 s) :
    MemOk p0 t_ := by
  unfold execRowq at e
  injection e with e
  subst e
  with_reducible repeat' first
    | assumption
    | intro _
    | apply State.issueEngine_memOk
    | split
    | simp only [memOk_mk]
    | apply memOk_fold
theorem execTierWriteFailure_memOk {dom : Nat} {col : Bool} {s : State} {t_ : State} (e : (execTierWriteFailure dom col s) = .next t_) (h2 : MemOk p0 s) :
    MemOk p0 t_ := by
  unfold execTierWriteFailure at e
  injection e with e
  subst e
  with_reducible repeat' first
    | assumption
    | intro _
    | apply State.failSnap_memOk
    | split
    | simp only [memOk_mk]
    | apply memOk_fold
theorem State.sendWaiting_memOk (p : Nat) {s : State} (h1 : MemOk p0 s) :
    MemOk p0 (State.sendWaiting p s) := by
  unfold State.sendWaiting
  with_reducible repeat' first
    | assumption
    | intro _
    | apply State.post_memOk
    | split
    | simp only [memOk_mk]
    | apply memOk_fold
theorem execAllocatorStateNotice_memOk {dom : Nat} {die : Nat} {col : Bool} {s : State} {t_ : State} (e : (execAllocatorStateNotice dom die col s) = .next t_) (h3 : MemOk p0 s) :
    MemOk p0 t_ := by
  unfold execAllocatorStateNotice at e
  injection e with e
  subst e
  with_reducible repeat' first
    | assumption
    | intro _
    | apply State.releaseDie_memOk
    | split
    | simp only [memOk_mk]
    | apply memOk_fold
theorem execCntr_memOk {vf : Nat} {chain : Nat} {entry : Nat} {s : State} {t_ : State} (e : (execCntr vf chain entry s) = .next t_) (h3 : MemOk p0 s) :
    MemOk p0 t_ := by
  unfold execCntr at e
  injection e with e
  subst e
  with_reducible repeat' first
    | assumption
    | intro _
    | apply State.entryActs_memOk
    | apply State.endEntry_memOk
    | (refine State.writeVa_memOk (by assumption) ?_)
    | split
    | simp only [memOk_mk]
    | apply memOk_fold
theorem execRownot_memOk {l : Bool} {d : BitVec 8} {a : BitVec 8} {b : BitVec 5} {s : State} {t_ : State} (e : (execRownot l d a b s) = .next t_) (h4 : MemOk p0 s) :
    MemOk p0 t_ := by
  unfold execRownot at e
  injection e with e
  subst e
  with_reducible repeat' first
    | assumption
    | intro _
    | apply State.issueEngine_memOk
    | split
    | simp only [memOk_mk]
    | apply memOk_fold
theorem execSysw_memOk {l : Bool} {x : BitVec 8} {r : BitVec 8} {s : State} {t_ : State} (e : (execSysw l x r s) = .next t_) (h3 : MemOk p0 s) :
    MemOk p0 t_ := by
  unfold execSysw at e
  injection e with e
  subst e
  with_reducible repeat' first
    | assumption
    | intro _
    | apply State.checked_memOk
    | apply State.endWordL_memOk
    | apply State.modCx_memOk
    | split
    | simp only [memOk_mk]
    | apply memOk_fold
theorem execBarrierWaitReturn_memOk {ctx : Nat} {gang : Nat} {sub : Nat} {s : State} {t_ : State} (e : (execBarrierWaitReturn ctx gang sub s) = .next t_) (h3 : MemOk p0 s) :
    MemOk p0 t_ := by
  unfold execBarrierWaitReturn at e
  injection e with e
  subst e
  with_reducible repeat' first
    | assumption
    | intro _
    | apply State.asIssuing_memOk
    | apply State.resumeWord_memOk
    | apply State.returnWait_memOk
    | split
    | simp only [memOk_mk]
    | apply memOk_fold
theorem execFrsq_memOk {l : Bool} {d : BitVec 8} {a : BitVec 8} {s : State} {t_ : State} (e : (execFrsq l d a s) = .next t_) (h3 : MemOk p0 s) :
    MemOk p0 t_ := by
  unfold execFrsq at e
  injection e with e
  subst e
  with_reducible repeat' first
    | assumption
    | intro _
    | apply State.float1_memOk
    | split
    | simp only [memOk_mk]
    | apply memOk_fold
theorem execRetrain_memOk {port : Nat} {s : State} {t_ : State} (e : (execRetrain port s) = .next t_) (h1 : MemOk p0 s) :
    MemOk p0 t_ := by
  unfold execRetrain at e
  injection e with e
  subst e
  with_reducible repeat' first
    | assumption
    | intro _
    | apply State.portDown_memOk
    | apply State.post_memOk
    | apply State.modPort_memOk
    | split
    | simp only [memOk_mk]
    | apply memOk_fold
theorem execGuardInverted_memOk {l : Bool} {a : BitVec 8} {s : State} {t_ : State} (e : (execGuardInverted l a s) = .next t_) (h2 : MemOk p0 s) :
    MemOk p0 t_ := by
  unfold execGuardInverted at e
  injection e with e
  subst e
  with_reducible repeat' first
    | assumption
    | intro _
    | apply State.guard_memOk
    | split
    | simp only [memOk_mk]
    | apply memOk_fold
theorem execFexp2_memOk {l : Bool} {d : BitVec 8} {a : BitVec 8} {s : State} {t_ : State} (e : (execFexp2 l d a s) = .next t_) (h3 : MemOk p0 s) :
    MemOk p0 t_ := by
  unfold execFexp2 at e
  injection e with e
  subst e
  with_reducible repeat' first
    | assumption
    | intro _
    | apply State.float1_memOk
    | split
    | simp only [memOk_mk]
    | apply memOk_fold
theorem execMaccCopy_memOk {l : Bool} {d : BitVec 8} {a : BitVec 8} {b : BitVec 5} {s : State} {t_ : State} (e : (execMaccCopy l d a b s) = .next t_) (h4 : MemOk p0 s) :
    MemOk p0 t_ := by
  unfold execMaccCopy at e
  injection e with e
  subst e
  with_reducible repeat' first
    | assumption
    | intro _
    | apply State.issueEngine_memOk
    | split
    | simp only [memOk_mk]
    | apply memOk_fold
theorem execPairFormationTimeout_memOk {core : Nat} {s : State} {t_ : State} (e : (execPairFormationTimeout core s) = .next t_) (h1 : MemOk p0 s) :
    MemOk p0 t_ := by
  unfold execPairFormationTimeout at e
  injection e with e
  subst e
  with_reducible repeat' first
    | assumption
    | intro _
    | apply State.endPairs_memOk
    | split
    | simp only [memOk_mk]
    | apply memOk_fold
theorem execLinkNak_memOk {port : Nat} {ackSeq : BitVec 12} {s : State} {t_ : State} (e : (execLinkNak port ackSeq s) = .next t_) (h2 : MemOk p0 s) :
    MemOk p0 t_ := by
  unfold execLinkNak at e
  injection e with e
  subst e
  with_reducible repeat' first
    | assumption
    | intro _
    | apply State.modPort_memOk
    | apply State.portEvent_memOk
    | apply State.post_memOk
    | split
    | simp only [memOk_mk]
    | apply memOk_fold
theorem execRrev_memOk {l : Bool} {d : BitVec 8} {a : BitVec 8} {b : BitVec 5} {s : State} {t_ : State} (e : (execRrev l d a b s) = .next t_) (h4 : MemOk p0 s) :
    MemOk p0 t_ := by
  unfold execRrev at e
  injection e with e
  subst e
  with_reducible repeat' first
    | assumption
    | intro _
    | apply State.issueEngine_memOk
    | split
    | simp only [memOk_mk]
    | apply memOk_fold
theorem execFclass_memOk {l : Bool} {d : BitVec 8} {a : BitVec 8} {s : State} {t_ : State} (e : (execFclass l d a s) = .next t_) (h3 : MemOk p0 s) :
    MemOk p0 t_ := by
  unfold execFclass at e
  injection e with e
  subst e
  with_reducible repeat' first
    | assumption
    | intro _
    | apply State.compute_memOk
    | split
    | simp only [memOk_mk]
    | apply memOk_fold
theorem execChannelCloseLimit_memOk {dom : Nat} {col : Bool} {s : State} {t_ : State} (e : (execChannelCloseLimit dom col s) = .next t_) (h2 : MemOk p0 s) :
    MemOk p0 t_ := by
  unfold execChannelCloseLimit at e
  injection e with e
  subst e
  with_reducible repeat' first
    | assumption
    | intro _
    | apply State.failSnap_memOk
    | split
    | simp only [memOk_mk]
    | apply memOk_fold
theorem State.failChunks_memOk (vf : Nat) {s : State} (h1 : MemOk p0 s) :
    MemOk p0 (State.failChunks vf s) := by
  unfold State.failChunks
  with_reducible repeat' first
    | assumption
    | intro _
    | apply State.failNode_memOk
    | apply memOk_foldl
    | apply memOk_foldl2
    | split
    | simp only [memOk_mk]
    | apply memOk_fold
theorem execTeardownWaitExpiry_memOk {vf : Nat} {s : State} {t_ : State} (e : (execTeardownWaitExpiry vf s) = .next t_) (h1 : MemOk p0 s) :
    MemOk p0 t_ := by
  unfold execTeardownWaitExpiry at e
  injection e with e
  subst e
  with_reducible repeat' first
    | assumption
    | intro _
    | apply State.loseRequests_memOk
    | apply State.tryRelease_memOk
    | apply State.modVf_memOk
    | apply State.teardownMarkers_memOk
    | apply State.failChunks_memOk
    | apply State.freeSlotsOf_memOk
    | split
    | simp only [memOk_mk]
    | apply memOk_fold
theorem execSlotRequest_memOk {plane : Nat} {f : Sys2Proof.Flit} {s : State} {t_ : State} (e : (execSlotRequest plane f s) = .next t_) (h2 : MemOk p0 s) :
    MemOk p0 t_ := by
  unfold execSlotRequest at e
  injection e with e
  subst e
  with_reducible repeat' first
    | assumption
    | intro _
    | apply State.spireSend_memOk
    | apply memOk_getD
    | split
    | simp only [memOk_mk]
    | apply memOk_fold
theorem execFmin_memOk {l : Bool} {d : BitVec 8} {a : BitVec 8} {b : BitVec 8} {s : State} {t_ : State} (e : (execFmin l d a b s) = .next t_) (h4 : MemOk p0 s) :
    MemOk p0 t_ := by
  unfold execFmin at e
  injection e with e
  subst e
  with_reducible repeat' first
    | assumption
    | intro _
    | apply State.float2_memOk
    | split
    | simp only [memOk_mk]
    | apply memOk_fold
theorem execReduceWrite_memOk {port : Nat} {f : Sys2Proof.Flit} {s : State} {t_ : State} (e : (execReduceWrite port f s) = .next t_) (h2 : MemOk p0 s) :
    MemOk p0 t_ := by
  unfold execReduceWrite at e
  injection e with e
  subst e
  with_reducible repeat' first
    | assumption
    | intro _
    | apply State.takeKind_memOk
    | apply State.serveReduce_memOk
    | split
    | simp only [memOk_mk]
    | apply memOk_fold
theorem execMsave_memOk {d : BitVec 8} {s : State} {t_ : State} (e : (execMsave d s) = .next t_) (h1 : MemOk p0 s) :
    MemOk p0 t_ := by
  unfold execMsave at e
  injection e with e
  subst e
  with_reducible repeat' first
    | assumption
    | intro _
    | apply State.maskTo_memOk
    | split
    | simp only [memOk_mk]
    | apply memOk_fold
theorem execReduxFadd_memOk {l : Bool} {d : BitVec 8} {a : BitVec 8} {s : State} {t_ : State} (e : (execReduxFadd l d a s) = .next t_) (h3 : MemOk p0 s) :
    MemOk p0 t_ := by
  unfold execReduxFadd at e
  injection e with e
  subst e
  with_reducible repeat' first
    | assumption
    | intro _
    | apply State.redux_memOk
    | split
    | simp only [memOk_mk]
    | apply memOk_fold
theorem execFsin_memOk {l : Bool} {d : BitVec 8} {a : BitVec 8} {s : State} {t_ : State} (e : (execFsin l d a s) = .next t_) (h3 : MemOk p0 s) :
    MemOk p0 t_ := by
  unfold execFsin at e
  injection e with e
  subst e
  with_reducible repeat' first
    | assumption
    | intro _
    | apply State.float1_memOk
    | split
    | simp only [memOk_mk]
    | apply memOk_fold
theorem execBarinit_memOk {l : Bool} {x : BitVec 8} {y : BitVec 8} {b : BitVec 5} {s : State} {t_ : State} (e : (execBarinit l x y b s) = .next t_) (h4 : MemOk p0 s) :
    MemOk p0 t_ := by
  unfold execBarinit at e
  injection e with e
  subst e
  with_reducible repeat' first
    | assumption
    | intro _
    | apply State.checked_memOk
    | apply State.endWordL_memOk
    | apply State.writeBound_memOk
    | apply State.modBar_memOk
    | split
    | simp only [memOk_mk]
    | apply memOk_fold
theorem execFabs_memOk {l : Bool} {d : BitVec 8} {a : BitVec 8} {s : State} {t_ : State} (e : (execFabs l d a s) = .next t_) (h3 : MemOk p0 s) :
    MemOk p0 t_ := by
  unfold execFabs at e
  injection e with e
  subst e
  with_reducible repeat' first
    | assumption
    | intro _
    | apply State.compute_memOk
    | split
    | simp only [memOk_mk]
    | apply memOk_fold
theorem execMwait_memOk {s : State} {t_ : State} (e : (execMwait s) = .next t_) (h0 : MemOk p0 s) :
    MemOk p0 t_ := by
  unfold execMwait at e
  injection e with e
  subst e
  with_reducible repeat' first
    | assumption
    | intro _
    | apply State.endWord_memOk
    | apply State.disarm_memOk
    | apply State.beginWait_memOk
    | apply State.countWord_memOk
    | split
    | simp only [memOk_mk]
    | apply memOk_fold
theorem execAttestationCertificate_memOk {s : State} {t_ : State} (e : (execAttestationCertificate s) = .next t_) (h0 : MemOk p0 s) :
    MemOk p0 t_ := by
  unfold execAttestationCertificate at e
  injection e with e
  subst e
  with_reducible repeat' first
    | assumption
    | intro _
    | apply State.deliver_memOk
    | apply State.endRequest_memOk
    | split
    | simp only [memOk_mk]
    | apply memOk_fold
theorem execChainEntryCompletion_memOk {vf : Nat} {chain : Nat} {entry : Nat} {s : State} {t_ : State} (e : (execChainEntryCompletion vf chain entry s) = .next t_) (h3 : MemOk p0 s) :
    MemOk p0 t_ := by
  unfold execChainEntryCompletion at e
  injection e with e
  subst e
  with_reducible repeat' first
    | assumption
    | intro _
    | (refine State.writeVa_memOk (by assumption) ?_)
    | apply State.modChain_memOk
    | apply State.modEntry_memOk
    | apply State.modVf_memOk
    | apply State.startNext_memOk
    | apply State.showPages_memOk
    | apply memOk_getD
    | split
    | simp only [memOk_mk]
    | apply memOk_fold
theorem execWriteAcknowledgement_memOk {port : Nat} {f : Sys2Proof.Flit} {s : State} {t_ : State} (e : (execWriteAcknowledgement port f s) = .next t_) (h2 : MemOk p0 s) :
    MemOk p0 t_ := by
  unfold execWriteAcknowledgement at e
  injection e with e
  subst e
  with_reducible repeat' first
    | assumption
    | intro _
    | apply State.takeKind_memOk
    | apply State.serveAck_memOk
    | split
    | simp only [memOk_mk]
    | apply memOk_fold
theorem execYield_memOk {s : State} {t_ : State} (e : (execYield s) = .next t_) (h0 : MemOk p0 s) :
    MemOk p0 t_ := by
  unfold execYield at e
  injection e with e
  subst e
  with_reducible repeat' first
    | assumption
    | intro _
    | apply State.endWord_memOk
    | apply State.modGg_memOk
    | split
    | simp only [memOk_mk]
    | apply memOk_fold
theorem execPref_memOk {l : Bool} {lev : BitVec 1} {a : BitVec 8} {s : State} {t_ : State} (e : (execPref l lev a s) = .next t_) (h3 : MemOk p0 s) :
    MemOk p0 t_ := by
  unfold execPref at e
  injection e with e
  subst e
  with_reducible repeat' first
    | assumption
    | intro _
    | apply State.lineWord_memOk
    | apply State.fetchLine_memOk
    | apply State.askAll_memOk
    | (refine State.askAll_memOk_eq (by assumption) ?_)
    | apply State.post_memOk
    | apply State.openAccess_memOk
    | apply memOk_foldl
    | apply memOk_foldl2
    | split
    | simp only [memOk_mk]
    | apply memOk_fold
theorem execRscl_memOk {l : Bool} {d : BitVec 8} {a : BitVec 8} {b : BitVec 5} {s : State} {t_ : State} (e : (execRscl l d a b s) = .next t_) (h4 : MemOk p0 s) :
    MemOk p0 t_ := by
  unfold execRscl at e
  injection e with e
  subst e
  with_reducible repeat' first
    | assumption
    | intro _
    | apply State.issueEngine_memOk
    | split
    | simp only [memOk_mk]
    | apply memOk_fold
theorem execAbs_memOk {l : Bool} {d : BitVec 8} {a : BitVec 8} {s : State} {t_ : State} (e : (execAbs l d a s) = .next t_) (h3 : MemOk p0 s) :
    MemOk p0 t_ := by
  unfold execAbs at e
  injection e with e
  subst e
  with_reducible repeat' first
    | assumption
    | intro _
    | apply State.compute_memOk
    | split
    | simp only [memOk_mk]
    | apply memOk_fold
theorem execMma_memOk {l : Bool} {d : BitVec 8} {a : BitVec 8} {b : BitVec 5} {s : State} {t_ : State} (e : (execMma l d a b s) = .next t_) (h4 : MemOk p0 s) :
    MemOk p0 t_ := by
  unfold execMma at e
  injection e with e
  subst e
  with_reducible repeat' first
    | assumption
    | intro _
    | apply State.issueEngine_memOk
    | split
    | simp only [memOk_mk]
    | apply memOk_fold
theorem State.dropFlit_memOk (p : Nat) {s : State} (h1 : MemOk p0 s) :
    MemOk p0 (State.dropFlit p s) := by
  unfold State.dropFlit
  with_reducible repeat' first
    | assumption
    | intro _
    | apply State.modPort_memOk
    | split
    | simp only [memOk_mk]
    | apply memOk_fold
theorem execSlotReply_memOk {port : Nat} {f : Sys2Proof.Flit} {s : State} {t_ : State} (e : (execSlotReply port f s) = .next t_) (h2 : MemOk p0 s) :
    MemOk p0 t_ := by
  unfold execSlotReply at e
  injection e with e
  subst e
  with_reducible repeat' first
    | assumption
    | intro _
    | apply State.takeKind_memOk
    | apply State.dropFlit_memOk
    | apply State.contributeAgain_memOk
    | apply State.modRun_memOk
    | apply State.settleSlots_memOk
    | split
    | simp only [memOk_mk]
    | apply memOk_fold
theorem execMmag_memOk {l : Bool} {d : BitVec 8} {a : BitVec 8} {b : BitVec 5} {s : State} {t_ : State} (e : (execMmag l d a b s) = .next t_) (h4 : MemOk p0 s) :
    MemOk p0 t_ := by
  unfold execMmag at e
  injection e with e
  subst e
  with_reducible repeat' first
    | assumption
    | intro _
    | apply State.issueEngine_memOk
    | split
    | simp only [memOk_mk]
    | apply memOk_fold
theorem execNeg_memOk {l : Bool} {d : BitVec 8} {a : BitVec 8} {s : State} {t_ : State} (e : (execNeg l d a s) = .next t_) (h3 : MemOk p0 s) :
    MemOk p0 t_ := by
  unfold execNeg at e
  injection e with e
  subst e
  with_reducible repeat' first
    | assumption
    | intro _
    | apply State.compute_memOk
    | split
    | simp only [memOk_mk]
    | apply memOk_fold
theorem execSnaprel_memOk {l : Bool} {d : BitVec 8} {a : BitVec 8} {b : BitVec 5} {s : State} {t_ : State} (e : (execSnaprel l d a b s) = .next t_) (h4 : MemOk p0 s) :
    MemOk p0 t_ := by
  unfold execSnaprel at e
  injection e with e
  subst e
  with_reducible repeat' first
    | assumption
    | intro _
    | apply State.issueEngine_memOk
    | split
    | simp only [memOk_mk]
    | apply memOk_fold
theorem execMaccFill_memOk {l : Bool} {d : BitVec 8} {a : BitVec 8} {b : BitVec 5} {s : State} {t_ : State} (e : (execMaccFill l d a b s) = .next t_) (h4 : MemOk p0 s) :
    MemOk p0 t_ := by
  unfold execMaccFill at e
  injection e with e
  subst e
  with_reducible repeat' first
    | assumption
    | intro _
    | apply State.issueEngine_memOk
    | split
    | simp only [memOk_mk]
    | apply memOk_fold
theorem execAdd_memOk {l : Bool} {d : BitVec 8} {a : BitVec 8} {b : BitVec 8} {s : State} {t_ : State} (e : (execAdd l d a b s) = .next t_) (h4 : MemOk p0 s) :
    MemOk p0 t_ := by
  unfold execAdd at e
  injection e with e
  subst e
  with_reducible repeat' first
    | assumption
    | intro _
    | apply State.int2_memOk
    | split
    | simp only [memOk_mk]
    | apply memOk_fold
theorem execReduxXor_memOk {l : Bool} {d : BitVec 8} {a : BitVec 8} {s : State} {t_ : State} (e : (execReduxXor l d a s) = .next t_) (h3 : MemOk p0 s) :
    MemOk p0 t_ := by
  unfold execReduxXor at e
  injection e with e
  subst e
  with_reducible repeat' first
    | assumption
    | intro _
    | apply State.redux_memOk
    | apply memOk_foldl
    | apply memOk_foldl2
    | split
    | simp only [memOk_mk]
    | apply memOk_fold
theorem execOr_memOk {l : Bool} {d : BitVec 8} {a : BitVec 8} {b : BitVec 8} {s : State} {t_ : State} (e : (execOr l d a b s) = .next t_) (h4 : MemOk p0 s) :
    MemOk p0 t_ := by
  unfold execOr at e
  injection e with e
  subst e
  with_reducible repeat' first
    | assumption
    | intro _
    | apply State.logic2_memOk
    | split
    | simp only [memOk_mk]
    | apply memOk_fold
theorem State.addCharges_memOk {s : State} (cs : List Sys2Proof.Charge) (h0 : MemOk p0 s) :
    MemOk p0 (State.addCharges s cs) := by
  unfold State.addCharges
  with_reducible repeat' first
    | assumption
    | intro _
    | apply State.modPart_memOk
    | apply memOk_foldl
    | apply memOk_foldl2
    | split
    | simp only [memOk_mk]
    | apply memOk_fold
theorem execPeriodCharge_memOk {die : Nat} {s : State} {t_ : State} (e : (execPeriodCharge die s) = .next t_) (h1 : MemOk p0 s) :
    MemOk p0 t_ := by
  unfold execPeriodCharge at e
  injection e with e
  subst e
  with_reducible repeat' first
    | assumption
    | intro _
    | apply State.addCharges_memOk
    | split
    | simp only [memOk_mk]
    | apply memOk_fold
theorem execCompactionGatheringLimit_memOk {ctx : Nat} {unit : Nat} {s : State} {t_ : State} (e : (execCompactionGatheringLimit ctx unit s) = .next t_) (h2 : MemOk p0 s) :
    MemOk p0 t_ := by
  unfold execCompactionGatheringLimit at e
  injection e with e
  subst e
  with_reducible repeat' first
    | assumption
    | intro _
    | apply State.modCtx_memOk
    | apply memOk_foldl
    | apply memOk_foldl2
    | split
    | simp only [memOk_mk]
    | apply memOk_fold
theorem execSel_memOk {l : Bool} {d : BitVec 8} {a : BitVec 8} {b : BitVec 8} {s : State} {t_ : State} (e : (execSel l d a b s) = .next t_) (h4 : MemOk p0 s) :
    MemOk p0 t_ := by
  unfold execSel at e
  injection e with e
  subst e
  with_reducible repeat' first
    | assumption
    | intro _
    | apply State.compute_memOk
    | split
    | simp only [memOk_mk]
    | apply memOk_fold
theorem execLdc_memOk {l : Bool} {d : BitVec 8} {a : BitVec 8} {size : BitVec 2} {s : State} {t_ : State} (e : (execLdc l d a size s) = .next t_) (h4 : MemOk p0 s) :
    MemOk p0 t_ := by
  unfold execLdc at e
  injection e with e
  subst e
  with_reducible repeat' first
    | assumption
    | intro _
    | apply State.memWord_memOk
    | apply endIssued_memOk
    | apply State.load_memOk
    | (refine State.load_memOk_eq (by assumption) ?_)
    | split
    | simp only [memOk_mk]
    | apply memOk_fold
theorem execAddc_memOk {l : Bool} {d : BitVec 8} {a : BitVec 8} {b : BitVec 8} {s : State} {t_ : State} (e : (execAddc l d a b s) = .next t_) (h4 : MemOk p0 s) :
    MemOk p0 t_ := by
  unfold execAddc at e
  injection e with e
  subst e
  with_reducible repeat' first
    | assumption
    | intro _
    | apply State.computeAs_memOk
    | split
    | simp only [memOk_mk]
    | apply memOk_fold
theorem execTinv_memOk {vf : Nat} {chain : Nat} {entry : Nat} {s : State} {t_ : State} (e : (execTinv vf chain entry s) = .next t_) (h3 : MemOk p0 s) :
    MemOk p0 t_ := by
  unfold execTinv at e
  injection e with e
  subst e
  with_reducible repeat' first
    | assumption
    | intro _
    | apply State.entryActs_memOk
    | apply State.endEntry_memOk
    | split
    | simp only [memOk_mk]
    | apply memOk_fold
theorem execReduxEscanadd_memOk {l : Bool} {d : BitVec 8} {a : BitVec 8} {s : State} {t_ : State} (e : (execReduxEscanadd l d a s) = .next t_) (h3 : MemOk p0 s) :
    MemOk p0 t_ := by
  unfold execReduxEscanadd at e
  injection e with e
  subst e
  with_reducible repeat' first
    | assumption
    | intro _
    | apply State.redux_memOk
    | split
    | simp only [memOk_mk]
    | apply memOk_fold
theorem execBra_memOk {o : BitVec 24} {s : State} {t_ : State} (e : (execBra o s) = .next t_) (h1 : MemOk p0 s) :
    MemOk p0 t_ := by
  unfold execBra at e
  injection e with e
  subst e
  with_reducible repeat' first
    | assumption
    | intro _
    | apply State.transfer_memOk
    | split
    | simp only [memOk_mk]
    | apply memOk_fold
theorem execDestinationArrival_memOk {cmd : Nat} {s : State} {t_ : State} (e : (execDestinationArrival cmd s) = .next t_) (h1 : MemOk p0 s) :
    MemOk p0 t_ := by
  unfold execDestinationArrival at e
  injection e with e
  subst e
  with_reducible repeat' first
    | assumption
    | intro _
    | apply State.destDone_memOk
    | split
    | simp only [memOk_mk]
    | apply memOk_fold
theorem execYieldRegroup_memOk {s : State} {t_ : State} (e : (execYieldRegroup s) = .next t_) (h0 : MemOk p0 s) :
    MemOk p0 t_ := by
  unfold execYieldRegroup at e
  injection e with e
  subst e
  with_reducible repeat' first
    | assumption
    | intro _
    | apply State.endWord_memOk
    | apply State.modGg_memOk
    | split
    | simp only [memOk_mk]
    | apply memOk_fold
theorem execXor_memOk {l : Bool} {d : BitVec 8} {a : BitVec 8} {b : BitVec 8} {s : State} {t_ : State} (e : (execXor l d a b s) = .next t_) (h4 : MemOk p0 s) :
    MemOk p0 t_ := by
  unfold execXor at e
  injection e with e
  subst e
  with_reducible repeat' first
    | assumption
    | intro _
    | apply State.logic2_memOk
    | split
    | simp only [memOk_mk]
    | apply memOk_fold
theorem execReduxFmax_memOk {l : Bool} {d : BitVec 8} {a : BitVec 8} {s : State} {t_ : State} (e : (execReduxFmax l d a s) = .next t_) (h3 : MemOk p0 s) :
    MemOk p0 t_ := by
  unfold execReduxFmax at e
  injection e with e
  subst e
  with_reducible repeat' first
    | assumption
    | intro _
    | apply State.redux_memOk
    | split
    | simp only [memOk_mk]
    | apply memOk_fold
theorem execMin_memOk {l : Bool} {d : BitVec 8} {a : BitVec 8} {b : BitVec 8} {s : State} {t_ : State} (e : (execMin l d a b s) = .next t_) (h4 : MemOk p0 s) :
    MemOk p0 t_ := by
  unfold execMin at e
  injection e with e
  subst e
  with_reducible repeat' first
    | assumption
    | intro _
    | apply State.int2_memOk
    | split
    | simp only [memOk_mk]
    | apply memOk_fold
theorem execShflup_memOk {l : Bool} {d : BitVec 8} {a : BitVec 8} {b : BitVec 8} {s : State} {t_ : State} (e : (execShflup l d a b s) = .next t_) (h4 : MemOk p0 s) :
    MemOk p0 t_ := by
  unfold execShflup at e
  injection e with e
  subst e
  with_reducible repeat' first
    | assumption
    | intro _
    | apply State.shuffle_memOk
    | split
    | simp only [memOk_mk]
    | apply memOk_fold
theorem execNop_memOk {s : State} {t_ : State} (e : (execNop s) = .next t_) (h0 : MemOk p0 s) :
    MemOk p0 t_ := by
  unfold execNop at e
  injection e with e
  subst e
  with_reducible repeat' first
    | assumption
    | intro _
    | apply State.endWord_memOk
    | split
    | simp only [memOk_mk]
    | apply memOk_fold
theorem execPopc_memOk {l : Bool} {d : BitVec 8} {a : BitVec 8} {s : State} {t_ : State} (e : (execPopc l d a s) = .next t_) (h3 : MemOk p0 s) :
    MemOk p0 t_ := by
  unfold execPopc at e
  injection e with e
  subst e
  with_reducible repeat' first
    | assumption
    | intro _
    | apply State.compute_memOk
    | split
    | simp only [memOk_mk]
    | apply memOk_fold
theorem execSbarTest_memOk {l : Bool} {x : BitVec 8} {y : BitVec 8} {scope : BitVec 3} {s : State} {t_ : State} (e : (execSbarTest l x y scope s) = .next t_) (h4 : MemOk p0 s) :
    MemOk p0 t_ := by
  unfold execSbarTest at e
  injection e with e
  subst e
  with_reducible repeat' first
    | assumption
    | intro _
    | apply State.sbar_memOk
    | apply State.testBar_memOk
    | apply State.unstage_memOk
    | split
    | simp only [memOk_mk]
    | apply memOk_fold
theorem execLinkAcknowledgement_memOk {port : Nat} {ackSeq : BitVec 12} {s : State} {t_ : State} (e : (execLinkAcknowledgement port ackSeq s) = .next t_) (h2 : MemOk p0 s) :
    MemOk p0 t_ := by
  unfold execLinkAcknowledgement at e
  injection e with e
  subst e
  with_reducible repeat' first
    | assumption
    | intro _
    | apply State.post_memOk
    | apply State.modPort_memOk
    | split
    | simp only [memOk_mk]
    | apply memOk_fold
theorem execSt_memOk {l : Bool} {d : BitVec 8} {a : BitVec 8} {sem : BitVec 3} {scope : BitVec 3} {size : BitVec 2} {s : State} {t_ : State} (e : (execSt l d a sem scope size s) = .next t_) (h6 : MemOk p0 s) :
    MemOk p0 t_ := by
  unfold execSt at e
  injection e with e
  subst e
  with_reducible repeat' first
    | assumption
    | intro _
    | apply State.memWord_memOk
    | apply endIssued_memOk
    | apply State.store_memOk
    | (refine State.store_memOk_eq (by assumption) ?_)
    | apply State.released_memOk
    | split
    | simp only [memOk_mk]
    | apply memOk_fold
theorem execMax_memOk {l : Bool} {d : BitVec 8} {a : BitVec 8} {b : BitVec 8} {s : State} {t_ : State} (e : (execMax l d a b s) = .next t_) (h4 : MemOk p0 s) :
    MemOk p0 t_ := by
  unfold execMax at e
  injection e with e
  subst e
  with_reducible repeat' first
    | assumption
    | intro _
    | apply State.int2_memOk
    | split
    | simp only [memOk_mk]
    | apply memOk_fold
theorem execAttestationReport_memOk {s : State} {t_ : State} (e : (execAttestationReport s) = .next t_) (h0 : MemOk p0 s) :
    MemOk p0 t_ := by
  unfold execAttestationReport at e
  injection e with e
  subst e
  with_reducible repeat' first
    | assumption
    | intro _
    | apply State.deliver_memOk
    | apply State.endRequest_memOk
    | split
    | simp only [memOk_mk]
    | apply memOk_fold
theorem execLaunch_memOk {l : Bool} {d : BitVec 8} {a : BitVec 8} {scope : BitVec 3} {s : State} {t_ : State} (e : (execLaunch l d a scope s) = .next t_) (h4 : MemOk p0 s) :
    MemOk p0 t_ := by
  unfold execLaunch at e
  injection e with e
  subst e
  with_reducible repeat' first
    | assumption
    | intro _
    | apply State.checked_memOk
    | apply State.released_memOk
    | apply State.askLaunch_memOk
    | split
    | simp only [memOk_mk]
    | apply memOk_fold
theorem execRowxor_memOk {l : Bool} {d : BitVec 8} {a : BitVec 8} {b : BitVec 5} {s : State} {t_ : State} (e : (execRowxor l d a b s) = .next t_) (h4 : MemOk p0 s) :
    MemOk p0 t_ := by
  unfold execRowxor at e
  injection e with e
  subst e
  with_reducible repeat' first
    | assumption
    | intro _
    | apply State.issueEngine_memOk
    | split
    | simp only [memOk_mk]
    | apply memOk_fold
theorem execSignedReading_memOk {vf : Nat} {s : State} {t_ : State} (e : (execSignedReading vf s) = .next t_) (h1 : MemOk p0 s) :
    MemOk p0 t_ := by
  unfold execSignedReading at e
  injection e with e
  subst e
  with_reducible repeat' first
    | assumption
    | intro _
    | apply State.free_memOk
    | (refine State.free_memOk_eq (by assumption) ?_)
    | apply State.endReading_memOk
    | apply State.signReading_memOk
    | (refine State.signReading_memOk_eq (by assumption) ?_)
    | (refine State.writeVa_memOk (by assumption) ?_)
    | split
    | simp only [memOk_mk]
    | apply memOk_fold
theorem execResult_memOk {port : Nat} {f : Sys2Proof.Flit} {s : State} {t_ : State} (e : (execResult port f s) = .next t_) (h2 : MemOk p0 s) :
    MemOk p0 t_ := by
  unfold execResult at e
  injection e with e
  subst e
  with_reducible repeat' first
    | assumption
    | intro _
    | apply State.takeFlit_memOk
    | apply State.dropFlit_memOk
    | apply State.serveResult_memOk
    | split
    | simp only [memOk_mk]
    | apply memOk_fold
theorem execReduxAdd_memOk {l : Bool} {d : BitVec 8} {a : BitVec 8} {s : State} {t_ : State} (e : (execReduxAdd l d a s) = .next t_) (h3 : MemOk p0 s) :
    MemOk p0 t_ := by
  unfold execReduxAdd at e
  injection e with e
  subst e
  with_reducible repeat' first
    | assumption
    | intro _
    | apply State.redux_memOk
    | apply memOk_foldl
    | apply memOk_foldl2
    | split
    | simp only [memOk_mk]
    | apply memOk_fold
theorem execFneg_memOk {l : Bool} {d : BitVec 8} {a : BitVec 8} {s : State} {t_ : State} (e : (execFneg l d a s) = .next t_) (h3 : MemOk p0 s) :
    MemOk p0 t_ := by
  unfold execFneg at e
  injection e with e
  subst e
  with_reducible repeat' first
    | assumption
    | intro _
    | apply State.compute_memOk
    | split
    | simp only [memOk_mk]
    | apply memOk_fold
theorem execRdsp_memOk {d : BitVec 8} {f : BitVec 8} {s : State} {t_ : State} (e : (execRdsp d f s) = .next t_) (h2 : MemOk p0 s) :
    MemOk p0 t_ := by
  unfold execRdsp at e
  injection e with e
  subst e
  with_reducible repeat' first
    | assumption
    | intro _
    | apply State.computeAs_memOk
    | split
    | simp only [memOk_mk]
    | apply memOk_fold
theorem execSlotRetry_memOk {handle : Nat} {node : Nat} {s : State} {t_ : State} (e : (execSlotRetry handle node s) = .next t_) (h2 : MemOk p0 s) :
    MemOk p0 t_ := by
  unfold execSlotRetry at e
  injection e with e
  subst e
  with_reducible repeat' first
    | assumption
    | intro _
    | apply State.settleSlots_memOk
    | apply State.modRun_memOk
    | apply State.askSlot_memOk
    | apply memOk_foldl
    | apply memOk_foldl2
    | split
    | simp only [memOk_mk]
    | apply memOk_fold
theorem execPartitionDelete_memOk {s : State} {t_ : State} (e : (execPartitionDelete s) = .next t_) (h0 : MemOk p0 s) :
    MemOk p0 t_ := by
  unfold execPartitionDelete at e
  injection e with e
  subst e
  with_reducible repeat' first
    | assumption
    | intro _
    | apply State.requestRefused_memOk
    | apply State.requestDone_memOk
    | apply State.dropPart_memOk
    | split
    | simp only [memOk_mk]
    | apply memOk_fold
theorem execLdi_memOk {d : BitVec 8} {imm : BitVec 16} {s : State} {t_ : State} (e : (execLdi d imm s) = .next t_) (h2 : MemOk p0 s) :
    MemOk p0 t_ := by
  unfold execLdi at e
  injection e with e
  subst e
  with_reducible repeat' first
    | assumption
    | intro _
    | apply State.computeAs_memOk
    | split
    | simp only [memOk_mk]
    | apply memOk_fold
theorem execMand_memOk {l : Bool} {a : BitVec 8} {s : State} {t_ : State} (e : (execMand l a s) = .next t_) (h2 : MemOk p0 s) :
    MemOk p0 t_ := by
  unfold execMand at e
  injection e with e
  subst e
  with_reducible repeat' first
    | assumption
    | intro _
    | apply State.maskFrom_memOk
    | split
    | simp only [memOk_mk]
    | apply memOk_fold
theorem State.farBase_memOk (d : Domain) (a : SnapAsk) {s : State} (h2 : MemOk p0 s) :
    MemOk p0 (State.farBase d a s).2 := by
  unfold State.farBase
  with_reducible repeat' first
    | assumption
    | intro _
    | apply State.free_memOk
    | (refine State.free_memOk_eq (by assumption) ?_)
    | split
    | simp only [memOk_mk]
    | apply memOk_fold
theorem State.farBase_memOk_eq {d : Domain} {a : SnapAsk} {s : State} {o_ t_} (e : (State.farBase d a s) = (o_, t_)) (h2 : MemOk p0 s) :
    MemOk p0 t_ := by
  have := State.farBase_memOk d a h2
  rwa [e] at this
theorem execSnapshotStartRequest_memOk {dom : Nat} {s : State} {t_ : State} (e : (execSnapshotStartRequest dom s) = .next t_) (h1 : MemOk p0 s) :
    MemOk p0 t_ := by
  unfold execSnapshotStartRequest at e
  injection e with e
  subst e
  with_reducible repeat' first
    | assumption
    | intro _
    | apply State.farBase_memOk
    | (refine State.farBase_memOk_eq (by assumption) ?_)
    | apply State.modDomain_memOk
    | apply State.endCmd_memOk
    | apply State.setAlloc_memOk
    | apply State.post_memOk
    | split
    | simp only [memOk_mk]
    | apply memOk_fold
theorem execFrcp_memOk {l : Bool} {d : BitVec 8} {a : BitVec 8} {s : State} {t_ : State} (e : (execFrcp l d a s) = .next t_) (h3 : MemOk p0 s) :
    MemOk p0 t_ := by
  unfold execFrcp at e
  injection e with e
  subst e
  with_reducible repeat' first
    | assumption
    | intro _
    | apply State.float1_memOk
    | split
    | simp only [memOk_mk]
    | apply memOk_fold
theorem execTagResetDone_memOk {dom : Nat} {die : Nat} {col : Bool} {s : State} {t_ : State} (e : (execTagResetDone dom die col s) = .next t_) (h3 : MemOk p0 s) :
    MemOk p0 t_ := by
  unfold execTagResetDone at e
  injection e with e
  subst e
  with_reducible repeat' first
    | assumption
    | intro _
    | apply State.setDie_memOk
    | split
    | simp only [memOk_mk]
    | apply memOk_fold
theorem State.readMgmt_memOk {s : State} (h0 : MemOk p0 s) :
    MemOk p0 (State.readMgmt s) := by
  unfold State.readMgmt
  with_reducible repeat' first
    | assumption
    | intro _
    | apply State.serveNext_memOk
    | split
    | simp only [memOk_mk]
    | apply memOk_fold
theorem State.writeMgmt_memOk (off : Nat) (value : Nat) {s : State} (h2 : MemOk p0 s) :
    MemOk p0 (State.writeMgmt off value s) := by
  unfold State.writeMgmt
  with_reducible repeat' first
    | assumption
    | intro _
    | apply State.readMgmt_memOk
    | apply State.setMgmt_memOk
    | split
    | simp only [memOk_mk]
    | apply memOk_fold
theorem execRegisterWrite_memOk {reg : Sys2Proof.RegName} {value : Nat} {s : State} {t_ : State} (e : (execRegisterWrite reg value s) = .next t_) (h2 : MemOk p0 s) :
    MemOk p0 t_ := by
  unfold execRegisterWrite at e
  injection e with e
  subst e
  with_reducible repeat' first
    | assumption
    | intro _
    | apply State.writePage_memOk
    | apply State.writeMgmt_memOk
    | apply State.sendWaiting_memOk
    | apply State.modPort_memOk
    | split
    | simp only [memOk_mk]
    | apply memOk_fold
theorem execGuard_memOk {l : Bool} {a : BitVec 8} {s : State} {t_ : State} (e : (execGuard l a s) = .next t_) (h2 : MemOk p0 s) :
    MemOk p0 t_ := by
  unfold execGuard at e
  injection e with e
  subst e
  with_reducible repeat' first
    | assumption
    | intro _
    | apply State.guard_memOk
    | split
    | simp only [memOk_mk]
    | apply memOk_fold
theorem execBrev_memOk {l : Bool} {d : BitVec 8} {a : BitVec 8} {s : State} {t_ : State} (e : (execBrev l d a s) = .next t_) (h3 : MemOk p0 s) :
    MemOk p0 t_ := by
  unfold execBrev at e
  injection e with e
  subst e
  with_reducible repeat' first
    | assumption
    | intro _
    | apply State.compute_memOk
    | split
    | simp only [memOk_mk]
    | apply memOk_fold
theorem execErd_memOk {l : Bool} {d : BitVec 8} {a : BitVec 8} {b : BitVec 5} {s : State} {t_ : State} (e : (execErd l d a b s) = .next t_) (h4 : MemOk p0 s) :
    MemOk p0 t_ := by
  unfold execErd at e
  injection e with e
  subst e
  with_reducible repeat' first
    | assumption
    | intro _
    | apply State.issueEngine_memOk
    | split
    | simp only [memOk_mk]
    | apply memOk_fold
theorem execMode_memOk {imm : BitVec 16} {s : State} {t_ : State} (e : (execMode imm s) = .next t_) (h1 : MemOk p0 s) :
    MemOk p0 t_ := by
  unfold execMode at e
  injection e with e
  subst e
  with_reducible repeat' first
    | assumption
    | intro _
    | apply State.endWord_memOk
    | apply State.modGg_memOk
    | split
    | simp only [memOk_mk]
    | apply memOk_fold
theorem execVoteEq_memOk {l : Bool} {d : BitVec 8} {a : BitVec 8} {s : State} {t_ : State} (e : (execVoteEq l d a s) = .next t_) (h3 : MemOk p0 s) :
    MemOk p0 t_ := by
  unfold execVoteEq at e
  injection e with e
  subst e
  with_reducible repeat' first
    | assumption
    | intro _
    | apply State.vote_memOk
    | split
    | simp only [memOk_mk]
    | apply memOk_fold
theorem execShl_memOk {l : Bool} {d : BitVec 8} {a : BitVec 8} {b : BitVec 8} {s : State} {t_ : State} (e : (execShl l d a b s) = .next t_) (h4 : MemOk p0 s) :
    MemOk p0 t_ := by
  unfold execShl at e
  injection e with e
  subst e
  with_reducible repeat' first
    | assumption
    | intro _
    | apply State.intAs2_memOk
    | split
    | simp only [memOk_mk]
    | apply memOk_fold
theorem execColSweepUnit_memOk {dom : Nat} {die : Nat} {col : Bool} {s : State} {t_ : State} (e : (execColSweepUnit dom die col s) = .next t_) (h3 : MemOk p0 s) :
    MemOk p0 t_ := by
  unfold execColSweepUnit at e
  injection e with e
  subst e
  with_reducible repeat' first
    | assumption
    | intro _
    | apply State.modDieCol_memOk
    | apply State.tryTrailer_memOk
    | apply State.visit_memOk
    | split
    | simp only [memOk_mk]
    | apply memOk_fold
theorem State.takeCharges_memOk {s : State} (h0 : MemOk p0 s) :
    MemOk p0 (State.takeCharges s) := by
  unfold State.takeCharges
  with_reducible repeat' first
    | assumption
    | intro _
    | apply State.addCharges_memOk
    | apply memOk_foldl
    | apply memOk_foldl2
    | split
    | simp only [memOk_mk]
    | apply memOk_fold
theorem execWarmReset_memOk {s : State} {t_ : State} (e : (execWarmReset s) = .next t_) (h0 : MemOk p0 s) :
    MemOk p0 t_ := by
  unfold execWarmReset at e
  injection e with e
  subst e
  with_reducible repeat' first
    | assumption
    | intro _
    | apply State.post_memOk
    | apply State.bringUp_memOk
    | apply State.survivors_memOk
    | apply State.activate_memOk
    | apply State.writeMirror_memOk
    | apply State.takeCharges_memOk
    | split
    | simp only [memOk_mk]
    | apply memOk_fold
theorem execRfwd_memOk {l : Bool} {d : BitVec 8} {a : BitVec 8} {b : BitVec 5} {s : State} {t_ : State} (e : (execRfwd l d a b s) = .next t_) (h4 : MemOk p0 s) :
    MemOk p0 t_ := by
  unfold execRfwd at e
  injection e with e
  subst e
  with_reducible repeat' first
    | assumption
    | intro _
    | apply State.issueEngine_memOk
    | split
    | simp only [memOk_mk]
    | apply memOk_fold
theorem execFdivs_memOk {l : Bool} {d : BitVec 8} {a : BitVec 8} {b : BitVec 8} {s : State} {t_ : State} (e : (execFdivs l d a b s) = .next t_) (h4 : MemOk p0 s) :
    MemOk p0 t_ := by
  unfold execFdivs at e
  injection e with e
  subst e
  with_reducible repeat' first
    | assumption
    | intro _
    | apply State.float2_memOk
    | split
    | simp only [memOk_mk]
    | apply memOk_fold
theorem execLinkKeyWrite_memOk {s : State} {t_ : State} (e : (execLinkKeyWrite s) = .next t_) (h0 : MemOk p0 s) :
    MemOk p0 t_ := by
  unfold execLinkKeyWrite at e
  injection e with e
  subst e
  with_reducible repeat' first
    | assumption
    | intro _
    | apply State.requestDone_memOk
    | apply State.sendWaiting_memOk
    | apply State.modPort_memOk
    | apply State.requestRefused_memOk
    | split
    | simp only [memOk_mk]
    | apply memOk_fold
theorem execRot_memOk {l : Bool} {d : BitVec 8} {a : BitVec 8} {b : BitVec 8} {s : State} {t_ : State} (e : (execRot l d a b s) = .next t_) (h4 : MemOk p0 s) :
    MemOk p0 t_ := by
  unfold execRot at e
  injection e with e
  subst e
  with_reducible repeat' first
    | assumption
    | intro _
    | apply State.intAs2_memOk
    | split
    | simp only [memOk_mk]
    | apply memOk_fold
theorem execXcp_memOk {l : Bool} {d : BitVec 8} {a : BitVec 8} {b : BitVec 5} {s : State} {t_ : State} (e : (execXcp l d a b s) = .next t_) (h4 : MemOk p0 s) :
    MemOk p0 t_ := by
  unfold execXcp at e
  injection e with e
  subst e
  with_reducible repeat' first
    | assumption
    | intro _
    | apply State.issueEngine_memOk
    | split
    | simp only [memOk_mk]
    | apply memOk_fold
theorem execRet_memOk {s : State} {t_ : State} (e : (execRet s) = .next t_) (h0 : MemOk p0 s) :
    MemOk p0 t_ := by
  unfold execRet at e
  injection e with e
  subst e
  with_reducible repeat' first
    | assumption
    | intro _
    | apply State.checked_memOk
    | apply State.transferWith_memOk
    | split
    | simp only [memOk_mk]
    | apply memOk_fold
theorem execBnzm_memOk {o : BitVec 16} {s : State} {t_ : State} (e : (execBnzm o s) = .next t_) (h1 : MemOk p0 s) :
    MemOk p0 t_ := by
  unfold execBnzm at e
  injection e with e
  subst e
  with_reducible repeat' first
    | assumption
    | intro _
    | apply State.transfer_memOk
    | split
    | simp only [memOk_mk]
    | apply memOk_fold
theorem execTrap_memOk {code : BitVec 8} {s : State} {t_ : State} (e : (execTrap code s) = .next t_) (h1 : MemOk p0 s) :
    MemOk p0 t_ := by
  unfold execTrap at e
  injection e with e
  subst e
  with_reducible repeat' first
    | assumption
    | intro _
    | apply State.stopCtx_memOk
    | apply State.modCx_memOk
    | apply State.modGg_memOk
    | apply State.endWord_memOk
    | split
    | simp only [memOk_mk]
    | apply memOk_fold
theorem execCredit_memOk {port : Nat} {f : Sys2Proof.Flit} {s : State} {t_ : State} (e : (execCredit port f s) = .next t_) (h2 : MemOk p0 s) :
    MemOk p0 t_ := by
  unfold execCredit at e
  injection e with e
  subst e
  with_reducible repeat' first
    | assumption
    | intro _
    | apply State.takeFlit_memOk
    | apply State.post_memOk
    | apply State.modPort_memOk
    | apply memOk_foldl
    | apply memOk_foldl2
    | apply memOk_id
    | split
    | simp only [memOk_mk]
    | apply memOk_fold
theorem execPolicyHookAnswer_memOk {h : Sys2Proof.Hook} {answer : Nat} {s : State} {t_ : State} (e : (execPolicyHookAnswer h answer s) = .next t_) (h2 : MemOk p0 s) :
    MemOk p0 t_ := by
  unfold execPolicyHookAnswer at e
  injection e with e
  subst e
  with_reducible repeat' first
    | assumption
    | intro _
    | apply State.actHook_memOk
    | apply State.defaultHook_memOk
    | split
    | simp only [memOk_mk]
    | apply memOk_fold
theorem execReduxScanadd_memOk {l : Bool} {d : BitVec 8} {a : BitVec 8} {s : State} {t_ : State} (e : (execReduxScanadd l d a s) = .next t_) (h3 : MemOk p0 s) :
    MemOk p0 t_ := by
  unfold execReduxScanadd at e
  injection e with e
  subst e
  with_reducible repeat' first
    | assumption
    | intro _
    | apply State.redux_memOk
    | split
    | simp only [memOk_mk]
    | apply memOk_fold
theorem exec_memOk {i : Instr} {s t_ : State} (e : exec i s = .next t_) (h : MemOk p0 s) : MemOk p0 t_ := by
  cases i with
  | clauseHeader wait fa fb len => exact execClauseHeader_memOk (_len := len) e h
  | nop => exact execNop_memOk e h
  | mode imm => exact execMode_memOk e h
  | guard l a => exact execGuard_memOk e h
  | guardInverted l a => exact execGuardInverted_memOk e h
  | guardOff => exact execGuardOff_memOk e h
  | stage a n => exact execStage_memOk e h
  | msave d => exact execMsave_memOk e h
  | mload l a => exact execMload_memOk e h
  | mand l a => exact execMand_memOk e h
  | mandn l a => exact execMandn_memOk e h
  | mor l a => exact execMor_memOk e h
  | mset => exact execMset_memOk e h
  | mpop d => exact execMpop_memOk e h
  | mfirst d => exact execMfirst_memOk e h
  | bra o => exact execBra_memOk e h
  | call o => exact execCall_memOk e h
  | ret => exact execRet_memOk e h
  | bzm o => exact execBzm_memOk e h
  | bnzm o => exact execBnzm_memOk e h
  | bany l c o => exact execBany_memOk e h
  | ball l c o => exact execBall_memOk e h
  | jtx l x t => exact execJtx_memOk e h
  | regang t => exact execRegang_memOk e h
  | exit => exact execExit_memOk e h
  | yield => exact execYield_memOk e h
  | yieldRegroup => exact execYieldRegroup_memOk e h
  | compactionGatheringLimit ctx unit => exact execCompactionGatheringLimit_memOk e h
  | quantumExpiry ctx gang => exact execQuantumExpiry_memOk e h
  | add l d a b => exact execAdd_memOk e h
  | sub l d a b => exact execSub_memOk e h
  | mul l d a b => exact execMul_memOk e h
  | mulhi l d a b => exact execMulhi_memOk e h
  | mad l d a b => exact execMad_memOk e h
  | madw l d a b => exact execMadw_memOk e h
  | addc l d a b => exact execAddc_memOk e h
  | subb l d a b => exact execSubb_memOk e h
  | min l d a b => exact execMin_memOk e h
  | max l d a b => exact execMax_memOk e h
  | abs l d a => exact execAbs_memOk e h
  | neg l d a => exact execNeg_memOk e h
  | and l d a b => exact execAnd_memOk e h
  | or l d a b => exact execOr_memOk e h
  | xor l d a b => exact execXor_memOk e h
  | not l d a => exact execNot_memOk e h
  | shl l d a b => exact execShl_memOk e h
  | shr l d a b => exact execShr_memOk e h
  | sar l d a b => exact execSar_memOk e h
  | rot l d a b => exact execRot_memOk e h
  | clz l d a => exact execClz_memOk e h
  | popc l d a => exact execPopc_memOk e h
  | brev l d a => exact execBrev_memOk e h
  | bfe l d a b => exact execBfe_memOk e h
  | bfi l d a b => exact execBfi_memOk e h
  | sel l d a b => exact execSel_memOk e h
  | cmp l d a b => exact execCmp_memOk e h
  | mov l d a => exact execMov_memOk e h
  | movW8 l d a => exact execMovW8_memOk e h
  | ldi d imm => exact execLdi_memOk e h
  | ldih d imm => exact execLdih_memOk e h
  | fadd l d a b => exact execFadd_memOk e h
  | fsub l d a b => exact execFsub_memOk e h
  | fmul l d a b => exact execFmul_memOk e h
  | ffma l d a b => exact execFfma_memOk e h
  | fmin l d a b => exact execFmin_memOk e h
  | fmax l d a b => exact execFmax_memOk e h
  | fabs l d a => exact execFabs_memOk e h
  | fneg l d a => exact execFneg_memOk e h
  | fcmp l d a b => exact execFcmp_memOk e h
  | fclass l d a => exact execFclass_memOk e h
  | fsqrt l d a => exact execFsqrt_memOk e h
  | frcp l d a => exact execFrcp_memOk e h
  | frsq l d a => exact execFrsq_memOk e h
  | fexp2 l d a => exact execFexp2_memOk e h
  | flog2 l d a => exact execFlog2_memOk e h
  | fsin l d a => exact execFsin_memOk e h
  | fcos l d a => exact execFcos_memOk e h
  | fdivs l d a b => exact execFdivs_memOk e h
  | cvt l d a src dst => exact execCvt_memOk e h
  | pack2 l d a b => exact execPack2_memOk e h
  | shfl l d a b => exact execShfl_memOk e h
  | shflup l d a b => exact execShflup_memOk e h
  | shfldn l d a b => exact execShfldn_memOk e h
  | shflx l d a b => exact execShflx_memOk e h
  | voteAny l d a => exact execVoteAny_memOk e h
  | voteAll l d a => exact execVoteAll_memOk e h
  | voteBallot l d a => exact execVoteBallot_memOk e h
  | voteEq l d a => exact execVoteEq_memOk e h
  | reduxAdd l d a => exact execReduxAdd_memOk e h
  | reduxMin l d a => exact execReduxMin_memOk e h
  | reduxMax l d a => exact execReduxMax_memOk e h
  | reduxAnd l d a => exact execReduxAnd_memOk e h
  | reduxOr l d a => exact execReduxOr_memOk e h
  | reduxXor l d a => exact execReduxXor_memOk e h
  | reduxFadd l d a => exact execReduxFadd_memOk e h
  | reduxFmin l d a => exact execReduxFmin_memOk e h
  | reduxFmax l d a => exact execReduxFmax_memOk e h
  | reduxScanadd l d a => exact execReduxScanadd_memOk e h
  | reduxEscanadd l d a => exact execReduxEscanadd_memOk e h
  | bcast l d a b => exact execBcast_memOk e h
  | rdsp d f => exact execRdsp_memOk e h
  | ld l d a sem scope size => exact execLd_memOk e h
  | st l d a sem scope size => exact execSt_memOk e h
  | lds l d a sem size => exact execLds_memOk e h
  | sts l d a sem size => exact execSts_memOk e h
  | ldc l d a size => exact execLdc_memOk e h
  | atom l d a sem scope z => exact execAtom_memOk e h
  | atomnr l d a sem scope z => exact execAtomnr_memOk e h
  | cas l d a sem scope z => exact execCas_memOk e h
  | fence sem scope => exact execFence_memOk e h
  | pfence paths scope => exact execPfence_memOk e h
  | monitor l a => exact execMonitor_memOk e h
  | mwait => exact execMwait_memOk e h
  | mwaitWake ctx gang sub => exact execMwaitWake_memOk e h
  | pref l lev a => exact execPref_memOk e h
  | cctlInv l a => exact execCctlInv_memOk e h
  | cctlWb l a => exact execCctlWb_memOk e h
  | cctlInvl1 => exact execCctlInvl1_memOk e h
  | loadCompletion ctx gang access => exact execLoadCompletion_memOk e h
  | storeAcknowledgement ctx gang access => exact execStoreAcknowledgement_memOk e h
  | barinit l x y b => exact execBarinit_memOk e h
  | bararr b => exact execBararr_memOk e h
  | barwait x b => exact execBarwait_memOk e h
  | barrierWaitReturn ctx gang sub => exact execBarrierWaitReturn_memOk e h
  | bartest x b => exact execBartest_memOk e h
  | sbarInit l x y scope => exact execSbarInit_memOk e h
  | sbarArr l x scope => exact execSbarArr_memOk e h
  | sbarWait l x y scope => exact execSbarWait_memOk e h
  | sbarTest l x y scope => exact execSbarTest_memOk e h
  | sbarFin l x scope => exact execSbarFin_memOk e h
  | barrierTimeout ctx watch => exact execBarrierTimeout_memOk e h
  | launch l d a scope => exact execLaunch_memOk e h
  | launchAnswer request => exact execLaunchAnswer_memOk e h
  | sysr x r => exact execSysr_memOk e h
  | sysw l x r => exact execSysw_memOk (r := r) e h
  | trap code => exact execTrap_memOk e h
  | mma l d a b => exact execMma_memOk e h
  | mmag l d a b => exact execMmag_memOk e h
  | maccFill l d a b => exact execMaccFill_memOk e h
  | maccLoad l d a b => exact execMaccLoad_memOk e h
  | maccCopy l d a b => exact execMaccCopy_memOk e h
  | mst l d a b => exact execMst_memOk e h
  | mpair l d a b => exact execMpair_memOk e h
  | pairFormationTimeout core => exact execPairFormationTimeout_memOk e h
  | mrel l d a b => exact execMrel_memOk e h
  | rfwd l d a b => exact execRfwd_memOk e h
  | rmma l d a b => exact execRmma_memOk e h
  | rrev l d a b => exact execRrev_memOk e h
  | rchk l d a b => exact execRchk_memOk e h
  | rscl l d a b => exact execRscl_memOk e h
  | xcp l d a b => exact execXcp_memOk e h
  | xcpr l d a b => exact execXcpr_memOk e h
  | xexp l d a b => exact execXexp_memOk e h
  | xpack l d a b => exact execXpack_memOk e h
  | xcan l d a b => exact execXcan_memOk e h
  | rowcpy l d a b => exact execRowcpy_memOk e h
  | rowfill l d a b => exact execRowfill_memOk e h
  | rowand l d a b => exact execRowand_memOk e h
  | rowor l d a b => exact execRowor_memOk e h
  | rowxor l d a b => exact execRowxor_memOk e h
  | rownot l d a b => exact execRownot_memOk e h
  | rowq l d a b => exact execRowq_memOk e h
  | snap l d a b => exact execSnap_memOk e h
  | snapq l d a b => exact execSnapq_memOk e h
  | snaprel l d a b => exact execSnaprel_memOk e h
  | cgrun l d a b => exact execCgrun_memOk e h
  | grun l d a b => exact execGrun_memOk e h
  | erd l d a b => exact execErd_memOk e h
  | ringStallEnd ctx gang sub => exact execRingStallEnd_memOk e h
  | engineCommandStart cmd => exact execEngineCommandStart_memOk e h
  | commandCompletion cmd => exact execCommandCompletion_memOk e h
  | destinationArrival cmd => exact execDestinationArrival_memOk e h
  | remoteCompletion cmd => exact execRemoteCompletion_memOk e h
  | workgroupRetire ctx => exact execWorkgroupRetire_memOk e h
  | preemptionRequest ctx => exact execPreemptionRequest_memOk e h
  | imageSeal ctx => exact execImageSeal_memOk e h
  | snapshotStartRequest dom => exact execSnapshotStartRequest_memOk e h
  | colourGrant dom die col => exact execColourGrant_memOk e h
  | dieStateReport dom die col => exact execDieStateReport_memOk e h
  | allocatorStateNotice dom die col => exact execAllocatorStateNotice_memOk e h
  | stagingBufferRoom die => exact execStagingBufferRoom_memOk e h
  | colStagingDrain die => exact execColStagingDrain_memOk e h
  | colSweepUnit dom die col => exact execColSweepUnit_memOk e h
  | tierWriteFailure dom col => exact execTierWriteFailure_memOk e h
  | channelCloseLimit dom col => exact execChannelCloseLimit_memOk e h
  | tagResetDone dom die col => exact execTagResetDone_memOk e h
  | snapshotMarker die chan m => exact execSnapshotMarker_memOk e h
  | write port f => exact execWrite_memOk e h
  | readRequest port f => exact execReadRequest_memOk e h
  | readResponse port f => exact execReadResponse_memOk e h
  | atomic port f => exact execAtomic_memOk e h
  | atomicResponse port f => exact execAtomicResponse_memOk e h
  | writeAcknowledgement port f => exact execWriteAcknowledgement_memOk e h
  | barrierArrival port f => exact execBarrierArrival_memOk e h
  | teardownMarker port f => exact execTeardownMarker_memOk e h
  | teardownAcknowledgement port f => exact execTeardownAcknowledgement_memOk e h
  | graphDecrement port f => exact execGraphDecrement_memOk e h
  | slotRequest plane f => exact execSlotRequest_memOk e h
  | slotReply port f => exact execSlotReply_memOk e h
  | slotRelease plane f => exact execSlotRelease_memOk e h
  | contribution plane f => exact execContribution_memOk e h
  | result port f => exact execResult_memOk e h
  | reduceWrite port f => exact execReduceWrite_memOk e h
  | keySwitch port f => exact execKeySwitch_memOk e h
  | credit port f => exact execCredit_memOk e h
  | linkAcknowledgement port ackSeq => exact execLinkAcknowledgement_memOk e h
  | linkNak port ackSeq => exact execLinkNak_memOk e h
  | flitSend port => exact execFlitSend_memOk e h
  | keySwitchSend port => exact execKeySwitchSend_memOk e h
  | retrain port => exact execRetrain_memOk e h
  | retrainComplete port => exact execRetrainComplete_memOk e h
  | vfTeardown vf => exact execVfTeardown_memOk e h
  | teardownWaitExpiry vf => exact execTeardownWaitExpiry_memOk e h
  | chunkDispatch => exact execChunkDispatch_memOk e h
  | chunkCompletion handle node => exact execChunkCompletion_memOk e h
  | slotRetry handle node => exact execSlotRetry_memOk e h
  | notify vf => exact execNotify_memOk e h
  | chainEnable vf chain => exact execChainEnable_memOk e h
  | engine vf chain entry => exact execEngine_memOk e h
  | chainLaunch vf chain entry => exact execChainLaunch_memOk e h
  | gload vf chain entry => exact execGload_memOk e h
  | gunload vf chain entry => exact execGunload_memOk e h
  | chainRun vf chain entry => exact execChainRun_memOk e h
  | restore vf chain entry => exact execRestore_memOk e h
  | tinv vf chain entry => exact execTinv_memOk e h
  | cntr vf chain entry => exact execCntr_memOk e h
  | chainEntryCompletion vf chain entry => exact execChainEntryCompletion_memOk e h
  | nodeDispatch => exact execNodeDispatch_memOk e h
  | operatingPointStable die => exact execOperatingPointStable_memOk e h
  | policyHookAnswer k answer => exact execPolicyHookAnswer_memOk e h
  | policyHookTimeout k => exact execPolicyHookTimeout_memOk e h
  | attributionPeriodEnd die charges ctxs => exact execAttributionPeriodEnd_memOk e h
  | periodCharge die => exact execPeriodCharge_memOk e h
  | mirrorWrite => exact execMirrorWrite_memOk e h
  | signedReading vf => exact execSignedReading_memOk e h
  | partitionCreate rec => exact execPartitionCreate_memOk e h
  | partitionDelete => exact execPartitionDelete_memOk e h
  | faultWindowSet => exact execFaultWindowSet_memOk e h
  | firmwareStage => exact execFirmwareStage_memOk e h
  | attestationReport => exact execAttestationReport_memOk e h
  | attestationCertificate => exact execAttestationCertificate_memOk e h
  | warmReset => exact execWarmReset_memOk e h
  | powerLimitSet => exact execPowerLimitSet_memOk e h
  | linkKeyWrite => exact execLinkKeyWrite_memOk e h
  | vfFunctionLevelReset vf => exact execVfFunctionLevelReset_memOk e h
  | coldReset => exact execColdReset_memOk e h
  | unexpectedReset => exact execUnexpectedReset_memOk e h
  | registerWrite reg value => exact execRegisterWrite_memOk e h
  | powerLimitReached => exact execPowerLimitReached_memOk e h
theorem State.rejectCmd_memOk (k : Nat) (code : Nat) {s : State} (h2 : MemOk p0 s) :
    MemOk p0 (State.rejectCmd k code s) := by
  unfold State.rejectCmd
  with_reducible repeat' first
    | assumption
    | intro _
    | apply State.modCmd_memOk
    | split
    | simp only [memOk_mk]
    | apply memOk_fold
theorem State.fromSpire_memOk {s t_ : State} {o_} (e : State.fromSpire s = some (o_, t_)) (h : MemOk p0 s) : MemOk p0 t_ := by
  unfold State.fromSpire at e
  obtain ⟨a, ha⟩ := List.exists_of_findSome?_eq_some e
  simp only [] at ha
  have ha := ha.2
  split at ha
  · split at ha
    · injection ha with ha
      injection ha with h1 h2
      subst h2
      exact h
    · cases ha
  · cases ha
theorem State.pending_memOk {s t_ : State} {o_} (e : State.pending s = some (o_, t_)) (h : MemOk p0 s) : MemOk p0 t_ := by
  unfold State.pending at e
  cases h1 : s.startable with
  | some ev =>
    rw [h1] at e
    cases e
    exact h
  | none =>
    rw [h1] at e
    cases h2 : s.fromSpire with
    | some r =>
      rw [h2] at e
      cases e
      exact State.fromSpire_memOk h2 h
    | none =>
      rw [h2] at e
      cases h3 : s.entryDone with
      | some ev =>
        rw [h3] at e
        cases e
        exact h
      | none =>
        rw [h3] at e
        cases e
theorem State.gangTurn_memOk (c : Nat) (g : Nat) (ups : List Upset) {s : State} (h3 : MemOk p0 s) :
    MemOk p0 (State.gangTurn c g ups s).state := by
  unfold State.gangTurn
  with_reducible repeat' first
    | assumption
    | intro _
    | apply State.prepare_memOk
    | apply memOk_getD
    | split
    | simp only [memOk_mk]
    | apply memOk_fold
theorem State.withFetchWord_memOk {s : State} (nbits : Nat) (w : Nat) (h0 : MemOk p0 s) :
    MemOk p0 (State.withFetchWord s nbits w) := by
  unfold State.withFetchWord
  with_reducible repeat' first
    | assumption
    | intro _
    | apply State.place_memOk
    | split
    | simp only [memOk_mk]
    | apply memOk_fold
theorem State.groupTurn_memOk (run : Sys2Proof.Instr → State → Result) (c : Nat) (j : Nat) (ups : List Upset) {s : State} (h0 : ∀ i t u, MemOk p0 t → run i t = .next u → MemOk p0 u) (h4 : MemOk p0 s) :
    MemOk p0 (State.groupTurn run c j ups s) := by
  unfold State.groupTurn
  with_reducible repeat' first
    | assumption
    | intro _
    | apply State.modCtx_memOk
    | apply State.runGroup_memOk
    | apply State.askCode_memOk
    | apply memOk_getD
    | split
    | simp only [memOk_mk]
    | apply memOk_fold
    | apply h0
theorem State.codeWanted_memOk {s t_ : State} (e : State.codeWanted s = some t_) (h : MemOk p0 s) : MemOk p0 t_ := by
  unfold State.codeWanted at e
  obtain ⟨a, ha⟩ := List.exists_of_findSome?_eq_some e
  have ha := ha.2
  split at ha
  · obtain ⟨b, hb⟩ := List.exists_of_findSome?_eq_some ha
    have hb := hb.2
    split at hb
    · split at hb
      · cases hb
      · cases hb
        exact State.askCode_memOk _ _ _ h
    · cases hb
  · cases ha
theorem State.hadTurn_memOk (i : Nat × Nat) {s : State} (h1 : MemOk p0 s) :
    MemOk p0 (State.hadTurn i s) := by
  unfold State.hadTurn
  with_reducible repeat' first
    | assumption
    | intro _
    | split
    | simp only [memOk_mk]
    | apply memOk_fold
/-- A move whose state keeps the canonical form. -/
def MoveOk (p0 : Nat) : Move → Prop
  | .idle s => MemOk p0 s
  | .happen _ s => MemOk p0 s
  | .word _ _ s => MemOk p0 s
  | .group _ _ s => MemOk p0 s
theorem State.autoMove_memOk {s : State} (h : MemOk p0 s) : MoveOk p0 s.autoMove := by
  unfold State.autoMove
  split
  · exact h
  · split
    · exact State.pending_memOk (by assumption) h
    · split
      · exact State.codeWanted_memOk (by assumption) h
      · split
        · split <;> exact State.hadTurn_memOk _ h
        · split <;> exact h
theorem State.moveOf_memOk (m : Mover) {s : State} (h : MemOk p0 s) : MoveOk p0 (s.moveOf m) := by
  unfold State.moveOf
  split
  · exact State.autoMove_memOk h
  · split
    · exact State.hadTurn_memOk _ h
    · exact h
  · split
    · exact State.hadTurn_memOk _ h
    · exact h
  · split <;> exact h
  · split <;> exact h
  · exact State.surroundings_memOk _ h
theorem State.askFront_memOk {s : State} (loc : Nat) (h0 : MemOk p0 s) :
    MemOk p0 (State.askFront s loc) := by
  unfold State.askFront
  with_reducible repeat' first
    | assumption
    | intro _
    | apply State.requestOrWait_memOk
    | apply State.takeFront_memOk
    | split
    | simp only [memOk_mk]
    | apply memOk_fold
theorem State.openFront_memOk (ev : Sys2Proof.Instr) {s : State} (h1 : MemOk p0 s) :
    MemOk p0 (State.openFront ev s) := by
  unfold State.openFront
  with_reducible repeat' first
    | assumption
    | intro _
    | split
    | simp only [memOk_mk]
    | apply memOk_fold
theorem State.settleFront_memOk (ev : Sys2Proof.Instr) {s t : State} (h1 : MemOk p0 s) (h2 : MemOk p0 t) :
    MemOk p0 (State.settleFront ev s t) := by
  unfold State.settleFront
  split
  · split
    · exact h2
    · exact h2
  · exact memOk_foldl _ _ (fun u k hu => State.askFront_memOk _ hu) h1
theorem State.runFront_memOk {run : Sys2Proof.Instr → State → Result} {ev : Sys2Proof.Instr} {s t_ : State}
    (e : State.runFront run ev s = .next t_) (hr : ∀ i t u, MemOk p0 t → run i t = .next u → MemOk p0 u) (h : MemOk p0 s) :
    MemOk p0 t_ := by
  unfold State.runFront at e
  split at e
  · rename_i t ht
    cases e
    exact State.settleFront_memOk _ (State.openFront_memOk _ h) (hr _ _ _ (State.openFront_memOk _ h) ht)
  · cases e
  · cases e

end Sys2Proof.Machine
end

