-- ==== Sys2Proof/Laws/Elements.lean ====
section
/-! SUPPORT. Elements of operands (R124), pairs (R125), and the fitting of exact results (R132): what one element of a
joined operand is, and which value a fitted element has. -/

namespace Sys2Proof.Machine

theorem elemWidth_pos (t : Nat) : 0 < elemWidth t := by unfold elemWidth; split <;> decide

theorem two_pow_elemWidth_pos (t : Nat) : 0 < 2 ^ elemWidth t := Nat.two_pow_pos _

/-- The elements fill the operand (Table 5-1). -/
theorem elemWidth_mul_count {t : Nat} (h : t ≤ 10) : elemWidth t * elemCount t = operandWidth t := by
  unfold elemCount operandWidth wide elemWidth
  match t, h with
  | 0, _ | 1, _ | 2, _ | 3, _ | 4, _ | 5, _ | 6, _ | 7, _ | 8, _ | 9, _ | 10, _ => decide
  | n + 11, h => omega

theorem joinElems_lt (w : Nat) (xs : List Nat) : joinElems w xs < 2 ^ (w * xs.length) := by
  induction xs with
  | nil => simp [joinElems]
  | cons a t ih =>
    have h1 : a % 2 ^ w < 2 ^ w := Nat.mod_lt _ (Nat.two_pow_pos _)
    unfold joinElems
    rw [List.length_cons, Nat.mul_succ, Nat.add_comm (w * t.length) w, Nat.pow_add]
    calc a % 2 ^ w + 2 ^ w * joinElems w t < 2 ^ w + 2 ^ w * joinElems w t := by omega
      _ = 2 ^ w * (joinElems w t + 1) := by rw [Nat.mul_succ, Nat.add_comm]
      _ ≤ 2 ^ w * 2 ^ (w * t.length) := Nat.mul_le_mul_left _ ih

theorem joinElems_get (w : Nat) (xs : List Nat) (e : Nat) :
    joinElems w xs / 2 ^ (w * e) % 2 ^ w = nthOr 0 xs e % 2 ^ w := by
  induction xs generalizing e with
  | nil => simp [joinElems, nthOr]
  | cons a t ih =>
    have h1 : a % 2 ^ w < 2 ^ w := Nat.mod_lt _ (Nat.two_pow_pos _)
    unfold joinElems
    cases e with
    | zero =>
      simp only [Nat.mul_zero, Nat.pow_zero, Nat.div_one, Nat.add_mul_mod_self_left, Nat.mod_mod]
      rfl
    | succ e =>
      rw [Nat.mul_succ, Nat.add_comm (w * e) w, Nat.pow_add, ← Nat.div_div_eq_div_mul,
        Nat.add_mul_div_left _ _ (Nat.two_pow_pos _), Nat.div_eq_of_lt h1, Nat.zero_add, ih]
      rfl

/-- An element of what mapElems joins is what the function gives for it (R124). -/
theorem elem_mapElems (t : Nat) (f : Nat → Nat) {e : Nat} (h : e < elemCount t) :
    elem t (mapElems t f) e = f e % 2 ^ elemWidth t := by
  unfold elem mapElems
  rw [joinElems_get]
  congr 1
  simp [nthOr, List.getElem?_map, List.getElem?_range h]

theorem mapElems_lt {t : Nat} (h : t ≤ 10) (f : Nat → Nat) : mapElems t f < 2 ^ operandWidth t := by
  have := joinElems_lt (elemWidth t) ((List.range (elemCount t)).map f)
  simp only [List.length_map, List.length_range] at this
  rwa [elemWidth_mul_count h] at this

/-- A register pair that holds the two halves of a number reads as the number (R74). -/
theorem pair_of_halves {v : Nat} (h : v < 2 ^ 64) :
    (BitVec.ofNat 32 v).toNat + 2 ^ 32 * (BitVec.ofNat 32 (v / 2 ^ 32)).toNat = v := by
  simp only [BitVec.toNat_ofNat]
  omega

theorem wrap_lt (w : Nat) (i : Int) : wrap w i < 2 ^ w := by
  unfold wrap
  have hp : (0 : Int) < ((2 ^ w : Nat) : Int) := by exact_mod_cast Nat.two_pow_pos w
  have := Int.emod_lt_of_pos i hp
  have := Int.emod_nonneg i (Int.ne_of_gt hp)
  omega

theorem wrap_emod (w : Nat) (i : Int) : ((wrap w i : Nat) : Int) = i % ((2 ^ w : Nat) : Int) := by
  unfold wrap
  have hp : (0 : Int) < ((2 ^ w : Nat) : Int) := by exact_mod_cast Nat.two_pow_pos w
  exact Int.toNat_of_nonneg (Int.emod_nonneg i (Int.ne_of_gt hp))

theorem fit_lt (t : Nat) (sat : Bool) (r : Int) : fit t sat r < 2 ^ elemWidth t := wrap_lt _ _

/-- The value of a number of w bits differs from its bits by a multiple of 2^w. -/
theorem signed_emod (w n : Nat) : (signed w n - n) % ((2 ^ w : Nat) : Int) = 0 := by
  unfold signed
  generalize 2 ^ w = W
  have h : ((n % W : Nat) : Int) - n = (W : Int) * -((n / W : Nat) : Int) := by
    have := Nat.div_add_mod n W
    have h2 : (n : Int) = (W : Int) * (n / W : Nat) + (n % W : Nat) := by exact_mod_cast this.symm
    rw [Int.mul_neg]
    omega
  dsimp only
  split
  · have : ((n % W : Nat) : Int) - (W : Int) - n = (W : Int) * (-((n / W : Nat) : Int) - 1) := by
      rw [Int.mul_sub, Int.mul_one]; omega
    rw [this]; exact Int.mul_emod_right _ _
  · rw [h]; exact Int.mul_emod_right _ _

/-- The value of an element differs from its bits by a multiple of 2^w. -/
theorem intValue_emod (t x : Nat) : (intValue t x - x) % ((2 ^ elemWidth t : Nat) : Int) = 0 := by
  unfold intValue
  split
  · exact signed_emod _ _
  · generalize 2 ^ elemWidth t = W
    have := Nat.div_add_mod x W
    have h2 : (x : Int) = (W : Int) * (x / W : Nat) + (x % W : Nat) := by exact_mod_cast this.symm
    have : ((x % W : Nat) : Int) - x = (W : Int) * -((x / W : Nat) : Int) := by rw [Int.mul_neg]; omega
    rw [this]; exact Int.mul_emod_right _ _

/-- The value of an element lies in its type's range (Table 5-1). -/
theorem intValue_range (t x : Nat) : intMin t ≤ intValue t x ∧ intValue t x ≤ intMax t := by
  unfold intValue intMin intMax signed
  obtain ⟨k, hk⟩ : ∃ k, elemWidth t = k + 1 := ⟨elemWidth t - 1, by have := elemWidth_pos t; omega⟩
  rw [hk]
  have h2 : 2 ^ (k + 1) = 2 * 2 ^ k := by rw [Nat.pow_succ, Nat.mul_comm]
  have hm : x % 2 ^ (k + 1) < 2 ^ (k + 1) := Nat.mod_lt _ (Nat.two_pow_pos _)
  rw [h2] at hm ⊢
  simp only [Nat.add_sub_cancel]
  generalize x % (2 * 2 ^ k) = m at hm ⊢
  generalize 2 ^ k = K at hm ⊢
  split
  · split <;> constructor <;> omega
  · constructor <;> omega

/-- Two numbers in a type's range that differ by a multiple of 2^w are one. -/
theorem range_unique {t : Nat} {a b : Int} (ha : intMin t ≤ a ∧ a ≤ intMax t) (hb : intMin t ≤ b ∧ b ≤ intMax t)
    (h : (a - b) % ((2 ^ elemWidth t : Nat) : Int) = 0) : a = b := by
  have hw : intMax t - intMin t < ((2 ^ elemWidth t : Nat) : Int) := by
    unfold intMin intMax
    obtain ⟨k, hk⟩ : ∃ k, elemWidth t = k + 1 := ⟨elemWidth t - 1, by have := elemWidth_pos t; omega⟩
    rw [hk]
    have h2 : 2 ^ (k + 1) = 2 * 2 ^ k := by rw [Nat.pow_succ, Nat.mul_comm]
    rw [h2]
    simp only [Nat.add_sub_cancel]
    have := Nat.two_pow_pos k
    generalize 2 ^ k = K at *
    split <;> omega
  obtain ⟨q, hq⟩ := Int.dvd_of_emod_eq_zero h
  have hp : (0 : Int) < ((2 ^ elemWidth t : Nat) : Int) := by exact_mod_cast Nat.two_pow_pos _
  generalize ((2 ^ elemWidth t : Nat) : Int) = W at *
  have h1 : W * q < W * 1 := by omega
  have h2 : W * (-1) < W * q := by omega
  have := Int.lt_of_mul_lt_mul_left h1 (Int.le_of_lt hp)
  have := Int.lt_of_mul_lt_mul_left h2 (Int.le_of_lt hp)
  have hq0 : q = 0 := by omega
  rw [hq0, Int.mul_zero] at hq
  omega

theorem emod_sub_trans {a b c W : Int} (h1 : (a - b) % W = 0) (h2 : (b - c) % W = 0) : (a - c) % W = 0 := by
  obtain ⟨p, hp⟩ := Int.dvd_of_emod_eq_zero h1
  obtain ⟨q, hq⟩ := Int.dvd_of_emod_eq_zero h2
  have : a - c = W * (p + q) := by rw [Int.mul_add]; omega
  rw [this]; exact Int.mul_emod_right _ _

/-- The value of the low w bits of an exact result differs from it by a multiple of 2^w (R132). -/
theorem intValue_wrap_emod (t : Nat) (r : Int) : (intValue t (wrap (elemWidth t) r) - r) % ((2 ^ elemWidth t : Nat) : Int) = 0 := by
  have h1 := intValue_emod t (wrap (elemWidth t) r)
  rw [wrap_emod] at h1
  have h2 : (r % ((2 ^ elemWidth t : Nat) : Int) - r) % ((2 ^ elemWidth t : Nat) : Int) = 0 := by
    have := Int.emod_add_mul_ediv r ((2 ^ elemWidth t : Nat) : Int)
    have h3 : r % ((2 ^ elemWidth t : Nat) : Int) - r = ((2 ^ elemWidth t : Nat) : Int) * -(r / ((2 ^ elemWidth t : Nat) : Int)) := by
      rw [Int.mul_neg]; omega
    rw [h3]; exact Int.mul_emod_right _ _
  exact emod_sub_trans h1 h2

/-- A result in the range is represented as it is (R132). -/
theorem intValue_wrap_of_range {t : Nat} {r : Int} (h : intMin t ≤ r ∧ r ≤ intMax t) :
    intValue t (wrap (elemWidth t) r) = r :=
  range_unique (intValue_range _ _) h (intValue_wrap_emod t r)

theorem clamp_range (t : Nat) (r : Int) : intMin t ≤ clamp (intMin t) (intMax t) r ∧ clamp (intMin t) (intMax t) r ≤ intMax t := by
  have h : intMin t ≤ intMax t := Int.le_trans (intValue_range t 0).1 (intValue_range t 0).2
  unfold clamp
  split
  · exact ⟨Int.le_refl _, h⟩
  · split <;> constructor <;> omega

/-- A saturated result is the nearest value of the range; any other differs from the exact one by a multiple of 2^w
(R132). -/
theorem intValue_fit (t : Nat) (sat : Bool) (r : Int) :
    (sat = true → intValue t (fit t sat r) = clamp (intMin t) (intMax t) r) ∧
    (sat = false → (intValue t (fit t sat r) - r) % ((2 ^ elemWidth t : Nat) : Int) = 0) := by
  constructor <;> intro h <;> subst h <;> unfold fit
  · exact intValue_wrap_of_range (clamp_range t r)
  · exact intValue_wrap_emod t r

end Sys2Proof.Machine
end

