-- ==== Sys2Proof/Laws/Memory.lean ====
section
/-! SUPPORT. What a write at a home does, said once: the bytes of its segments change and no other byte of package memory
or of the memory behind the ports (R173, R197), whatever snapshots save before it (R328) and caches or watches do after
it (R174, R193). -/

namespace Sys2Proof.Machine

/-- A byte outside every segment reads as before. -/
theorem get_putSegs_out (gs : List Seg) (m : Memory) (a : Nat) (h : ∀ g ∈ gs, a < g.at_ ∨ g.stop ≤ a) :
    (putSegs gs m).get a = m.get a := by
  induction gs generalizing m with
  | nil => rfl
  | cons g gs ih =>
    simp only [putSegs, List.foldl_cons] at ih ⊢
    rw [ih _ (fun k hk => h k (by simp [hk])), Memory.get_putBytes_out]
    exact h g (by simp)

/-- The bytes of one segment read as written. -/
theorem bytes_putSegs_one (g : Seg) (m : Memory) : (putSegs [g] m).bytes g.at_ g.bytes.length = g.bytes :=
  Memory.bytes_putBytes g.bytes g.at_ m

theorem wf_putSegs (gs : List Seg) {m : Memory} (h : m.wf = true) : (putSegs gs m).wf = true := by
  induction gs generalizing m with
  | nil => exact h
  | cons g gs ih => exact ih (Memory.wf_putBytes _ _ h)

/-- Both memories of a state. -/
def State.stores (s : State) : Memory × Memory := (s.dram, s.sysMem)

theorem stores_foldl {β : Type} (l : List β) (f : State → β → State) (hf : ∀ s b, (f s b).stores = s.stores) (s : State) :
    (l.foldl f s).stores = s.stores := by
  induction l generalizing s with
  | nil => rfl
  | cons b l ih => rw [List.foldl_cons, ih, hf]

theorem stores_setTag (s : State) (v : Tag) (u : UnitName) : (s.setTag v u).stores = s.stores := by cases u <;> rfl

theorem stores_saveFor (dom die part : Nat) (u : UnitName) (s : State) (col : Bool) :
    (s.saveFor dom die part u col).stores = s.stores := by
  unfold State.saveFor
  simp only
  split
  · rw [stores_setTag]
    split <;> rfl
  · rfl

/-- What is saved before a write changes no memory (R328). -/
theorem stores_beforeWrite (u : UnitName) (s : State) : (s.beforeWrite u).stores = s.stores := by
  unfold State.beforeWrite
  split
  · rfl
  · simp only
    split
    · rfl
    · rw [stores_setTag]
      split
      · exact stores_foldl _ _ (fun t c => stores_saveFor _ _ _ _ t c) s
      · rfl

theorem stores_beforeWrites (us : List UnitName) (s : State) : (s.beforeWrites us).stores = s.stores :=
  stores_foldl _ _ (fun t u => stores_beforeWrite u t) s

theorem stores_dropCoherent (ks : List Nat) (s : State) : (s.dropCoherent ks).stores = s.stores := by
  unfold State.dropCoherent
  split
  · rfl
  · exact stores_foldl _ (fun t die => t.dropRdc die _) (fun _ _ => rfl) s

theorem stores_fireLines (ls : List Nat) (s : State) : (s.fireLines ls).stores = s.stores := by
  unfold State.fireLines
  simp only
  split <;> rfl

/-- A write of package memory: its segments, and nothing else in either memory. -/
theorem stores_writeDram (gs : List Seg) (poison : List Nat) (s : State) :
    (s.writeDram gs poison).stores = (putSegs gs s.dram, s.sysMem) := by
  have h := stores_beforeWrites ((segUnits 4096 gs).map UnitName.granule) s
  unfold State.writeDram
  simp only
  rw [stores_fireLines, stores_dropCoherent]
  simp only [State.stores, Prod.mk.injEq] at h ⊢
  rw [h.1, h.2]
  exact ⟨rfl, rfl⟩

/-- A write of memory behind the ports: its segments, and nothing else in either memory. -/
theorem stores_writeSys (gs : List Seg) (poison : List Nat) (s : State) :
    (s.writeSys gs poison).stores = (s.dram, putSegs gs s.sysMem) := rfl

/-- A write of a scratchpad window changes neither memory. -/
theorem stores_writeWindow (c : Nat) (gs : List Seg) (poison : List Nat) (s : State) :
    (s.writeWindow c gs poison).stores = s.stores := by
  unfold State.writeWindow
  split
  · rfl
  · simp only [State.fireWindow]
    split
    · exact stores_beforeWrites _ s
    · exact stores_beforeWrites _ s

/-- A byte of package memory outside every segment reads as before. -/
theorem get_writeDram_out (gs : List Seg) (poison : List Nat) (s : State) (a : Nat)
    (h : ∀ g ∈ gs, a < g.at_ ∨ g.stop ≤ a) : (s.writeDram gs poison).dram.get a = s.dram.get a := by
  have e := congrArg Prod.fst (stores_writeDram gs poison s)
  simp only [State.stores] at e
  rw [e, get_putSegs_out gs s.dram a h]

/-- The bytes of a write of one segment read as written. -/
theorem bytes_writeDram_one (g : Seg) (poison : List Nat) (s : State) :
    (s.writeDram [g] poison).dram.bytes g.at_ g.bytes.length = g.bytes := by
  have e := congrArg Prod.fst (stores_writeDram [g] poison s)
  simp only [State.stores] at e
  rw [e, bytes_putSegs_one]

end Sys2Proof.Machine
end

