-- ==== Sys2Proof/Laws/State.lean ====
section
/-! SUPPORT. One lemma for each field under each named update of State, Ctx and Gang, true by unfolding, so that no proof
need open a record update; and what the updated field holds. -/

namespace Sys2Proof.Machine

variable (s : State) (c g n : Nat) (ev : Instr) (f : Ctx → Ctx) (h : Gang → Gang) (k : Core → Core)

/-! ### State.modCtx -/

@[simp] theorem State.modCtx_turns : (s.modCtx c f).turns = s.turns := rfl
@[simp] theorem State.modCtx_agenda : (s.modCtx c f).agenda = s.agenda := rfl
@[simp] theorem State.modCtx_issue : (s.modCtx c f).issue = s.issue := rfl
@[simp] theorem State.modCtx_freeIdx : (s.modCtx c f).freeIdx = s.freeIdx := rfl
@[simp] theorem State.modCtx_last : (s.modCtx c f).last = s.last := rfl
@[simp] theorem State.modCtx_lastUnit : (s.modCtx c f).lastUnit = s.lastUnit := rfl
@[simp] theorem State.modCtx_cycles : (s.modCtx c f).cycles = s.cycles := rfl
@[simp] theorem State.modCtx_ctxs : (s.modCtx c f).ctxs = Tab.update c f s.ctxs := rfl
@[simp] theorem State.modCtx_nextCtx : (s.modCtx c f).nextCtx = s.nextCtx := rfl
@[simp] theorem State.modCtx_cores : (s.modCtx c f).cores = s.cores := rfl
@[simp] theorem State.modCtx_arrays : (s.modCtx c f).arrays = s.arrays := rfl
@[simp] theorem State.modCtx_channels : (s.modCtx c f).channels = s.channels := rfl
@[simp] theorem State.modCtx_remoteData : (s.modCtx c f).remoteData = s.remoteData := rfl
@[simp] theorem State.modCtx_dram : (s.modCtx c f).dram = s.dram := rfl
@[simp] theorem State.modCtx_dramMarks : (s.modCtx c f).dramMarks = s.dramMarks := rfl
@[simp] theorem State.modCtx_sysMem : (s.modCtx c f).sysMem = s.sysMem := rfl
@[simp] theorem State.modCtx_sysMarks : (s.modCtx c f).sysMarks = s.sysMarks := rfl
@[simp] theorem State.modCtx_scopeBars : (s.modCtx c f).scopeBars = s.scopeBars := rfl
@[simp] theorem State.modCtx_cmds : (s.modCtx c f).cmds = s.cmds := rfl
@[simp] theorem State.modCtx_nextCmd : (s.modCtx c f).nextCmd = s.nextCmd := rfl
@[simp] theorem State.modCtx_launchAsks : (s.modCtx c f).launchAsks = s.launchAsks := rfl
@[simp] theorem State.modCtx_nextAsk : (s.modCtx c f).nextAsk = s.nextAsk := rfl
@[simp] theorem State.modCtx_parts : (s.modCtx c f).parts = s.parts := rfl
@[simp] theorem State.modCtx_domains : (s.modCtx c f).domains = s.domains := rfl
@[simp] theorem State.modCtx_epochs : (s.modCtx c f).epochs = s.epochs := rfl
@[simp] theorem State.modCtx_tags : (s.modCtx c f).tags = s.tags := rfl
@[simp] theorem State.modCtx_colours : (s.modCtx c f).colours = s.colours := rfl
@[simp] theorem State.modCtx_notices : (s.modCtx c f).notices = s.notices := rfl
@[simp] theorem State.modCtx_noticesDue : (s.modCtx c f).noticesDue = s.noticesDue := rfl
@[simp] theorem State.modCtx_reportsDue : (s.modCtx c f).reportsDue = s.reportsDue := rfl
@[simp] theorem State.modCtx_images : (s.modCtx c f).images = s.images := rfl
@[simp] theorem State.modCtx_imageCtxs : (s.modCtx c f).imageCtxs = s.imageCtxs := rfl
@[simp] theorem State.modCtx_nextImageCtx : (s.modCtx c f).nextImageCtx = s.nextImageCtx := rfl
@[simp] theorem State.modCtx_ports : (s.modCtx c f).ports = s.ports := rfl
@[simp] theorem State.modCtx_vfs : (s.modCtx c f).vfs = s.vfs := rfl
@[simp] theorem State.modCtx_pendings : (s.modCtx c f).pendings = s.pendings := rfl
@[simp] theorem State.modCtx_unsent : (s.modCtx c f).unsent = s.unsent := rfl
@[simp] theorem State.modCtx_frontHeld : (s.modCtx c f).frontHeld = s.frontHeld := rfl
@[simp] theorem State.modCtx_frontMiss : (s.modCtx c f).frontMiss = s.frontMiss := rfl
@[simp] theorem State.modCtx_frontWaits : (s.modCtx c f).frontWaits = s.frontWaits := rfl
@[simp] theorem State.modCtx_spires : (s.modCtx c f).spires = s.spires := rfl
@[simp] theorem State.modCtx_tornDown : (s.modCtx c f).tornDown = s.tornDown := rfl
@[simp] theorem State.modCtx_discards : (s.modCtx c f).discards = s.discards := rfl
@[simp] theorem State.modCtx_lostCount : (s.modCtx c f).lostCount = s.lostCount := rfl
@[simp] theorem State.modCtx_podPos : (s.modCtx c f).podPos = s.podPos := rfl
@[simp] theorem State.modCtx_events : (s.modCtx c f).events = s.events := rfl
@[simp] theorem State.modCtx_windows : (s.modCtx c f).windows = s.windows := rfl
@[simp] theorem State.modCtx_rowFallbacks : (s.modCtx c f).rowFallbacks = s.rowFallbacks := rfl
@[simp] theorem State.modCtx_rowRetired : (s.modCtx c f).rowRetired = s.rowRetired := rfl
@[simp] theorem State.modCtx_rowsSpared : (s.modCtx c f).rowsSpared = s.rowsSpared := rfl
@[simp] theorem State.modCtx_waysRetired : (s.modCtx c f).waysRetired = s.waysRetired := rfl
@[simp] theorem State.modCtx_launches : (s.modCtx c f).launches = s.launches := rfl
@[simp] theorem State.modCtx_nextLaunch : (s.modCtx c f).nextLaunch = s.nextLaunch := rfl
@[simp] theorem State.modCtx_pool : (s.modCtx c f).pool = s.pool := rfl
@[simp] theorem State.modCtx_bypass : (s.modCtx c f).bypass = s.bypass := rfl
@[simp] theorem State.modCtx_agen : (s.modCtx c f).agen = s.agen := rfl
@[simp] theorem State.modCtx_ageb : (s.modCtx c f).ageb = s.ageb := rfl
@[simp] theorem State.modCtx_dispatches : (s.modCtx c f).dispatches = s.dispatches := rfl
@[simp] theorem State.modCtx_hooks : (s.modCtx c f).hooks = s.hooks := rfl
@[simp] theorem State.modCtx_chains : (s.modCtx c f).chains = s.chains := rfl
@[simp] theorem State.modCtx_graphs : (s.modCtx c f).graphs = s.graphs := rfl
@[simp] theorem State.modCtx_nextHandle : (s.modCtx c f).nextHandle = s.nextHandle := rfl
@[simp] theorem State.modCtx_chunks : (s.modCtx c f).chunks = s.chunks := rfl
@[simp] theorem State.modCtx_visits : (s.modCtx c f).visits = s.visits := rfl
@[simp] theorem State.modCtx_chunkDeficits : (s.modCtx c f).chunkDeficits = s.chunkDeficits := rfl
@[simp] theorem State.modCtx_chunkVisit : (s.modCtx c f).chunkVisit = s.chunkVisit := rfl
@[simp] theorem State.modCtx_spireOut : (s.modCtx c f).spireOut = s.spireOut := rfl
@[simp] theorem State.modCtx_imageCmds : (s.modCtx c f).imageCmds = s.imageCmds := rfl
@[simp] theorem State.modCtx_imageAsks : (s.modCtx c f).imageAsks = s.imageAsks := rfl
@[simp] theorem State.modCtx_points : (s.modCtx c f).points = s.points := rfl
@[simp] theorem State.modCtx_rising : (s.modCtx c f).rising = s.rising := rfl
@[simp] theorem State.modCtx_allowed : (s.modCtx c f).allowed = s.allowed := rfl
@[simp] theorem State.modCtx_powerLimit : (s.modCtx c f).powerLimit = s.powerLimit := rfl
@[simp] theorem State.modCtx_periods : (s.modCtx c f).periods = s.periods := rfl
@[simp] theorem State.modCtx_carried : (s.modCtx c f).carried = s.carried := rfl
@[simp] theorem State.modCtx_charges : (s.modCtx c f).charges = s.charges := rfl
@[simp] theorem State.modCtx_energy : (s.modCtx c f).energy = s.energy := rfl
@[simp] theorem State.modCtx_mirrored : (s.modCtx c f).mirrored = s.mirrored := rfl
@[simp] theorem State.modCtx_mgmt : (s.modCtx c f).mgmt = s.mgmt := rfl
@[simp] theorem State.modCtx_requests : (s.modCtx c f).requests = s.requests := rfl
@[simp] theorem State.modCtx_booted : (s.modCtx c f).booted = s.booted := rfl
@[simp] theorem State.modCtx_hostSaw : (s.modCtx c f).hostSaw = s.hostSaw := rfl
@[simp] theorem State.modCtx_ready : (s.modCtx c f).ready = s.ready := rfl
@[simp] theorem State.modCtx_degraded : (s.modCtx c f).degraded = s.degraded := rfl
@[simp] theorem State.modCtx_running : (s.modCtx c f).running = s.running := rfl
@[simp] theorem State.modCtx_attested : (s.modCtx c f).attested = s.attested := rfl
@[simp] theorem State.modCtx_defects : (s.modCtx c f).defects = s.defects := rfl
@[simp] theorem State.modCtx_bootFails : (s.modCtx c f).bootFails = s.bootFails := rfl
@[simp] theorem State.modCtx_stored : (s.modCtx c f).stored = s.stored := rfl

/-! ### State.modGang -/

@[simp] theorem State.modGang_turns : (s.modGang c g h).turns = s.turns := rfl
@[simp] theorem State.modGang_agenda : (s.modGang c g h).agenda = s.agenda := rfl
@[simp] theorem State.modGang_issue : (s.modGang c g h).issue = s.issue := rfl
@[simp] theorem State.modGang_freeIdx : (s.modGang c g h).freeIdx = s.freeIdx := rfl
@[simp] theorem State.modGang_last : (s.modGang c g h).last = s.last := rfl
@[simp] theorem State.modGang_lastUnit : (s.modGang c g h).lastUnit = s.lastUnit := rfl
@[simp] theorem State.modGang_cycles : (s.modGang c g h).cycles = s.cycles := rfl
@[simp] theorem State.modGang_ctxs : (s.modGang c g h).ctxs = Tab.update c (Ctx.modGang g h) s.ctxs := rfl
@[simp] theorem State.modGang_nextCtx : (s.modGang c g h).nextCtx = s.nextCtx := rfl
@[simp] theorem State.modGang_cores : (s.modGang c g h).cores = s.cores := rfl
@[simp] theorem State.modGang_arrays : (s.modGang c g h).arrays = s.arrays := rfl
@[simp] theorem State.modGang_channels : (s.modGang c g h).channels = s.channels := rfl
@[simp] theorem State.modGang_remoteData : (s.modGang c g h).remoteData = s.remoteData := rfl
@[simp] theorem State.modGang_dram : (s.modGang c g h).dram = s.dram := rfl
@[simp] theorem State.modGang_dramMarks : (s.modGang c g h).dramMarks = s.dramMarks := rfl
@[simp] theorem State.modGang_sysMem : (s.modGang c g h).sysMem = s.sysMem := rfl
@[simp] theorem State.modGang_sysMarks : (s.modGang c g h).sysMarks = s.sysMarks := rfl
@[simp] theorem State.modGang_scopeBars : (s.modGang c g h).scopeBars = s.scopeBars := rfl
@[simp] theorem State.modGang_cmds : (s.modGang c g h).cmds = s.cmds := rfl
@[simp] theorem State.modGang_nextCmd : (s.modGang c g h).nextCmd = s.nextCmd := rfl
@[simp] theorem State.modGang_launchAsks : (s.modGang c g h).launchAsks = s.launchAsks := rfl
@[simp] theorem State.modGang_nextAsk : (s.modGang c g h).nextAsk = s.nextAsk := rfl
@[simp] theorem State.modGang_parts : (s.modGang c g h).parts = s.parts := rfl
@[simp] theorem State.modGang_domains : (s.modGang c g h).domains = s.domains := rfl
@[simp] theorem State.modGang_epochs : (s.modGang c g h).epochs = s.epochs := rfl
@[simp] theorem State.modGang_tags : (s.modGang c g h).tags = s.tags := rfl
@[simp] theorem State.modGang_colours : (s.modGang c g h).colours = s.colours := rfl
@[simp] theorem State.modGang_notices : (s.modGang c g h).notices = s.notices := rfl
@[simp] theorem State.modGang_noticesDue : (s.modGang c g h).noticesDue = s.noticesDue := rfl
@[simp] theorem State.modGang_reportsDue : (s.modGang c g h).reportsDue = s.reportsDue := rfl
@[simp] theorem State.modGang_images : (s.modGang c g h).images = s.images := rfl
@[simp] theorem State.modGang_imageCtxs : (s.modGang c g h).imageCtxs = s.imageCtxs := rfl
@[simp] theorem State.modGang_nextImageCtx : (s.modGang c g h).nextImageCtx = s.nextImageCtx := rfl
@[simp] theorem State.modGang_ports : (s.modGang c g h).ports = s.ports := rfl
@[simp] theorem State.modGang_vfs : (s.modGang c g h).vfs = s.vfs := rfl
@[simp] theorem State.modGang_pendings : (s.modGang c g h).pendings = s.pendings := rfl
@[simp] theorem State.modGang_unsent : (s.modGang c g h).unsent = s.unsent := rfl
@[simp] theorem State.modGang_frontHeld : (s.modGang c g h).frontHeld = s.frontHeld := rfl
@[simp] theorem State.modGang_frontMiss : (s.modGang c g h).frontMiss = s.frontMiss := rfl
@[simp] theorem State.modGang_frontWaits : (s.modGang c g h).frontWaits = s.frontWaits := rfl
@[simp] theorem State.modGang_spires : (s.modGang c g h).spires = s.spires := rfl
@[simp] theorem State.modGang_tornDown : (s.modGang c g h).tornDown = s.tornDown := rfl
@[simp] theorem State.modGang_discards : (s.modGang c g h).discards = s.discards := rfl
@[simp] theorem State.modGang_lostCount : (s.modGang c g h).lostCount = s.lostCount := rfl
@[simp] theorem State.modGang_podPos : (s.modGang c g h).podPos = s.podPos := rfl
@[simp] theorem State.modGang_events : (s.modGang c g h).events = s.events := rfl
@[simp] theorem State.modGang_windows : (s.modGang c g h).windows = s.windows := rfl
@[simp] theorem State.modGang_rowFallbacks : (s.modGang c g h).rowFallbacks = s.rowFallbacks := rfl
@[simp] theorem State.modGang_rowRetired : (s.modGang c g h).rowRetired = s.rowRetired := rfl
@[simp] theorem State.modGang_rowsSpared : (s.modGang c g h).rowsSpared = s.rowsSpared := rfl
@[simp] theorem State.modGang_waysRetired : (s.modGang c g h).waysRetired = s.waysRetired := rfl
@[simp] theorem State.modGang_launches : (s.modGang c g h).launches = s.launches := rfl
@[simp] theorem State.modGang_nextLaunch : (s.modGang c g h).nextLaunch = s.nextLaunch := rfl
@[simp] theorem State.modGang_pool : (s.modGang c g h).pool = s.pool := rfl
@[simp] theorem State.modGang_bypass : (s.modGang c g h).bypass = s.bypass := rfl
@[simp] theorem State.modGang_agen : (s.modGang c g h).agen = s.agen := rfl
@[simp] theorem State.modGang_ageb : (s.modGang c g h).ageb = s.ageb := rfl
@[simp] theorem State.modGang_dispatches : (s.modGang c g h).dispatches = s.dispatches := rfl
@[simp] theorem State.modGang_hooks : (s.modGang c g h).hooks = s.hooks := rfl
@[simp] theorem State.modGang_chains : (s.modGang c g h).chains = s.chains := rfl
@[simp] theorem State.modGang_graphs : (s.modGang c g h).graphs = s.graphs := rfl
@[simp] theorem State.modGang_nextHandle : (s.modGang c g h).nextHandle = s.nextHandle := rfl
@[simp] theorem State.modGang_chunks : (s.modGang c g h).chunks = s.chunks := rfl
@[simp] theorem State.modGang_visits : (s.modGang c g h).visits = s.visits := rfl
@[simp] theorem State.modGang_chunkDeficits : (s.modGang c g h).chunkDeficits = s.chunkDeficits := rfl
@[simp] theorem State.modGang_chunkVisit : (s.modGang c g h).chunkVisit = s.chunkVisit := rfl
@[simp] theorem State.modGang_spireOut : (s.modGang c g h).spireOut = s.spireOut := rfl
@[simp] theorem State.modGang_imageCmds : (s.modGang c g h).imageCmds = s.imageCmds := rfl
@[simp] theorem State.modGang_imageAsks : (s.modGang c g h).imageAsks = s.imageAsks := rfl
@[simp] theorem State.modGang_points : (s.modGang c g h).points = s.points := rfl
@[simp] theorem State.modGang_rising : (s.modGang c g h).rising = s.rising := rfl
@[simp] theorem State.modGang_allowed : (s.modGang c g h).allowed = s.allowed := rfl
@[simp] theorem State.modGang_powerLimit : (s.modGang c g h).powerLimit = s.powerLimit := rfl
@[simp] theorem State.modGang_periods : (s.modGang c g h).periods = s.periods := rfl
@[simp] theorem State.modGang_carried : (s.modGang c g h).carried = s.carried := rfl
@[simp] theorem State.modGang_charges : (s.modGang c g h).charges = s.charges := rfl
@[simp] theorem State.modGang_energy : (s.modGang c g h).energy = s.energy := rfl
@[simp] theorem State.modGang_mirrored : (s.modGang c g h).mirrored = s.mirrored := rfl
@[simp] theorem State.modGang_mgmt : (s.modGang c g h).mgmt = s.mgmt := rfl
@[simp] theorem State.modGang_requests : (s.modGang c g h).requests = s.requests := rfl
@[simp] theorem State.modGang_booted : (s.modGang c g h).booted = s.booted := rfl
@[simp] theorem State.modGang_hostSaw : (s.modGang c g h).hostSaw = s.hostSaw := rfl
@[simp] theorem State.modGang_ready : (s.modGang c g h).ready = s.ready := rfl
@[simp] theorem State.modGang_degraded : (s.modGang c g h).degraded = s.degraded := rfl
@[simp] theorem State.modGang_running : (s.modGang c g h).running = s.running := rfl
@[simp] theorem State.modGang_attested : (s.modGang c g h).attested = s.attested := rfl
@[simp] theorem State.modGang_defects : (s.modGang c g h).defects = s.defects := rfl
@[simp] theorem State.modGang_bootFails : (s.modGang c g h).bootFails = s.bootFails := rfl
@[simp] theorem State.modGang_stored : (s.modGang c g h).stored = s.stored := rfl

/-! ### State.modCx -/

@[simp] theorem State.modCx_turns : (s.modCx f).turns = s.turns := rfl
@[simp] theorem State.modCx_agenda : (s.modCx f).agenda = s.agenda := rfl
@[simp] theorem State.modCx_issue : (s.modCx f).issue = s.issue := rfl
@[simp] theorem State.modCx_freeIdx : (s.modCx f).freeIdx = s.freeIdx := rfl
@[simp] theorem State.modCx_last : (s.modCx f).last = s.last := rfl
@[simp] theorem State.modCx_lastUnit : (s.modCx f).lastUnit = s.lastUnit := rfl
@[simp] theorem State.modCx_cycles : (s.modCx f).cycles = s.cycles := rfl
@[simp] theorem State.modCx_ctxs : (s.modCx f).ctxs = Tab.update s.issue.ctx f s.ctxs := rfl
@[simp] theorem State.modCx_nextCtx : (s.modCx f).nextCtx = s.nextCtx := rfl
@[simp] theorem State.modCx_cores : (s.modCx f).cores = s.cores := rfl
@[simp] theorem State.modCx_arrays : (s.modCx f).arrays = s.arrays := rfl
@[simp] theorem State.modCx_channels : (s.modCx f).channels = s.channels := rfl
@[simp] theorem State.modCx_remoteData : (s.modCx f).remoteData = s.remoteData := rfl
@[simp] theorem State.modCx_dram : (s.modCx f).dram = s.dram := rfl
@[simp] theorem State.modCx_dramMarks : (s.modCx f).dramMarks = s.dramMarks := rfl
@[simp] theorem State.modCx_sysMem : (s.modCx f).sysMem = s.sysMem := rfl
@[simp] theorem State.modCx_sysMarks : (s.modCx f).sysMarks = s.sysMarks := rfl
@[simp] theorem State.modCx_scopeBars : (s.modCx f).scopeBars = s.scopeBars := rfl
@[simp] theorem State.modCx_cmds : (s.modCx f).cmds = s.cmds := rfl
@[simp] theorem State.modCx_nextCmd : (s.modCx f).nextCmd = s.nextCmd := rfl
@[simp] theorem State.modCx_launchAsks : (s.modCx f).launchAsks = s.launchAsks := rfl
@[simp] theorem State.modCx_nextAsk : (s.modCx f).nextAsk = s.nextAsk := rfl
@[simp] theorem State.modCx_parts : (s.modCx f).parts = s.parts := rfl
@[simp] theorem State.modCx_domains : (s.modCx f).domains = s.domains := rfl
@[simp] theorem State.modCx_epochs : (s.modCx f).epochs = s.epochs := rfl
@[simp] theorem State.modCx_tags : (s.modCx f).tags = s.tags := rfl
@[simp] theorem State.modCx_colours : (s.modCx f).colours = s.colours := rfl
@[simp] theorem State.modCx_notices : (s.modCx f).notices = s.notices := rfl
@[simp] theorem State.modCx_noticesDue : (s.modCx f).noticesDue = s.noticesDue := rfl
@[simp] theorem State.modCx_reportsDue : (s.modCx f).reportsDue = s.reportsDue := rfl
@[simp] theorem State.modCx_images : (s.modCx f).images = s.images := rfl
@[simp] theorem State.modCx_imageCtxs : (s.modCx f).imageCtxs = s.imageCtxs := rfl
@[simp] theorem State.modCx_nextImageCtx : (s.modCx f).nextImageCtx = s.nextImageCtx := rfl
@[simp] theorem State.modCx_ports : (s.modCx f).ports = s.ports := rfl
@[simp] theorem State.modCx_vfs : (s.modCx f).vfs = s.vfs := rfl
@[simp] theorem State.modCx_pendings : (s.modCx f).pendings = s.pendings := rfl
@[simp] theorem State.modCx_unsent : (s.modCx f).unsent = s.unsent := rfl
@[simp] theorem State.modCx_frontHeld : (s.modCx f).frontHeld = s.frontHeld := rfl
@[simp] theorem State.modCx_frontMiss : (s.modCx f).frontMiss = s.frontMiss := rfl
@[simp] theorem State.modCx_frontWaits : (s.modCx f).frontWaits = s.frontWaits := rfl
@[simp] theorem State.modCx_spires : (s.modCx f).spires = s.spires := rfl
@[simp] theorem State.modCx_tornDown : (s.modCx f).tornDown = s.tornDown := rfl
@[simp] theorem State.modCx_discards : (s.modCx f).discards = s.discards := rfl
@[simp] theorem State.modCx_lostCount : (s.modCx f).lostCount = s.lostCount := rfl
@[simp] theorem State.modCx_podPos : (s.modCx f).podPos = s.podPos := rfl
@[simp] theorem State.modCx_events : (s.modCx f).events = s.events := rfl
@[simp] theorem State.modCx_windows : (s.modCx f).windows = s.windows := rfl
@[simp] theorem State.modCx_rowFallbacks : (s.modCx f).rowFallbacks = s.rowFallbacks := rfl
@[simp] theorem State.modCx_rowRetired : (s.modCx f).rowRetired = s.rowRetired := rfl
@[simp] theorem State.modCx_rowsSpared : (s.modCx f).rowsSpared = s.rowsSpared := rfl
@[simp] theorem State.modCx_waysRetired : (s.modCx f).waysRetired = s.waysRetired := rfl
@[simp] theorem State.modCx_launches : (s.modCx f).launches = s.launches := rfl
@[simp] theorem State.modCx_nextLaunch : (s.modCx f).nextLaunch = s.nextLaunch := rfl
@[simp] theorem State.modCx_pool : (s.modCx f).pool = s.pool := rfl
@[simp] theorem State.modCx_bypass : (s.modCx f).bypass = s.bypass := rfl
@[simp] theorem State.modCx_agen : (s.modCx f).agen = s.agen := rfl
@[simp] theorem State.modCx_ageb : (s.modCx f).ageb = s.ageb := rfl
@[simp] theorem State.modCx_dispatches : (s.modCx f).dispatches = s.dispatches := rfl
@[simp] theorem State.modCx_hooks : (s.modCx f).hooks = s.hooks := rfl
@[simp] theorem State.modCx_chains : (s.modCx f).chains = s.chains := rfl
@[simp] theorem State.modCx_graphs : (s.modCx f).graphs = s.graphs := rfl
@[simp] theorem State.modCx_nextHandle : (s.modCx f).nextHandle = s.nextHandle := rfl
@[simp] theorem State.modCx_chunks : (s.modCx f).chunks = s.chunks := rfl
@[simp] theorem State.modCx_visits : (s.modCx f).visits = s.visits := rfl
@[simp] theorem State.modCx_chunkDeficits : (s.modCx f).chunkDeficits = s.chunkDeficits := rfl
@[simp] theorem State.modCx_chunkVisit : (s.modCx f).chunkVisit = s.chunkVisit := rfl
@[simp] theorem State.modCx_spireOut : (s.modCx f).spireOut = s.spireOut := rfl
@[simp] theorem State.modCx_imageCmds : (s.modCx f).imageCmds = s.imageCmds := rfl
@[simp] theorem State.modCx_imageAsks : (s.modCx f).imageAsks = s.imageAsks := rfl
@[simp] theorem State.modCx_points : (s.modCx f).points = s.points := rfl
@[simp] theorem State.modCx_rising : (s.modCx f).rising = s.rising := rfl
@[simp] theorem State.modCx_allowed : (s.modCx f).allowed = s.allowed := rfl
@[simp] theorem State.modCx_powerLimit : (s.modCx f).powerLimit = s.powerLimit := rfl
@[simp] theorem State.modCx_periods : (s.modCx f).periods = s.periods := rfl
@[simp] theorem State.modCx_carried : (s.modCx f).carried = s.carried := rfl
@[simp] theorem State.modCx_charges : (s.modCx f).charges = s.charges := rfl
@[simp] theorem State.modCx_energy : (s.modCx f).energy = s.energy := rfl
@[simp] theorem State.modCx_mirrored : (s.modCx f).mirrored = s.mirrored := rfl
@[simp] theorem State.modCx_mgmt : (s.modCx f).mgmt = s.mgmt := rfl
@[simp] theorem State.modCx_requests : (s.modCx f).requests = s.requests := rfl
@[simp] theorem State.modCx_booted : (s.modCx f).booted = s.booted := rfl
@[simp] theorem State.modCx_hostSaw : (s.modCx f).hostSaw = s.hostSaw := rfl
@[simp] theorem State.modCx_ready : (s.modCx f).ready = s.ready := rfl
@[simp] theorem State.modCx_degraded : (s.modCx f).degraded = s.degraded := rfl
@[simp] theorem State.modCx_running : (s.modCx f).running = s.running := rfl
@[simp] theorem State.modCx_attested : (s.modCx f).attested = s.attested := rfl
@[simp] theorem State.modCx_defects : (s.modCx f).defects = s.defects := rfl
@[simp] theorem State.modCx_bootFails : (s.modCx f).bootFails = s.bootFails := rfl
@[simp] theorem State.modCx_stored : (s.modCx f).stored = s.stored := rfl

/-! ### State.modGg -/

@[simp] theorem State.modGg_turns : (s.modGg h).turns = s.turns := rfl
@[simp] theorem State.modGg_agenda : (s.modGg h).agenda = s.agenda := rfl
@[simp] theorem State.modGg_issue : (s.modGg h).issue = s.issue := rfl
@[simp] theorem State.modGg_freeIdx : (s.modGg h).freeIdx = s.freeIdx := rfl
@[simp] theorem State.modGg_last : (s.modGg h).last = s.last := rfl
@[simp] theorem State.modGg_lastUnit : (s.modGg h).lastUnit = s.lastUnit := rfl
@[simp] theorem State.modGg_cycles : (s.modGg h).cycles = s.cycles := rfl
@[simp] theorem State.modGg_ctxs : (s.modGg h).ctxs = Tab.update s.issue.ctx (Ctx.modGang s.issue.gang h) s.ctxs := rfl
@[simp] theorem State.modGg_nextCtx : (s.modGg h).nextCtx = s.nextCtx := rfl
@[simp] theorem State.modGg_cores : (s.modGg h).cores = s.cores := rfl
@[simp] theorem State.modGg_arrays : (s.modGg h).arrays = s.arrays := rfl
@[simp] theorem State.modGg_channels : (s.modGg h).channels = s.channels := rfl
@[simp] theorem State.modGg_remoteData : (s.modGg h).remoteData = s.remoteData := rfl
@[simp] theorem State.modGg_dram : (s.modGg h).dram = s.dram := rfl
@[simp] theorem State.modGg_dramMarks : (s.modGg h).dramMarks = s.dramMarks := rfl
@[simp] theorem State.modGg_sysMem : (s.modGg h).sysMem = s.sysMem := rfl
@[simp] theorem State.modGg_sysMarks : (s.modGg h).sysMarks = s.sysMarks := rfl
@[simp] theorem State.modGg_scopeBars : (s.modGg h).scopeBars = s.scopeBars := rfl
@[simp] theorem State.modGg_cmds : (s.modGg h).cmds = s.cmds := rfl
@[simp] theorem State.modGg_nextCmd : (s.modGg h).nextCmd = s.nextCmd := rfl
@[simp] theorem State.modGg_launchAsks : (s.modGg h).launchAsks = s.launchAsks := rfl
@[simp] theorem State.modGg_nextAsk : (s.modGg h).nextAsk = s.nextAsk := rfl
@[simp] theorem State.modGg_parts : (s.modGg h).parts = s.parts := rfl
@[simp] theorem State.modGg_domains : (s.modGg h).domains = s.domains := rfl
@[simp] theorem State.modGg_epochs : (s.modGg h).epochs = s.epochs := rfl
@[simp] theorem State.modGg_tags : (s.modGg h).tags = s.tags := rfl
@[simp] theorem State.modGg_colours : (s.modGg h).colours = s.colours := rfl
@[simp] theorem State.modGg_notices : (s.modGg h).notices = s.notices := rfl
@[simp] theorem State.modGg_noticesDue : (s.modGg h).noticesDue = s.noticesDue := rfl
@[simp] theorem State.modGg_reportsDue : (s.modGg h).reportsDue = s.reportsDue := rfl
@[simp] theorem State.modGg_images : (s.modGg h).images = s.images := rfl
@[simp] theorem State.modGg_imageCtxs : (s.modGg h).imageCtxs = s.imageCtxs := rfl
@[simp] theorem State.modGg_nextImageCtx : (s.modGg h).nextImageCtx = s.nextImageCtx := rfl
@[simp] theorem State.modGg_ports : (s.modGg h).ports = s.ports := rfl
@[simp] theorem State.modGg_vfs : (s.modGg h).vfs = s.vfs := rfl
@[simp] theorem State.modGg_pendings : (s.modGg h).pendings = s.pendings := rfl
@[simp] theorem State.modGg_unsent : (s.modGg h).unsent = s.unsent := rfl
@[simp] theorem State.modGg_frontHeld : (s.modGg h).frontHeld = s.frontHeld := rfl
@[simp] theorem State.modGg_frontMiss : (s.modGg h).frontMiss = s.frontMiss := rfl
@[simp] theorem State.modGg_frontWaits : (s.modGg h).frontWaits = s.frontWaits := rfl
@[simp] theorem State.modGg_spires : (s.modGg h).spires = s.spires := rfl
@[simp] theorem State.modGg_tornDown : (s.modGg h).tornDown = s.tornDown := rfl
@[simp] theorem State.modGg_discards : (s.modGg h).discards = s.discards := rfl
@[simp] theorem State.modGg_lostCount : (s.modGg h).lostCount = s.lostCount := rfl
@[simp] theorem State.modGg_podPos : (s.modGg h).podPos = s.podPos := rfl
@[simp] theorem State.modGg_events : (s.modGg h).events = s.events := rfl
@[simp] theorem State.modGg_windows : (s.modGg h).windows = s.windows := rfl
@[simp] theorem State.modGg_rowFallbacks : (s.modGg h).rowFallbacks = s.rowFallbacks := rfl
@[simp] theorem State.modGg_rowRetired : (s.modGg h).rowRetired = s.rowRetired := rfl
@[simp] theorem State.modGg_rowsSpared : (s.modGg h).rowsSpared = s.rowsSpared := rfl
@[simp] theorem State.modGg_waysRetired : (s.modGg h).waysRetired = s.waysRetired := rfl
@[simp] theorem State.modGg_launches : (s.modGg h).launches = s.launches := rfl
@[simp] theorem State.modGg_nextLaunch : (s.modGg h).nextLaunch = s.nextLaunch := rfl
@[simp] theorem State.modGg_pool : (s.modGg h).pool = s.pool := rfl
@[simp] theorem State.modGg_bypass : (s.modGg h).bypass = s.bypass := rfl
@[simp] theorem State.modGg_agen : (s.modGg h).agen = s.agen := rfl
@[simp] theorem State.modGg_ageb : (s.modGg h).ageb = s.ageb := rfl
@[simp] theorem State.modGg_dispatches : (s.modGg h).dispatches = s.dispatches := rfl
@[simp] theorem State.modGg_hooks : (s.modGg h).hooks = s.hooks := rfl
@[simp] theorem State.modGg_chains : (s.modGg h).chains = s.chains := rfl
@[simp] theorem State.modGg_graphs : (s.modGg h).graphs = s.graphs := rfl
@[simp] theorem State.modGg_nextHandle : (s.modGg h).nextHandle = s.nextHandle := rfl
@[simp] theorem State.modGg_chunks : (s.modGg h).chunks = s.chunks := rfl
@[simp] theorem State.modGg_visits : (s.modGg h).visits = s.visits := rfl
@[simp] theorem State.modGg_chunkDeficits : (s.modGg h).chunkDeficits = s.chunkDeficits := rfl
@[simp] theorem State.modGg_chunkVisit : (s.modGg h).chunkVisit = s.chunkVisit := rfl
@[simp] theorem State.modGg_spireOut : (s.modGg h).spireOut = s.spireOut := rfl
@[simp] theorem State.modGg_imageCmds : (s.modGg h).imageCmds = s.imageCmds := rfl
@[simp] theorem State.modGg_imageAsks : (s.modGg h).imageAsks = s.imageAsks := rfl
@[simp] theorem State.modGg_points : (s.modGg h).points = s.points := rfl
@[simp] theorem State.modGg_rising : (s.modGg h).rising = s.rising := rfl
@[simp] theorem State.modGg_allowed : (s.modGg h).allowed = s.allowed := rfl
@[simp] theorem State.modGg_powerLimit : (s.modGg h).powerLimit = s.powerLimit := rfl
@[simp] theorem State.modGg_periods : (s.modGg h).periods = s.periods := rfl
@[simp] theorem State.modGg_carried : (s.modGg h).carried = s.carried := rfl
@[simp] theorem State.modGg_charges : (s.modGg h).charges = s.charges := rfl
@[simp] theorem State.modGg_energy : (s.modGg h).energy = s.energy := rfl
@[simp] theorem State.modGg_mirrored : (s.modGg h).mirrored = s.mirrored := rfl
@[simp] theorem State.modGg_mgmt : (s.modGg h).mgmt = s.mgmt := rfl
@[simp] theorem State.modGg_requests : (s.modGg h).requests = s.requests := rfl
@[simp] theorem State.modGg_booted : (s.modGg h).booted = s.booted := rfl
@[simp] theorem State.modGg_hostSaw : (s.modGg h).hostSaw = s.hostSaw := rfl
@[simp] theorem State.modGg_ready : (s.modGg h).ready = s.ready := rfl
@[simp] theorem State.modGg_degraded : (s.modGg h).degraded = s.degraded := rfl
@[simp] theorem State.modGg_running : (s.modGg h).running = s.running := rfl
@[simp] theorem State.modGg_attested : (s.modGg h).attested = s.attested := rfl
@[simp] theorem State.modGg_defects : (s.modGg h).defects = s.defects := rfl
@[simp] theorem State.modGg_bootFails : (s.modGg h).bootFails = s.bootFails := rfl
@[simp] theorem State.modGg_stored : (s.modGg h).stored = s.stored := rfl

/-! ### State.post -/

@[simp] theorem State.post_turns : (s.post ev).turns = s.turns := rfl
@[simp] theorem State.post_agenda : (s.post ev).agenda = s.agenda ++ [ev] := rfl
@[simp] theorem State.post_issue : (s.post ev).issue = s.issue := rfl
@[simp] theorem State.post_freeIdx : (s.post ev).freeIdx = s.freeIdx := rfl
@[simp] theorem State.post_last : (s.post ev).last = s.last := rfl
@[simp] theorem State.post_lastUnit : (s.post ev).lastUnit = s.lastUnit := rfl
@[simp] theorem State.post_cycles : (s.post ev).cycles = s.cycles := rfl
@[simp] theorem State.post_ctxs : (s.post ev).ctxs = s.ctxs := rfl
@[simp] theorem State.post_nextCtx : (s.post ev).nextCtx = s.nextCtx := rfl
@[simp] theorem State.post_cores : (s.post ev).cores = s.cores := rfl
@[simp] theorem State.post_arrays : (s.post ev).arrays = s.arrays := rfl
@[simp] theorem State.post_channels : (s.post ev).channels = s.channels := rfl
@[simp] theorem State.post_remoteData : (s.post ev).remoteData = s.remoteData := rfl
@[simp] theorem State.post_dram : (s.post ev).dram = s.dram := rfl
@[simp] theorem State.post_dramMarks : (s.post ev).dramMarks = s.dramMarks := rfl
@[simp] theorem State.post_sysMem : (s.post ev).sysMem = s.sysMem := rfl
@[simp] theorem State.post_sysMarks : (s.post ev).sysMarks = s.sysMarks := rfl
@[simp] theorem State.post_scopeBars : (s.post ev).scopeBars = s.scopeBars := rfl
@[simp] theorem State.post_cmds : (s.post ev).cmds = s.cmds := rfl
@[simp] theorem State.post_nextCmd : (s.post ev).nextCmd = s.nextCmd := rfl
@[simp] theorem State.post_launchAsks : (s.post ev).launchAsks = s.launchAsks := rfl
@[simp] theorem State.post_nextAsk : (s.post ev).nextAsk = s.nextAsk := rfl
@[simp] theorem State.post_parts : (s.post ev).parts = s.parts := rfl
@[simp] theorem State.post_domains : (s.post ev).domains = s.domains := rfl
@[simp] theorem State.post_epochs : (s.post ev).epochs = s.epochs := rfl
@[simp] theorem State.post_tags : (s.post ev).tags = s.tags := rfl
@[simp] theorem State.post_colours : (s.post ev).colours = s.colours := rfl
@[simp] theorem State.post_notices : (s.post ev).notices = s.notices := rfl
@[simp] theorem State.post_noticesDue : (s.post ev).noticesDue = s.noticesDue := rfl
@[simp] theorem State.post_reportsDue : (s.post ev).reportsDue = s.reportsDue := rfl
@[simp] theorem State.post_images : (s.post ev).images = s.images := rfl
@[simp] theorem State.post_imageCtxs : (s.post ev).imageCtxs = s.imageCtxs := rfl
@[simp] theorem State.post_nextImageCtx : (s.post ev).nextImageCtx = s.nextImageCtx := rfl
@[simp] theorem State.post_ports : (s.post ev).ports = s.ports := rfl
@[simp] theorem State.post_vfs : (s.post ev).vfs = s.vfs := rfl
@[simp] theorem State.post_pendings : (s.post ev).pendings = s.pendings := rfl
@[simp] theorem State.post_unsent : (s.post ev).unsent = s.unsent := rfl
@[simp] theorem State.post_frontHeld : (s.post ev).frontHeld = s.frontHeld := rfl
@[simp] theorem State.post_frontMiss : (s.post ev).frontMiss = s.frontMiss := rfl
@[simp] theorem State.post_frontWaits : (s.post ev).frontWaits = s.frontWaits := rfl
@[simp] theorem State.post_spires : (s.post ev).spires = s.spires := rfl
@[simp] theorem State.post_tornDown : (s.post ev).tornDown = s.tornDown := rfl
@[simp] theorem State.post_discards : (s.post ev).discards = s.discards := rfl
@[simp] theorem State.post_lostCount : (s.post ev).lostCount = s.lostCount := rfl
@[simp] theorem State.post_podPos : (s.post ev).podPos = s.podPos := rfl
@[simp] theorem State.post_events : (s.post ev).events = s.events := rfl
@[simp] theorem State.post_windows : (s.post ev).windows = s.windows := rfl
@[simp] theorem State.post_rowFallbacks : (s.post ev).rowFallbacks = s.rowFallbacks := rfl
@[simp] theorem State.post_rowRetired : (s.post ev).rowRetired = s.rowRetired := rfl
@[simp] theorem State.post_rowsSpared : (s.post ev).rowsSpared = s.rowsSpared := rfl
@[simp] theorem State.post_waysRetired : (s.post ev).waysRetired = s.waysRetired := rfl
@[simp] theorem State.post_launches : (s.post ev).launches = s.launches := rfl
@[simp] theorem State.post_nextLaunch : (s.post ev).nextLaunch = s.nextLaunch := rfl
@[simp] theorem State.post_pool : (s.post ev).pool = s.pool := rfl
@[simp] theorem State.post_bypass : (s.post ev).bypass = s.bypass := rfl
@[simp] theorem State.post_agen : (s.post ev).agen = s.agen := rfl
@[simp] theorem State.post_ageb : (s.post ev).ageb = s.ageb := rfl
@[simp] theorem State.post_dispatches : (s.post ev).dispatches = s.dispatches := rfl
@[simp] theorem State.post_hooks : (s.post ev).hooks = s.hooks := rfl
@[simp] theorem State.post_chains : (s.post ev).chains = s.chains := rfl
@[simp] theorem State.post_graphs : (s.post ev).graphs = s.graphs := rfl
@[simp] theorem State.post_nextHandle : (s.post ev).nextHandle = s.nextHandle := rfl
@[simp] theorem State.post_chunks : (s.post ev).chunks = s.chunks := rfl
@[simp] theorem State.post_visits : (s.post ev).visits = s.visits := rfl
@[simp] theorem State.post_chunkDeficits : (s.post ev).chunkDeficits = s.chunkDeficits := rfl
@[simp] theorem State.post_chunkVisit : (s.post ev).chunkVisit = s.chunkVisit := rfl
@[simp] theorem State.post_spireOut : (s.post ev).spireOut = s.spireOut := rfl
@[simp] theorem State.post_imageCmds : (s.post ev).imageCmds = s.imageCmds := rfl
@[simp] theorem State.post_imageAsks : (s.post ev).imageAsks = s.imageAsks := rfl
@[simp] theorem State.post_points : (s.post ev).points = s.points := rfl
@[simp] theorem State.post_rising : (s.post ev).rising = s.rising := rfl
@[simp] theorem State.post_allowed : (s.post ev).allowed = s.allowed := rfl
@[simp] theorem State.post_powerLimit : (s.post ev).powerLimit = s.powerLimit := rfl
@[simp] theorem State.post_periods : (s.post ev).periods = s.periods := rfl
@[simp] theorem State.post_carried : (s.post ev).carried = s.carried := rfl
@[simp] theorem State.post_charges : (s.post ev).charges = s.charges := rfl
@[simp] theorem State.post_energy : (s.post ev).energy = s.energy := rfl
@[simp] theorem State.post_mirrored : (s.post ev).mirrored = s.mirrored := rfl
@[simp] theorem State.post_mgmt : (s.post ev).mgmt = s.mgmt := rfl
@[simp] theorem State.post_requests : (s.post ev).requests = s.requests := rfl
@[simp] theorem State.post_booted : (s.post ev).booted = s.booted := rfl
@[simp] theorem State.post_hostSaw : (s.post ev).hostSaw = s.hostSaw := rfl
@[simp] theorem State.post_ready : (s.post ev).ready = s.ready := rfl
@[simp] theorem State.post_degraded : (s.post ev).degraded = s.degraded := rfl
@[simp] theorem State.post_running : (s.post ev).running = s.running := rfl
@[simp] theorem State.post_attested : (s.post ev).attested = s.attested := rfl
@[simp] theorem State.post_defects : (s.post ev).defects = s.defects := rfl
@[simp] theorem State.post_bootFails : (s.post ev).bootFails = s.bootFails := rfl
@[simp] theorem State.post_stored : (s.post ev).stored = s.stored := rfl

/-! ### State.modCore -/

@[simp] theorem State.modCore_turns : (s.modCore n k).turns = s.turns := rfl
@[simp] theorem State.modCore_agenda : (s.modCore n k).agenda = s.agenda := rfl
@[simp] theorem State.modCore_issue : (s.modCore n k).issue = s.issue := rfl
@[simp] theorem State.modCore_freeIdx : (s.modCore n k).freeIdx = s.freeIdx := rfl
@[simp] theorem State.modCore_last : (s.modCore n k).last = s.last := rfl
@[simp] theorem State.modCore_lastUnit : (s.modCore n k).lastUnit = s.lastUnit := rfl
@[simp] theorem State.modCore_cycles : (s.modCore n k).cycles = s.cycles := rfl
@[simp] theorem State.modCore_ctxs : (s.modCore n k).ctxs = s.ctxs := rfl
@[simp] theorem State.modCore_nextCtx : (s.modCore n k).nextCtx = s.nextCtx := rfl
@[simp] theorem State.modCore_cores : (s.modCore n k).cores = Tab.write {} n (k (s.core n)) s.cores := rfl
@[simp] theorem State.modCore_arrays : (s.modCore n k).arrays = s.arrays := rfl
@[simp] theorem State.modCore_channels : (s.modCore n k).channels = s.channels := rfl
@[simp] theorem State.modCore_remoteData : (s.modCore n k).remoteData = s.remoteData := rfl
@[simp] theorem State.modCore_dram : (s.modCore n k).dram = s.dram := rfl
@[simp] theorem State.modCore_dramMarks : (s.modCore n k).dramMarks = s.dramMarks := rfl
@[simp] theorem State.modCore_sysMem : (s.modCore n k).sysMem = s.sysMem := rfl
@[simp] theorem State.modCore_sysMarks : (s.modCore n k).sysMarks = s.sysMarks := rfl
@[simp] theorem State.modCore_scopeBars : (s.modCore n k).scopeBars = s.scopeBars := rfl
@[simp] theorem State.modCore_cmds : (s.modCore n k).cmds = s.cmds := rfl
@[simp] theorem State.modCore_nextCmd : (s.modCore n k).nextCmd = s.nextCmd := rfl
@[simp] theorem State.modCore_launchAsks : (s.modCore n k).launchAsks = s.launchAsks := rfl
@[simp] theorem State.modCore_nextAsk : (s.modCore n k).nextAsk = s.nextAsk := rfl
@[simp] theorem State.modCore_parts : (s.modCore n k).parts = s.parts := rfl
@[simp] theorem State.modCore_domains : (s.modCore n k).domains = s.domains := rfl
@[simp] theorem State.modCore_epochs : (s.modCore n k).epochs = s.epochs := rfl
@[simp] theorem State.modCore_tags : (s.modCore n k).tags = s.tags := rfl
@[simp] theorem State.modCore_colours : (s.modCore n k).colours = s.colours := rfl
@[simp] theorem State.modCore_notices : (s.modCore n k).notices = s.notices := rfl
@[simp] theorem State.modCore_noticesDue : (s.modCore n k).noticesDue = s.noticesDue := rfl
@[simp] theorem State.modCore_reportsDue : (s.modCore n k).reportsDue = s.reportsDue := rfl
@[simp] theorem State.modCore_images : (s.modCore n k).images = s.images := rfl
@[simp] theorem State.modCore_imageCtxs : (s.modCore n k).imageCtxs = s.imageCtxs := rfl
@[simp] theorem State.modCore_nextImageCtx : (s.modCore n k).nextImageCtx = s.nextImageCtx := rfl
@[simp] theorem State.modCore_ports : (s.modCore n k).ports = s.ports := rfl
@[simp] theorem State.modCore_vfs : (s.modCore n k).vfs = s.vfs := rfl
@[simp] theorem State.modCore_pendings : (s.modCore n k).pendings = s.pendings := rfl
@[simp] theorem State.modCore_unsent : (s.modCore n k).unsent = s.unsent := rfl
@[simp] theorem State.modCore_frontHeld : (s.modCore n k).frontHeld = s.frontHeld := rfl
@[simp] theorem State.modCore_frontMiss : (s.modCore n k).frontMiss = s.frontMiss := rfl
@[simp] theorem State.modCore_frontWaits : (s.modCore n k).frontWaits = s.frontWaits := rfl
@[simp] theorem State.modCore_spires : (s.modCore n k).spires = s.spires := rfl
@[simp] theorem State.modCore_tornDown : (s.modCore n k).tornDown = s.tornDown := rfl
@[simp] theorem State.modCore_discards : (s.modCore n k).discards = s.discards := rfl
@[simp] theorem State.modCore_lostCount : (s.modCore n k).lostCount = s.lostCount := rfl
@[simp] theorem State.modCore_podPos : (s.modCore n k).podPos = s.podPos := rfl
@[simp] theorem State.modCore_events : (s.modCore n k).events = s.events := rfl
@[simp] theorem State.modCore_windows : (s.modCore n k).windows = s.windows := rfl
@[simp] theorem State.modCore_rowFallbacks : (s.modCore n k).rowFallbacks = s.rowFallbacks := rfl
@[simp] theorem State.modCore_rowRetired : (s.modCore n k).rowRetired = s.rowRetired := rfl
@[simp] theorem State.modCore_rowsSpared : (s.modCore n k).rowsSpared = s.rowsSpared := rfl
@[simp] theorem State.modCore_waysRetired : (s.modCore n k).waysRetired = s.waysRetired := rfl
@[simp] theorem State.modCore_launches : (s.modCore n k).launches = s.launches := rfl
@[simp] theorem State.modCore_nextLaunch : (s.modCore n k).nextLaunch = s.nextLaunch := rfl
@[simp] theorem State.modCore_pool : (s.modCore n k).pool = s.pool := rfl
@[simp] theorem State.modCore_bypass : (s.modCore n k).bypass = s.bypass := rfl
@[simp] theorem State.modCore_agen : (s.modCore n k).agen = s.agen := rfl
@[simp] theorem State.modCore_ageb : (s.modCore n k).ageb = s.ageb := rfl
@[simp] theorem State.modCore_dispatches : (s.modCore n k).dispatches = s.dispatches := rfl
@[simp] theorem State.modCore_hooks : (s.modCore n k).hooks = s.hooks := rfl
@[simp] theorem State.modCore_chains : (s.modCore n k).chains = s.chains := rfl
@[simp] theorem State.modCore_graphs : (s.modCore n k).graphs = s.graphs := rfl
@[simp] theorem State.modCore_nextHandle : (s.modCore n k).nextHandle = s.nextHandle := rfl
@[simp] theorem State.modCore_chunks : (s.modCore n k).chunks = s.chunks := rfl
@[simp] theorem State.modCore_visits : (s.modCore n k).visits = s.visits := rfl
@[simp] theorem State.modCore_chunkDeficits : (s.modCore n k).chunkDeficits = s.chunkDeficits := rfl
@[simp] theorem State.modCore_chunkVisit : (s.modCore n k).chunkVisit = s.chunkVisit := rfl
@[simp] theorem State.modCore_spireOut : (s.modCore n k).spireOut = s.spireOut := rfl
@[simp] theorem State.modCore_imageCmds : (s.modCore n k).imageCmds = s.imageCmds := rfl
@[simp] theorem State.modCore_imageAsks : (s.modCore n k).imageAsks = s.imageAsks := rfl
@[simp] theorem State.modCore_points : (s.modCore n k).points = s.points := rfl
@[simp] theorem State.modCore_rising : (s.modCore n k).rising = s.rising := rfl
@[simp] theorem State.modCore_allowed : (s.modCore n k).allowed = s.allowed := rfl
@[simp] theorem State.modCore_powerLimit : (s.modCore n k).powerLimit = s.powerLimit := rfl
@[simp] theorem State.modCore_periods : (s.modCore n k).periods = s.periods := rfl
@[simp] theorem State.modCore_carried : (s.modCore n k).carried = s.carried := rfl
@[simp] theorem State.modCore_charges : (s.modCore n k).charges = s.charges := rfl
@[simp] theorem State.modCore_energy : (s.modCore n k).energy = s.energy := rfl
@[simp] theorem State.modCore_mirrored : (s.modCore n k).mirrored = s.mirrored := rfl
@[simp] theorem State.modCore_mgmt : (s.modCore n k).mgmt = s.mgmt := rfl
@[simp] theorem State.modCore_requests : (s.modCore n k).requests = s.requests := rfl
@[simp] theorem State.modCore_booted : (s.modCore n k).booted = s.booted := rfl
@[simp] theorem State.modCore_hostSaw : (s.modCore n k).hostSaw = s.hostSaw := rfl
@[simp] theorem State.modCore_ready : (s.modCore n k).ready = s.ready := rfl
@[simp] theorem State.modCore_degraded : (s.modCore n k).degraded = s.degraded := rfl
@[simp] theorem State.modCore_running : (s.modCore n k).running = s.running := rfl
@[simp] theorem State.modCore_attested : (s.modCore n k).attested = s.attested := rfl
@[simp] theorem State.modCore_defects : (s.modCore n k).defects = s.defects := rfl
@[simp] theorem State.modCore_bootFails : (s.modCore n k).bootFails = s.bootFails := rfl
@[simp] theorem State.modCore_stored : (s.modCore n k).stored = s.stored := rfl

/-! ### State.free -/

@[simp] theorem State.free_turns : (s.free.2).turns = s.turns := rfl
@[simp] theorem State.free_agenda : (s.free.2).agenda = s.agenda := rfl
@[simp] theorem State.free_issue : (s.free.2).issue = s.issue := rfl
@[simp] theorem State.free_freeIdx : (s.free.2).freeIdx = s.freeIdx + 1 := rfl
@[simp] theorem State.free_last : (s.free.2).last = s.last := rfl
@[simp] theorem State.free_lastUnit : (s.free.2).lastUnit = s.lastUnit := rfl
@[simp] theorem State.free_cycles : (s.free.2).cycles = s.cycles := rfl
@[simp] theorem State.free_ctxs : (s.free.2).ctxs = s.ctxs := rfl
@[simp] theorem State.free_nextCtx : (s.free.2).nextCtx = s.nextCtx := rfl
@[simp] theorem State.free_cores : (s.free.2).cores = s.cores := rfl
@[simp] theorem State.free_arrays : (s.free.2).arrays = s.arrays := rfl
@[simp] theorem State.free_channels : (s.free.2).channels = s.channels := rfl
@[simp] theorem State.free_remoteData : (s.free.2).remoteData = s.remoteData := rfl
@[simp] theorem State.free_dram : (s.free.2).dram = s.dram := rfl
@[simp] theorem State.free_dramMarks : (s.free.2).dramMarks = s.dramMarks := rfl
@[simp] theorem State.free_sysMem : (s.free.2).sysMem = s.sysMem := rfl
@[simp] theorem State.free_sysMarks : (s.free.2).sysMarks = s.sysMarks := rfl
@[simp] theorem State.free_scopeBars : (s.free.2).scopeBars = s.scopeBars := rfl
@[simp] theorem State.free_cmds : (s.free.2).cmds = s.cmds := rfl
@[simp] theorem State.free_nextCmd : (s.free.2).nextCmd = s.nextCmd := rfl
@[simp] theorem State.free_launchAsks : (s.free.2).launchAsks = s.launchAsks := rfl
@[simp] theorem State.free_nextAsk : (s.free.2).nextAsk = s.nextAsk := rfl
@[simp] theorem State.free_parts : (s.free.2).parts = s.parts := rfl
@[simp] theorem State.free_domains : (s.free.2).domains = s.domains := rfl
@[simp] theorem State.free_epochs : (s.free.2).epochs = s.epochs := rfl
@[simp] theorem State.free_tags : (s.free.2).tags = s.tags := rfl
@[simp] theorem State.free_colours : (s.free.2).colours = s.colours := rfl
@[simp] theorem State.free_notices : (s.free.2).notices = s.notices := rfl
@[simp] theorem State.free_noticesDue : (s.free.2).noticesDue = s.noticesDue := rfl
@[simp] theorem State.free_reportsDue : (s.free.2).reportsDue = s.reportsDue := rfl
@[simp] theorem State.free_images : (s.free.2).images = s.images := rfl
@[simp] theorem State.free_imageCtxs : (s.free.2).imageCtxs = s.imageCtxs := rfl
@[simp] theorem State.free_nextImageCtx : (s.free.2).nextImageCtx = s.nextImageCtx := rfl
@[simp] theorem State.free_ports : (s.free.2).ports = s.ports := rfl
@[simp] theorem State.free_vfs : (s.free.2).vfs = s.vfs := rfl
@[simp] theorem State.free_pendings : (s.free.2).pendings = s.pendings := rfl
@[simp] theorem State.free_unsent : (s.free.2).unsent = s.unsent := rfl
@[simp] theorem State.free_frontHeld : (s.free.2).frontHeld = s.frontHeld := rfl
@[simp] theorem State.free_frontMiss : (s.free.2).frontMiss = s.frontMiss := rfl
@[simp] theorem State.free_frontWaits : (s.free.2).frontWaits = s.frontWaits := rfl
@[simp] theorem State.free_spires : (s.free.2).spires = s.spires := rfl
@[simp] theorem State.free_tornDown : (s.free.2).tornDown = s.tornDown := rfl
@[simp] theorem State.free_discards : (s.free.2).discards = s.discards := rfl
@[simp] theorem State.free_lostCount : (s.free.2).lostCount = s.lostCount := rfl
@[simp] theorem State.free_podPos : (s.free.2).podPos = s.podPos := rfl
@[simp] theorem State.free_events : (s.free.2).events = s.events := rfl
@[simp] theorem State.free_windows : (s.free.2).windows = s.windows := rfl
@[simp] theorem State.free_rowFallbacks : (s.free.2).rowFallbacks = s.rowFallbacks := rfl
@[simp] theorem State.free_rowRetired : (s.free.2).rowRetired = s.rowRetired := rfl
@[simp] theorem State.free_rowsSpared : (s.free.2).rowsSpared = s.rowsSpared := rfl
@[simp] theorem State.free_waysRetired : (s.free.2).waysRetired = s.waysRetired := rfl
@[simp] theorem State.free_launches : (s.free.2).launches = s.launches := rfl
@[simp] theorem State.free_nextLaunch : (s.free.2).nextLaunch = s.nextLaunch := rfl
@[simp] theorem State.free_pool : (s.free.2).pool = s.pool := rfl
@[simp] theorem State.free_bypass : (s.free.2).bypass = s.bypass := rfl
@[simp] theorem State.free_agen : (s.free.2).agen = s.agen := rfl
@[simp] theorem State.free_ageb : (s.free.2).ageb = s.ageb := rfl
@[simp] theorem State.free_dispatches : (s.free.2).dispatches = s.dispatches := rfl
@[simp] theorem State.free_hooks : (s.free.2).hooks = s.hooks := rfl
@[simp] theorem State.free_chains : (s.free.2).chains = s.chains := rfl
@[simp] theorem State.free_graphs : (s.free.2).graphs = s.graphs := rfl
@[simp] theorem State.free_nextHandle : (s.free.2).nextHandle = s.nextHandle := rfl
@[simp] theorem State.free_chunks : (s.free.2).chunks = s.chunks := rfl
@[simp] theorem State.free_visits : (s.free.2).visits = s.visits := rfl
@[simp] theorem State.free_chunkDeficits : (s.free.2).chunkDeficits = s.chunkDeficits := rfl
@[simp] theorem State.free_chunkVisit : (s.free.2).chunkVisit = s.chunkVisit := rfl
@[simp] theorem State.free_spireOut : (s.free.2).spireOut = s.spireOut := rfl
@[simp] theorem State.free_imageCmds : (s.free.2).imageCmds = s.imageCmds := rfl
@[simp] theorem State.free_imageAsks : (s.free.2).imageAsks = s.imageAsks := rfl
@[simp] theorem State.free_points : (s.free.2).points = s.points := rfl
@[simp] theorem State.free_rising : (s.free.2).rising = s.rising := rfl
@[simp] theorem State.free_allowed : (s.free.2).allowed = s.allowed := rfl
@[simp] theorem State.free_powerLimit : (s.free.2).powerLimit = s.powerLimit := rfl
@[simp] theorem State.free_periods : (s.free.2).periods = s.periods := rfl
@[simp] theorem State.free_carried : (s.free.2).carried = s.carried := rfl
@[simp] theorem State.free_charges : (s.free.2).charges = s.charges := rfl
@[simp] theorem State.free_energy : (s.free.2).energy = s.energy := rfl
@[simp] theorem State.free_mirrored : (s.free.2).mirrored = s.mirrored := rfl
@[simp] theorem State.free_mgmt : (s.free.2).mgmt = s.mgmt := rfl
@[simp] theorem State.free_requests : (s.free.2).requests = s.requests := rfl
@[simp] theorem State.free_booted : (s.free.2).booted = s.booted := rfl
@[simp] theorem State.free_hostSaw : (s.free.2).hostSaw = s.hostSaw := rfl
@[simp] theorem State.free_ready : (s.free.2).ready = s.ready := rfl
@[simp] theorem State.free_degraded : (s.free.2).degraded = s.degraded := rfl
@[simp] theorem State.free_running : (s.free.2).running = s.running := rfl
@[simp] theorem State.free_attested : (s.free.2).attested = s.attested := rfl
@[simp] theorem State.free_defects : (s.free.2).defects = s.defects := rfl
@[simp] theorem State.free_bootFails : (s.free.2).bootFails = s.bootFails := rfl
@[simp] theorem State.free_stored : (s.free.2).stored = s.stored := rfl

/-! ### State.freeBytes -/

@[simp] theorem State.freeBytes_turns : ((s.freeBytes n).2).turns = s.turns := rfl
@[simp] theorem State.freeBytes_agenda : ((s.freeBytes n).2).agenda = s.agenda := rfl
@[simp] theorem State.freeBytes_issue : ((s.freeBytes n).2).issue = s.issue := rfl
@[simp] theorem State.freeBytes_freeIdx : ((s.freeBytes n).2).freeIdx = s.freeIdx + n := rfl
@[simp] theorem State.freeBytes_last : ((s.freeBytes n).2).last = s.last := rfl
@[simp] theorem State.freeBytes_lastUnit : ((s.freeBytes n).2).lastUnit = s.lastUnit := rfl
@[simp] theorem State.freeBytes_cycles : ((s.freeBytes n).2).cycles = s.cycles := rfl
@[simp] theorem State.freeBytes_ctxs : ((s.freeBytes n).2).ctxs = s.ctxs := rfl
@[simp] theorem State.freeBytes_nextCtx : ((s.freeBytes n).2).nextCtx = s.nextCtx := rfl
@[simp] theorem State.freeBytes_cores : ((s.freeBytes n).2).cores = s.cores := rfl
@[simp] theorem State.freeBytes_arrays : ((s.freeBytes n).2).arrays = s.arrays := rfl
@[simp] theorem State.freeBytes_channels : ((s.freeBytes n).2).channels = s.channels := rfl
@[simp] theorem State.freeBytes_remoteData : ((s.freeBytes n).2).remoteData = s.remoteData := rfl
@[simp] theorem State.freeBytes_dram : ((s.freeBytes n).2).dram = s.dram := rfl
@[simp] theorem State.freeBytes_dramMarks : ((s.freeBytes n).2).dramMarks = s.dramMarks := rfl
@[simp] theorem State.freeBytes_sysMem : ((s.freeBytes n).2).sysMem = s.sysMem := rfl
@[simp] theorem State.freeBytes_sysMarks : ((s.freeBytes n).2).sysMarks = s.sysMarks := rfl
@[simp] theorem State.freeBytes_scopeBars : ((s.freeBytes n).2).scopeBars = s.scopeBars := rfl
@[simp] theorem State.freeBytes_cmds : ((s.freeBytes n).2).cmds = s.cmds := rfl
@[simp] theorem State.freeBytes_nextCmd : ((s.freeBytes n).2).nextCmd = s.nextCmd := rfl
@[simp] theorem State.freeBytes_launchAsks : ((s.freeBytes n).2).launchAsks = s.launchAsks := rfl
@[simp] theorem State.freeBytes_nextAsk : ((s.freeBytes n).2).nextAsk = s.nextAsk := rfl
@[simp] theorem State.freeBytes_parts : ((s.freeBytes n).2).parts = s.parts := rfl
@[simp] theorem State.freeBytes_domains : ((s.freeBytes n).2).domains = s.domains := rfl
@[simp] theorem State.freeBytes_epochs : ((s.freeBytes n).2).epochs = s.epochs := rfl
@[simp] theorem State.freeBytes_tags : ((s.freeBytes n).2).tags = s.tags := rfl
@[simp] theorem State.freeBytes_colours : ((s.freeBytes n).2).colours = s.colours := rfl
@[simp] theorem State.freeBytes_notices : ((s.freeBytes n).2).notices = s.notices := rfl
@[simp] theorem State.freeBytes_noticesDue : ((s.freeBytes n).2).noticesDue = s.noticesDue := rfl
@[simp] theorem State.freeBytes_reportsDue : ((s.freeBytes n).2).reportsDue = s.reportsDue := rfl
@[simp] theorem State.freeBytes_images : ((s.freeBytes n).2).images = s.images := rfl
@[simp] theorem State.freeBytes_imageCtxs : ((s.freeBytes n).2).imageCtxs = s.imageCtxs := rfl
@[simp] theorem State.freeBytes_nextImageCtx : ((s.freeBytes n).2).nextImageCtx = s.nextImageCtx := rfl
@[simp] theorem State.freeBytes_ports : ((s.freeBytes n).2).ports = s.ports := rfl
@[simp] theorem State.freeBytes_vfs : ((s.freeBytes n).2).vfs = s.vfs := rfl
@[simp] theorem State.freeBytes_pendings : ((s.freeBytes n).2).pendings = s.pendings := rfl
@[simp] theorem State.freeBytes_unsent : ((s.freeBytes n).2).unsent = s.unsent := rfl
@[simp] theorem State.freeBytes_frontHeld : ((s.freeBytes n).2).frontHeld = s.frontHeld := rfl
@[simp] theorem State.freeBytes_frontMiss : ((s.freeBytes n).2).frontMiss = s.frontMiss := rfl
@[simp] theorem State.freeBytes_frontWaits : ((s.freeBytes n).2).frontWaits = s.frontWaits := rfl
@[simp] theorem State.freeBytes_spires : ((s.freeBytes n).2).spires = s.spires := rfl
@[simp] theorem State.freeBytes_tornDown : ((s.freeBytes n).2).tornDown = s.tornDown := rfl
@[simp] theorem State.freeBytes_discards : ((s.freeBytes n).2).discards = s.discards := rfl
@[simp] theorem State.freeBytes_lostCount : ((s.freeBytes n).2).lostCount = s.lostCount := rfl
@[simp] theorem State.freeBytes_podPos : ((s.freeBytes n).2).podPos = s.podPos := rfl
@[simp] theorem State.freeBytes_events : ((s.freeBytes n).2).events = s.events := rfl
@[simp] theorem State.freeBytes_windows : ((s.freeBytes n).2).windows = s.windows := rfl
@[simp] theorem State.freeBytes_rowFallbacks : ((s.freeBytes n).2).rowFallbacks = s.rowFallbacks := rfl
@[simp] theorem State.freeBytes_rowRetired : ((s.freeBytes n).2).rowRetired = s.rowRetired := rfl
@[simp] theorem State.freeBytes_rowsSpared : ((s.freeBytes n).2).rowsSpared = s.rowsSpared := rfl
@[simp] theorem State.freeBytes_waysRetired : ((s.freeBytes n).2).waysRetired = s.waysRetired := rfl
@[simp] theorem State.freeBytes_launches : ((s.freeBytes n).2).launches = s.launches := rfl
@[simp] theorem State.freeBytes_nextLaunch : ((s.freeBytes n).2).nextLaunch = s.nextLaunch := rfl
@[simp] theorem State.freeBytes_pool : ((s.freeBytes n).2).pool = s.pool := rfl
@[simp] theorem State.freeBytes_bypass : ((s.freeBytes n).2).bypass = s.bypass := rfl
@[simp] theorem State.freeBytes_agen : ((s.freeBytes n).2).agen = s.agen := rfl
@[simp] theorem State.freeBytes_ageb : ((s.freeBytes n).2).ageb = s.ageb := rfl
@[simp] theorem State.freeBytes_dispatches : ((s.freeBytes n).2).dispatches = s.dispatches := rfl
@[simp] theorem State.freeBytes_hooks : ((s.freeBytes n).2).hooks = s.hooks := rfl
@[simp] theorem State.freeBytes_chains : ((s.freeBytes n).2).chains = s.chains := rfl
@[simp] theorem State.freeBytes_graphs : ((s.freeBytes n).2).graphs = s.graphs := rfl
@[simp] theorem State.freeBytes_nextHandle : ((s.freeBytes n).2).nextHandle = s.nextHandle := rfl
@[simp] theorem State.freeBytes_chunks : ((s.freeBytes n).2).chunks = s.chunks := rfl
@[simp] theorem State.freeBytes_visits : ((s.freeBytes n).2).visits = s.visits := rfl
@[simp] theorem State.freeBytes_chunkDeficits : ((s.freeBytes n).2).chunkDeficits = s.chunkDeficits := rfl
@[simp] theorem State.freeBytes_chunkVisit : ((s.freeBytes n).2).chunkVisit = s.chunkVisit := rfl
@[simp] theorem State.freeBytes_spireOut : ((s.freeBytes n).2).spireOut = s.spireOut := rfl
@[simp] theorem State.freeBytes_imageCmds : ((s.freeBytes n).2).imageCmds = s.imageCmds := rfl
@[simp] theorem State.freeBytes_imageAsks : ((s.freeBytes n).2).imageAsks = s.imageAsks := rfl
@[simp] theorem State.freeBytes_points : ((s.freeBytes n).2).points = s.points := rfl
@[simp] theorem State.freeBytes_rising : ((s.freeBytes n).2).rising = s.rising := rfl
@[simp] theorem State.freeBytes_allowed : ((s.freeBytes n).2).allowed = s.allowed := rfl
@[simp] theorem State.freeBytes_powerLimit : ((s.freeBytes n).2).powerLimit = s.powerLimit := rfl
@[simp] theorem State.freeBytes_periods : ((s.freeBytes n).2).periods = s.periods := rfl
@[simp] theorem State.freeBytes_carried : ((s.freeBytes n).2).carried = s.carried := rfl
@[simp] theorem State.freeBytes_charges : ((s.freeBytes n).2).charges = s.charges := rfl
@[simp] theorem State.freeBytes_energy : ((s.freeBytes n).2).energy = s.energy := rfl
@[simp] theorem State.freeBytes_mirrored : ((s.freeBytes n).2).mirrored = s.mirrored := rfl
@[simp] theorem State.freeBytes_mgmt : ((s.freeBytes n).2).mgmt = s.mgmt := rfl
@[simp] theorem State.freeBytes_requests : ((s.freeBytes n).2).requests = s.requests := rfl
@[simp] theorem State.freeBytes_booted : ((s.freeBytes n).2).booted = s.booted := rfl
@[simp] theorem State.freeBytes_hostSaw : ((s.freeBytes n).2).hostSaw = s.hostSaw := rfl
@[simp] theorem State.freeBytes_ready : ((s.freeBytes n).2).ready = s.ready := rfl
@[simp] theorem State.freeBytes_degraded : ((s.freeBytes n).2).degraded = s.degraded := rfl
@[simp] theorem State.freeBytes_running : ((s.freeBytes n).2).running = s.running := rfl
@[simp] theorem State.freeBytes_attested : ((s.freeBytes n).2).attested = s.attested := rfl
@[simp] theorem State.freeBytes_defects : ((s.freeBytes n).2).defects = s.defects := rfl
@[simp] theorem State.freeBytes_bootFails : ((s.freeBytes n).2).bootFails = s.bootFails := rfl
@[simp] theorem State.freeBytes_stored : ((s.freeBytes n).2).stored = s.stored := rfl

/-! ### Ctx.modGang -/

@[simp] theorem Ctx.modGang_part (x : Ctx) : (x.modGang g h).part = x.part := rfl
@[simp] theorem Ctx.modGang_khdr (x : Ctx) : (x.modGang g h).khdr = x.khdr := rfl
@[simp] theorem Ctx.modGang_regsN (x : Ctx) : (x.modGang g h).regsN = x.regsN := rfl
@[simp] theorem Ctx.modGang_gangsN (x : Ctx) : (x.modGang g h).gangsN = x.gangsN := rfl
@[simp] theorem Ctx.modGang_nbar (x : Ctx) : (x.modGang g h).nbar = x.nbar := rfl
@[simp] theorem Ctx.modGang_scratch (x : Ctx) : (x.modGang g h).scratch = x.scratch := rfl
@[simp] theorem Ctx.modGang_prio (x : Ctx) : (x.modGang g h).prio = x.prio := rfl
@[simp] theorem Ctx.modGang_oppoint (x : Ctx) : (x.modGang g h).oppoint = x.oppoint := rfl
@[simp] theorem Ctx.modGang_codeBase (x : Ctx) : (x.modGang g h).codeBase = x.codeBase := rfl
@[simp] theorem Ctx.modGang_codeSize (x : Ctx) : (x.modGang g h).codeSize = x.codeSize := rfl
@[simp] theorem Ctx.modGang_jtabs (x : Ctx) : (x.modGang g h).jtabs = x.jtabs := rfl
@[simp] theorem Ctx.modGang_nwg (x : Ctx) : (x.modGang g h).nwg = x.nwg := rfl
@[simp] theorem Ctx.modGang_wgid (x : Ctx) : (x.modGang g h).wgid = x.wgid := rfl
@[simp] theorem Ctx.modGang_cbase (x : Ctx) : (x.modGang g h).cbase = x.cbase := rfl
@[simp] theorem Ctx.modGang_dataAt (x : Ctx) : (x.modGang g h).dataAt = x.dataAt := rfl
@[simp] theorem Ctx.modGang_dataSize (x : Ctx) : (x.modGang g h).dataSize = x.dataSize := rfl
@[simp] theorem Ctx.modGang_karg (x : Ctx) : (x.modGang g h).karg = x.karg := rfl
@[simp] theorem Ctx.modGang_lmode (x : Ctx) : (x.modGang g h).lmode = x.lmode := rfl
@[simp] theorem Ctx.modGang_npre (x : Ctx) : (x.modGang g h).npre = x.npre := rfl
@[simp] theorem Ctx.modGang_depth (x : Ctx) : (x.modGang g h).depth = x.depth := rfl
@[simp] theorem Ctx.modGang_launch (x : Ctx) : (x.modGang g h).launch = x.launch := rfl
@[simp] theorem Ctx.modGang_wdog (x : Ctx) : (x.modGang g h).wdog = x.wdog := rfl
@[simp] theorem Ctx.modGang_wdcap (x : Ctx) : (x.modGang g h).wdcap = x.wdcap := rfl
@[simp] theorem Ctx.modGang_preempt (x : Ctx) : (x.modGang g h).preempt = x.preempt := rfl
@[simp] theorem Ctx.modGang_core (x : Ctx) : (x.modGang g h).core = x.core := rfl
@[simp] theorem Ctx.modGang_half (x : Ctx) : (x.modGang g h).half = x.half := rfl
@[simp] theorem Ctx.modGang_base (x : Ctx) : (x.modGang g h).base = x.base := rfl
@[simp] theorem Ctx.modGang_gangs (x : Ctx) : (x.modGang g h).gangs = mapNth g h x.gangs := rfl
@[simp] theorem Ctx.modGang_window (x : Ctx) : (x.modGang g h).window = x.window := rfl
@[simp] theorem Ctx.modGang_windowMarks (x : Ctx) : (x.modGang g h).windowMarks = x.windowMarks := rfl
@[simp] theorem Ctx.modGang_seq (x : Ctx) : (x.modGang g h).seq = x.seq := rfl
@[simp] theorem Ctx.modGang_slots (x : Ctx) : (x.modGang g h).slots = x.slots := rfl
@[simp] theorem Ctx.modGang_bars (x : Ctx) : (x.modGang g h).bars = x.bars := rfl
@[simp] theorem Ctx.modGang_run (x : Ctx) : (x.modGang g h).run = x.run := rfl
@[simp] theorem Ctx.modGang_cause (x : Ctx) : (x.modGang g h).cause = x.cause := rfl
@[simp] theorem Ctx.modGang_fault (x : Ctx) : (x.modGang g h).fault = x.fault := rfl
@[simp] theorem Ctx.modGang_watches (x : Ctx) : (x.modGang g h).watches = x.watches := rfl
@[simp] theorem Ctx.modGang_ccount (x : Ctx) : (x.modGang g h).ccount = x.ccount := rfl
@[simp] theorem Ctx.modGang_groups (x : Ctx) : (x.modGang g h).groups = x.groups := rfl
@[simp] theorem Ctx.modGang_nextGroup (x : Ctx) : (x.modGang g h).nextGroup = x.nextGroup := rfl
@[simp] theorem Ctx.modGang_gatherings (x : Ctx) : (x.modGang g h).gatherings = x.gatherings := rfl
@[simp] theorem Ctx.modGang_svc (x : Ctx) : (x.modGang g h).svc = x.svc := rfl
@[simp] theorem Ctx.modGang_tags (x : Ctx) : (x.modGang g h).tags = x.tags := rfl
@[simp] theorem Ctx.modGang_tag0 (x : Ctx) : (x.modGang g h).tag0 = x.tag0 := rfl
@[simp] theorem Ctx.modGang_order (x : Ctx) : (x.modGang g h).order = x.order := rfl
@[simp] theorem Ctx.modGang_also (x : Ctx) : (x.modGang g h).also = x.also := rfl
@[simp] theorem Ctx.modGang_origin (x : Ctx) : (x.modGang g h).origin = x.origin := rfl
@[simp] theorem Ctx.modGang_heldArray (x : Ctx) : (x.modGang g h).heldArray = x.heldArray := rfl
@[simp] theorem Ctx.modGang_acq (x : Ctx) : (x.modGang g h).acq = x.acq := rfl

/-! ### Gang.modSlices, Gang.setReg, Gang.setLanes, Gang.setScalar -/

@[simp] theorem Gang.modSlices_slices (y : Gang) (m : Nat) (w : Nat → Slice → Slice) : (y.modSlices m w).slices = y.slices.mapIdx (fun i sl => if bit m i then w i sl else sl) := rfl
@[simp] theorem Gang.modSlices_regs (y : Gang) (m : Nat) (w : Nat → Slice → Slice) : (y.modSlices m w).regs = y.regs := rfl
@[simp] theorem Gang.modSlices_flags (y : Gang) (m : Nat) (w : Nat → Slice → Slice) : (y.modSlices m w).flags = y.flags := rfl
@[simp] theorem Gang.modSlices_frames (y : Gang) (m : Nat) (w : Nat → Slice → Slice) : (y.modSlices m w).frames = y.frames := rfl
@[simp] theorem Gang.modSlices_quantum (y : Gang) (m : Nat) (w : Nat → Slice → Slice) : (y.modSlices m w).quantum = y.quantum := rfl
@[simp] theorem Gang.modSlices_cur (y : Gang) (m : Nat) (w : Nat → Slice → Slice) : (y.modSlices m w).cur = y.cur := rfl
@[simp] theorem Gang.modSlices_staging (y : Gang) (m : Nat) (w : Nat → Slice → Slice) : (y.modSlices m w).staging = y.staging := rfl
@[simp] theorem Gang.modSlices_pend (y : Gang) (m : Nat) (w : Nat → Slice → Slice) : (y.modSlices m w).pend = y.pend := rfl
@[simp] theorem Gang.modSlices_accesses (y : Gang) (m : Nat) (w : Nat → Slice → Slice) : (y.modSlices m w).accesses = y.accesses := rfl
@[simp] theorem Gang.modSlices_nextAccess (y : Gang) (m : Nat) (w : Nat → Slice → Slice) : (y.modSlices m w).nextAccess = y.nextAccess := rfl
@[simp] theorem Gang.modSlices_clauses (y : Gang) (m : Nat) (w : Nat → Slice → Slice) : (y.modSlices m w).clauses = y.clauses := rfl
@[simp] theorem Gang.modSlices_marks (y : Gang) (m : Nat) (w : Nat → Slice → Slice) : (y.modSlices m w).marks = y.marks := rfl
@[simp] theorem Gang.modSlices_phases (y : Gang) (m : Nat) (w : Nat → Slice → Slice) : (y.modSlices m w).phases = y.phases := rfl
@[simp] theorem Gang.modSlices_lost (y : Gang) (m : Nat) (w : Nat → Slice → Slice) : (y.modSlices m w).lost = y.lost := rfl
@[simp] theorem Gang.modSlices_faulted (y : Gang) (m : Nat) (w : Nat → Slice → Slice) : (y.modSlices m w).faulted = y.faulted := rfl
@[simp] theorem Gang.modSlices_ended (y : Gang) (m : Nat) (w : Nat → Slice → Slice) : (y.modSlices m w).ended = y.ended := rfl
@[simp] theorem Gang.modSlices_unit (y : Gang) (m : Nat) (w : Nat → Slice → Slice) : (y.modSlices m w).unit = y.unit := rfl
@[simp] theorem Gang.modSlices_slot (y : Gang) (m : Nat) (w : Nat → Slice → Slice) : (y.modSlices m w).slot = y.slot := rfl
@[simp] theorem Gang.setReg_slices (y : Gang) (r l : Nat) (v : LaneVal) : (y.setReg r l v).slices = y.slices := rfl
@[simp] theorem Gang.setReg_regs (y : Gang) (r l : Nat) (v : LaneVal) : (y.setReg r l v).regs = Tab.write {} (32 * r + l) v y.regs := rfl
@[simp] theorem Gang.setReg_flags (y : Gang) (r l : Nat) (v : LaneVal) : (y.setReg r l v).flags = y.flags := rfl
@[simp] theorem Gang.setReg_frames (y : Gang) (r l : Nat) (v : LaneVal) : (y.setReg r l v).frames = y.frames := rfl
@[simp] theorem Gang.setReg_quantum (y : Gang) (r l : Nat) (v : LaneVal) : (y.setReg r l v).quantum = y.quantum := rfl
@[simp] theorem Gang.setReg_cur (y : Gang) (r l : Nat) (v : LaneVal) : (y.setReg r l v).cur = y.cur := rfl
@[simp] theorem Gang.setReg_staging (y : Gang) (r l : Nat) (v : LaneVal) : (y.setReg r l v).staging = y.staging := rfl
@[simp] theorem Gang.setReg_pend (y : Gang) (r l : Nat) (v : LaneVal) : (y.setReg r l v).pend = y.pend := rfl
@[simp] theorem Gang.setReg_accesses (y : Gang) (r l : Nat) (v : LaneVal) : (y.setReg r l v).accesses = y.accesses := rfl
@[simp] theorem Gang.setReg_nextAccess (y : Gang) (r l : Nat) (v : LaneVal) : (y.setReg r l v).nextAccess = y.nextAccess := rfl
@[simp] theorem Gang.setReg_clauses (y : Gang) (r l : Nat) (v : LaneVal) : (y.setReg r l v).clauses = y.clauses := rfl
@[simp] theorem Gang.setReg_marks (y : Gang) (r l : Nat) (v : LaneVal) : (y.setReg r l v).marks = y.marks := rfl
@[simp] theorem Gang.setReg_phases (y : Gang) (r l : Nat) (v : LaneVal) : (y.setReg r l v).phases = y.phases := rfl
@[simp] theorem Gang.setReg_lost (y : Gang) (r l : Nat) (v : LaneVal) : (y.setReg r l v).lost = y.lost := rfl
@[simp] theorem Gang.setReg_faulted (y : Gang) (r l : Nat) (v : LaneVal) : (y.setReg r l v).faulted = y.faulted := rfl
@[simp] theorem Gang.setReg_ended (y : Gang) (r l : Nat) (v : LaneVal) : (y.setReg r l v).ended = y.ended := rfl
@[simp] theorem Gang.setReg_unit (y : Gang) (r l : Nat) (v : LaneVal) : (y.setReg r l v).unit = y.unit := rfl
@[simp] theorem Gang.setReg_slot (y : Gang) (r l : Nat) (v : LaneVal) : (y.setReg r l v).slot = y.slot := rfl

/-- Writing lanes of a register changes registers alone. -/
theorem Gang.setLanes_eq (r : Nat) (vs : List (Nat × LaneVal)) (y : Gang) :
    y.setLanes r vs = { y with regs := (y.setLanes r vs).regs } := by
  induction vs generalizing y with
  | nil => rfl
  | cons e t ih => rw [Gang.setLanes, ih]; rfl

@[simp] theorem Gang.setLanes_slices (y : Gang) (r : Nat) (vs : List (Nat × LaneVal)) : (y.setLanes r vs).slices = y.slices := by
  rw [Gang.setLanes_eq]
@[simp] theorem Gang.setLanes_flags (y : Gang) (r : Nat) (vs : List (Nat × LaneVal)) : (y.setLanes r vs).flags = y.flags := by
  rw [Gang.setLanes_eq]
@[simp] theorem Gang.setLanes_frames (y : Gang) (r : Nat) (vs : List (Nat × LaneVal)) : (y.setLanes r vs).frames = y.frames := by
  rw [Gang.setLanes_eq]
@[simp] theorem Gang.setLanes_quantum (y : Gang) (r : Nat) (vs : List (Nat × LaneVal)) : (y.setLanes r vs).quantum = y.quantum := by
  rw [Gang.setLanes_eq]
@[simp] theorem Gang.setLanes_cur (y : Gang) (r : Nat) (vs : List (Nat × LaneVal)) : (y.setLanes r vs).cur = y.cur := by
  rw [Gang.setLanes_eq]
@[simp] theorem Gang.setLanes_staging (y : Gang) (r : Nat) (vs : List (Nat × LaneVal)) : (y.setLanes r vs).staging = y.staging := by
  rw [Gang.setLanes_eq]
@[simp] theorem Gang.setLanes_pend (y : Gang) (r : Nat) (vs : List (Nat × LaneVal)) : (y.setLanes r vs).pend = y.pend := by
  rw [Gang.setLanes_eq]
@[simp] theorem Gang.setLanes_accesses (y : Gang) (r : Nat) (vs : List (Nat × LaneVal)) : (y.setLanes r vs).accesses = y.accesses := by
  rw [Gang.setLanes_eq]
@[simp] theorem Gang.setLanes_nextAccess (y : Gang) (r : Nat) (vs : List (Nat × LaneVal)) : (y.setLanes r vs).nextAccess = y.nextAccess := by
  rw [Gang.setLanes_eq]
@[simp] theorem Gang.setLanes_clauses (y : Gang) (r : Nat) (vs : List (Nat × LaneVal)) : (y.setLanes r vs).clauses = y.clauses := by
  rw [Gang.setLanes_eq]
@[simp] theorem Gang.setLanes_marks (y : Gang) (r : Nat) (vs : List (Nat × LaneVal)) : (y.setLanes r vs).marks = y.marks := by
  rw [Gang.setLanes_eq]
@[simp] theorem Gang.setLanes_phases (y : Gang) (r : Nat) (vs : List (Nat × LaneVal)) : (y.setLanes r vs).phases = y.phases := by
  rw [Gang.setLanes_eq]
@[simp] theorem Gang.setLanes_lost (y : Gang) (r : Nat) (vs : List (Nat × LaneVal)) : (y.setLanes r vs).lost = y.lost := by
  rw [Gang.setLanes_eq]
@[simp] theorem Gang.setLanes_faulted (y : Gang) (r : Nat) (vs : List (Nat × LaneVal)) : (y.setLanes r vs).faulted = y.faulted := by
  rw [Gang.setLanes_eq]
@[simp] theorem Gang.setLanes_ended (y : Gang) (r : Nat) (vs : List (Nat × LaneVal)) : (y.setLanes r vs).ended = y.ended := by
  rw [Gang.setLanes_eq]
@[simp] theorem Gang.setLanes_unit (y : Gang) (r : Nat) (vs : List (Nat × LaneVal)) : (y.setLanes r vs).unit = y.unit := by
  rw [Gang.setLanes_eq]
@[simp] theorem Gang.setLanes_slot (y : Gang) (r : Nat) (vs : List (Nat × LaneVal)) : (y.setLanes r vs).slot = y.slot := by
  rw [Gang.setLanes_eq]
@[simp] theorem Gang.setScalar_slices (y : Gang) (r m : Nat) (v : Word) : (y.setScalar r m v).slices = y.slices :=
  Gang.setLanes_slices ..
@[simp] theorem Gang.setScalar_flags (y : Gang) (r m : Nat) (v : Word) : (y.setScalar r m v).flags = y.flags :=
  Gang.setLanes_flags ..
@[simp] theorem Gang.setScalar_frames (y : Gang) (r m : Nat) (v : Word) : (y.setScalar r m v).frames = y.frames :=
  Gang.setLanes_frames ..
@[simp] theorem Gang.setScalar_quantum (y : Gang) (r m : Nat) (v : Word) : (y.setScalar r m v).quantum = y.quantum :=
  Gang.setLanes_quantum ..
@[simp] theorem Gang.setScalar_cur (y : Gang) (r m : Nat) (v : Word) : (y.setScalar r m v).cur = y.cur :=
  Gang.setLanes_cur ..
@[simp] theorem Gang.setScalar_staging (y : Gang) (r m : Nat) (v : Word) : (y.setScalar r m v).staging = y.staging :=
  Gang.setLanes_staging ..
@[simp] theorem Gang.setScalar_pend (y : Gang) (r m : Nat) (v : Word) : (y.setScalar r m v).pend = y.pend :=
  Gang.setLanes_pend ..
@[simp] theorem Gang.setScalar_accesses (y : Gang) (r m : Nat) (v : Word) : (y.setScalar r m v).accesses = y.accesses :=
  Gang.setLanes_accesses ..
@[simp] theorem Gang.setScalar_nextAccess (y : Gang) (r m : Nat) (v : Word) : (y.setScalar r m v).nextAccess = y.nextAccess :=
  Gang.setLanes_nextAccess ..
@[simp] theorem Gang.setScalar_clauses (y : Gang) (r m : Nat) (v : Word) : (y.setScalar r m v).clauses = y.clauses :=
  Gang.setLanes_clauses ..
@[simp] theorem Gang.setScalar_marks (y : Gang) (r m : Nat) (v : Word) : (y.setScalar r m v).marks = y.marks :=
  Gang.setLanes_marks ..
@[simp] theorem Gang.setScalar_phases (y : Gang) (r m : Nat) (v : Word) : (y.setScalar r m v).phases = y.phases :=
  Gang.setLanes_phases ..
@[simp] theorem Gang.setScalar_lost (y : Gang) (r m : Nat) (v : Word) : (y.setScalar r m v).lost = y.lost :=
  Gang.setLanes_lost ..
@[simp] theorem Gang.setScalar_faulted (y : Gang) (r m : Nat) (v : Word) : (y.setScalar r m v).faulted = y.faulted :=
  Gang.setLanes_faulted ..
@[simp] theorem Gang.setScalar_ended (y : Gang) (r m : Nat) (v : Word) : (y.setScalar r m v).ended = y.ended :=
  Gang.setLanes_ended ..
@[simp] theorem Gang.setScalar_unit (y : Gang) (r m : Nat) (v : Word) : (y.setScalar r m v).unit = y.unit :=
  Gang.setLanes_unit ..
@[simp] theorem Gang.setScalar_slot (y : Gang) (r m : Nat) (v : Word) : (y.setScalar r m v).slot = y.slot :=
  Gang.setLanes_slot ..

end Sys2Proof.Machine
end

