-- ==== Sys2Proof/Laws/Words.lean ====
section
/-! SUPPORT. What the end of a word, the saving of units and the frame of a computing word do, said once: they move
slices and nothing else (R62, R66, R95, R113, R117, R328), and the results stand in the destination register. -/

namespace Sys2Proof.Machine

/-! ### Lists -/

theorem nthOr_mapNth {α : Type} (d : α) (f : α → α) (l : List α) (n k : Nat) (h : n < l.length ∨ f d = d) :
    nthOr d (mapNth n f l) k = if k = n then f (nthOr d l k) else nthOr d l k := by
  induction l generalizing n k with
  | nil =>
    rcases h with h | h
    · simp at h
    · by_cases hk : k = n <;> simp [mapNth, nthOr, hk, h]
  | cons a t ih =>
    cases n with
    | zero => cases k <;> simp [mapNth, nthOr]
    | succ n =>
      cases k with
      | zero => simp [mapNth, nthOr]
      | succ k =>
        have := ih n k (by simpa using h)
        simpa [mapNth, nthOr] using this

@[simp] theorem length_mapNth {α : Type} (f : α → α) (l : List α) (n : Nat) : (mapNth n f l).length = l.length := by
  induction l generalizing n with
  | nil => simp [mapNth]
  | cons a t ih => cases n <;> simp [mapNth, ih]

/-- A relation that every image stands in holds of each element of a list after a change of one. -/
theorem rel_mapNth {α : Type} {R : α → α → Prop} (d : α) (f : α → α) (l : List α) (n k : Nat) (hr : ∀ a, R a a)
    (hf : ∀ a, R a (f a)) : R (nthOr d l k) (nthOr d (mapNth n f l) k) := by
  induction l generalizing n k with
  | nil => simp [mapNth]; exact hr _
  | cons a t ih =>
    cases n with
    | zero => cases k with
      | zero => simpa [mapNth, nthOr] using hf a
      | succ k => simpa [mapNth, nthOr] using hr _
    | succ n => cases k with
      | zero => simpa [mapNth, nthOr] using hr a
      | succ k => simpa [mapNth, nthOr] using ih n k

theorem rel_mapIdx {α : Type} {R : α → α → Prop} (d : α) (f : Nat → α → α) (l : List α) (k : Nat) (hr : ∀ a, R a a)
    (hf : ∀ i a, R a (f i a)) : R (nthOr d l k) (nthOr d (l.mapIdx f) k) := by
  unfold nthOr
  rw [List.getElem?_mapIdx]
  cases l[k]? with
  | none => exact hr _
  | some a => exact hf k a

theorem rel_map {α : Type} {R : α → α → Prop} (d : α) (f : α → α) (l : List α) (k : Nat) (hr : ∀ a, R a a)
    (hf : ∀ a, R a (f a)) : R (nthOr d l k) (nthOr d (l.map f) k) := by
  unfold nthOr
  rw [List.getElem?_map]
  cases l[k]? with
  | none => exact hr _
  | some a => exact hf a

/-! ### Slices, gangs and contexts are kept -/

theorem Slice.kept_refl (a : Slice) : a.kept a := rfl
theorem Slice.kept.trans {a b c : Slice} (h : a.kept b) (k : b.kept c) : a.kept c := by
  unfold Slice.kept at *
  rw [k, h]

/-- A gang that is kept with its registers. -/
def Gang.moves (a b : Gang) : Prop := a.kept b ∧ b.regs = a.regs
/-- A context whose gangs are kept with their registers. -/
def Ctx.moves (x y : Ctx) : Prop := x.kept y ∧ ∀ g, (y.gang g).regs = (x.gang g).regs
/-- A state whose contexts are kept with their registers. -/
def State.moves (s t : State) : Prop := s.kept t ∧ ∀ c g r l, t.regAt c g r l = s.regAt c g r l

theorem Gang.kept_refl (a : Gang) : a.kept a := ⟨rfl, rfl, fun _ => Slice.kept_refl _, rfl⟩
theorem Gang.kept.trans {a b c : Gang} (h : a.kept b) (k : b.kept c) : a.kept c := by
  obtain ⟨h1, h2, h3, h4⟩ := h
  obtain ⟨k1, k2, k3, k4⟩ := k
  refine ⟨?_, k2.trans h2, fun i => (h3 i).trans (k3 i), k4.trans h4⟩
  rw [k1, h1]
theorem Gang.moves_refl (a : Gang) : a.moves a := ⟨a.kept_refl, rfl⟩
theorem Gang.moves.trans {a b c : Gang} (h : a.moves b) (k : b.moves c) : a.moves c :=
  ⟨h.1.trans k.1, k.2.trans h.2⟩
theorem Ctx.kept_refl (x : Ctx) : x.kept x := ⟨rfl, rfl, fun _ => Gang.kept_refl _⟩
theorem Ctx.kept.trans {x y z : Ctx} (h : x.kept y) (k : y.kept z) : x.kept z := by
  obtain ⟨h1, h2, h3⟩ := h
  obtain ⟨k1, k2, k3⟩ := k
  refine ⟨?_, k2.trans h2, fun g => (h3 g).trans (k3 g)⟩
  rw [k1, h1]
theorem Ctx.moves_refl (x : Ctx) : x.moves x := ⟨x.kept_refl, fun _ => rfl⟩
theorem Ctx.moves.trans {x y z : Ctx} (h : x.moves y) (k : y.moves z) : x.moves z :=
  ⟨h.1.trans k.1, fun g => (k.2 g).trans (h.2 g)⟩
theorem State.kept_refl (s : State) : s.kept s := ⟨rfl, fun _ => ⟨rfl, Ctx.kept_refl _⟩⟩
theorem State.kept.trans {s t u : State} (h : s.kept t) (k : t.kept u) : s.kept u := by
  obtain ⟨h1, h2⟩ := h
  obtain ⟨k1, k2⟩ := k
  refine ⟨?_, fun c => ⟨(k2 c).1.trans (h2 c).1, (h2 c).2.trans (k2 c).2⟩⟩
  rw [k1, h1]
theorem State.moves_refl (s : State) : s.moves s := ⟨s.kept_refl, fun _ _ _ _ => rfl⟩
theorem State.moves.trans {s t u : State} (h : s.moves t) (k : t.moves u) : s.moves u :=
  ⟨h.1.trans k.1, fun c g r l => (k.2 c g r l).trans (h.2 c g r l)⟩

/-- A gang moves where only its slices, each kept, and its course change. -/
theorem Gang.moves_of {a b : Gang}
    (h1 : b = { a with slices := b.slices, frames := b.frames, quantum := b.quantum, cur := b.cur, staging := b.staging })
    (h2 : b.slices.length = a.slices.length) (h3 : ∀ i, (a.slice i).kept (b.slice i)) : a.moves b := by
  refine ⟨⟨?_, h2, h3, ?_⟩, ?_⟩ <;> rw [h1]

theorem Gang.moves_modSlices (mask : Nat) (f : Nat → Slice → Slice) (a : Gang) (hf : ∀ i sl, Slice.kept sl (f i sl)) :
    a.moves (a.modSlices mask f) := by
  refine Gang.moves_of rfl (by simp [Gang.modSlices]) (fun i => ?_)
  refine rel_mapIdx (R := Slice.kept) _ _ _ _ Slice.kept_refl (fun i sl => ?_)
  split
  · exact hf i sl
  · rfl

theorem Gang.moves_turnTo (i : Nat) (a : Gang) : a.moves (a.turnTo i) := Gang.moves_of rfl rfl (fun _ => rfl)

theorem Gang.moves_chooseLowest (a : Gang) : a.moves a.chooseLowest := by
  unfold Gang.chooseLowest
  split
  · exact Gang.moves_turnTo _ _
  · exact Gang.moves_of rfl rfl (fun _ => rfl)

theorem Gang.moves_choose (a : Gang) : a.moves a.choose := by
  unfold Gang.choose
  split
  · split
    · exact a.moves_chooseLowest
    · exact a.moves_refl
  · exact a.moves_chooseLowest

theorem Gang.moves_chooseAfter (here : Nat) (a : Gang) : a.moves (a.chooseAfter here) := by
  unfold Gang.chooseAfter
  split
  · exact Gang.moves_turnTo _ _
  · exact a.moves_chooseLowest

theorem Gang.moves_chooseNext (a : Gang) : a.moves a.chooseNext := a.moves_chooseAfter _

theorem Gang.moves_partSubs (is : List Nat) (a : Gang) : a.moves (a.partSubs is) := by
  unfold Gang.partSubs
  refine Gang.moves_of rfl (by simp) (fun i => ?_)
  refine rel_mapIdx (R := Slice.kept) _ _ _ _ Slice.kept_refl (fun i sl => ?_)
  split <;> rfl

theorem Gang.moves_moveTo (i pc : Nat) (fell : Option Nat) (a : Gang) : a.moves (a.moveTo i pc fell) := by
  unfold Gang.moveTo
  refine Gang.moves_of rfl (by simp) (fun k => ?_)
  exact rel_mapNth (R := Slice.kept) _ _ _ _ _ Slice.kept_refl (fun _ => rfl)

theorem Gang.moves_release (token : Nat) (a : Gang) : a.moves (a.release token) := by
  unfold Gang.release
  refine Gang.moves.trans (Gang.moves_of rfl (by simp) (fun k => ?_)) (Gang.moves_partSubs _ _)
  refine rel_map (R := Slice.kept) _ _ _ _ Slice.kept_refl (fun sl => ?_)
  split <;> rfl

theorem Gang.moves_startGroup (f : Frame) (k target : Nat) (left : List Nat) (a : Gang) :
    a.moves (a.startGroup f k target left) := by
  unfold Gang.startGroup
  refine Gang.moves.trans (Gang.moves_of rfl (by simp) (fun j => ?_)) (Gang.moves_partSubs _ _)
  refine rel_mapIdx (R := Slice.kept) _ _ _ _ Slice.kept_refl (fun i sl => ?_)
  split
  · rfl
  · split <;> rfl

theorem Gang.moves_closeFrame (f : Frame) (a : Gang) : a.moves (a.closeFrame f) := by
  unfold Gang.closeFrame
  refine Gang.moves.trans (Gang.moves_of rfl (by simp) (fun j => ?_)) (Gang.moves_release _ _)
  refine rel_mapIdx (R := Slice.kept) _ _ _ _ Slice.kept_refl (fun i sl => ?_)
  unfold Frame.closeSlice
  split
  · split <;> rfl
  · rfl

theorem Gang.moves_gatherSlices (mask : Nat) (a : Gang) : a.moves (a.gatherSlices mask) := by
  refine Gang.moves_modSlices _ _ _ (fun _ sl => ?_)
  split <;> rfl

theorem Gang.moves_keepTurn (is : List Nat) (a : Gang) : a.moves (a.keepTurn is) := by
  unfold Gang.keepTurn
  split
  · split
    · exact Gang.moves_of rfl rfl (fun _ => rfl)
    · exact a.moves_refl
  · exact a.moves_refl

theorem Gang.moves_wakeSlices (a : Gang) : a.moves a.wakeSlices := by
  refine Gang.moves_of rfl (by simp [Gang.wakeSlices]) (fun i => ?_)
  refine rel_map (R := Slice.kept) _ _ _ _ Slice.kept_refl (fun sl => ?_)
  unfold Slice.wake
  split <;> rfl

theorem Gang.moves_closeFlags (no : Nat) (a : Gang) : a.moves (a.closeFlags no) := by
  refine Gang.moves.trans (b := { a with flags := a.flags.map (fun f => if f.opened && f.armer == no then ({ f with opened := false }).settle else f) })
    ⟨⟨rfl, rfl, fun _ => rfl, ?_⟩, rfl⟩ (Gang.moves_wakeSlices _)
  simp only [List.map_map]
  refine List.map_congr_left (fun f _ => ?_)
  simp only [Function.comp]
  split
  · unfold Flag.settle
    split <;> rfl
  · rfl

theorem Gang.moves_foldl {β : Type} (l : List β) (f : Gang → β → Gang) (hf : ∀ a b, Gang.moves a (f a b)) (a : Gang) :
    a.moves (l.foldl f a) := by
  induction l generalizing a with
  | nil => exact a.moves_refl
  | cons b l ih => exact (hf a b).trans (ih _)

theorem Ctx.moves_foldl {β : Type} (l : List β) (f : Ctx → β → Ctx) (hf : ∀ a b, Ctx.moves a (f a b)) (a : Ctx) :
    a.moves (l.foldl f a) := by
  induction l generalizing a with
  | nil => exact a.moves_refl
  | cons b l ih => exact (hf a b).trans (ih _)

theorem State.moves_foldl {β : Type} (l : List β) (f : State → β → State) (hf : ∀ a b, State.moves a (f a b)) (a : State) :
    a.moves (l.foldl f a) := by
  induction l generalizing a with
  | nil => exact a.moves_refl
  | cons b l ih => exact (hf a b).trans (ih _)

/-- A context moves where only its course changes. -/
theorem Ctx.moves_of {x y : Ctx}
    (h : y = { x with run := y.run, cause := y.cause, fault := y.fault, groups := y.groups, nextGroup := y.nextGroup,
                      gatherings := y.gatherings, tags := y.tags }) : x.moves y := by
  have hg : y.gangs = x.gangs := by rw [h]
  have hy : ∀ g, y.gang g = x.gang g := fun g => by unfold Ctx.gang; rw [hg]
  refine ⟨⟨?_, by rw [hg], fun g => ?_⟩, fun g => by rw [hy]⟩
  · conv => lhs; rw [h]
    rw [hg]
  · rw [hy]; exact Gang.kept_refl _

theorem Ctx.moves_gangs (f : List Gang → List Gang) (x : Ctx) (hl : (f x.gangs).length = x.gangs.length)
    (hf : ∀ g, Gang.moves (nthOr {} x.gangs g) (nthOr {} (f x.gangs) g)) : x.moves { x with gangs := f x.gangs } :=
  ⟨⟨rfl, hl, fun g => (hf g).1⟩, fun g => (hf g).2⟩

theorem Ctx.moves_modGang (g : Nat) (f : Gang → Gang) (x : Ctx) (hf : ∀ a, Gang.moves a (f a)) : x.moves (x.modGang g f) :=
  Ctx.moves_gangs (mapNth g f) x (by simp) (fun k => rel_mapNth (R := Gang.moves) _ _ _ _ _ Gang.moves_refl hf)

theorem ctxOf_modCtx (c k : Nat) (f : Ctx → Ctx) (s : State) :
    (s.modCtx c f).ctxOf k = if k = c then (s.ctxOf k).map f else s.ctxOf k := by
  unfold State.ctxOf State.modCtx
  by_cases h : k = c
  · subst h; simp
  · simp [h, Tab.find_update_ne]

theorem State.moves_modCtx (c : Nat) (f : Ctx → Ctx) (s : State) (hf : ∀ x, Ctx.moves x (f x)) : s.moves (s.modCtx c f) := by
  have h : ∀ k, ((s.modCtx c f).ctxOf k).isSome = (s.ctxOf k).isSome ∧
      ((s.ctxOf k).getD {}).moves (((s.modCtx c f).ctxOf k).getD {}) := by
    intro k
    rw [ctxOf_modCtx]
    split
    · cases hk : s.ctxOf k with
      | none => exact ⟨rfl, Ctx.moves_refl _⟩
      | some x => exact ⟨rfl, hf x⟩
    · exact ⟨rfl, Ctx.moves_refl _⟩
  refine ⟨⟨rfl, fun k => ⟨(h k).1, (h k).2.1⟩⟩, fun k g r l => ?_⟩
  unfold State.regAt Gang.reg
  rw [(h k).2.2 g]

theorem State.moves_modGang (c g : Nat) (f : Gang → Gang) (s : State) (hf : ∀ a, Gang.moves a (f a)) :
    s.moves (s.modGang c g f) := State.moves_modCtx c _ s (fun x => Ctx.moves_modGang g f x hf)

theorem State.moves_modGg (f : Gang → Gang) (s : State) (hf : ∀ a, Gang.moves a (f a)) : s.moves (s.modGg f) :=
  State.moves_modGang _ _ f s hf

/-! ### Compaction -/

theorem Ctx.moves_setSlices (ms : List (Nat × Nat)) (f : Slice → Slice) (x : Ctx) (hf : ∀ sl, Slice.kept sl (f sl)) :
    x.moves (x.setSlices ms f) := by
  refine Ctx.moves_foldl _ _ (fun y m => Ctx.moves_modGang _ _ _ (fun g => ?_)) x
  exact Gang.moves_of rfl (by simp) (fun k => rel_mapNth (R := Slice.kept) _ _ _ _ _ Slice.kept_refl hf)

theorem Ctx.moves_formGroups (unit : Nat) (ms : List (Nat × Nat)) (js : List Nat) (x : Ctx) :
    x.moves (x.formGroups unit ms js) := by
  induction js generalizing x with
  | nil => exact x.moves_refl
  | cons j t ih =>
    unfold Ctx.formGroups
    simp only
    split
    · exact x.moves_refl
    · refine Ctx.moves.trans ?_ (ih _)
      exact Ctx.moves.trans (Ctx.moves_of rfl) (Ctx.moves_setSlices _ _ _ (fun _ => rfl))

theorem Ctx.moves_endGathering (unit point : Nat) (x : Ctx) : x.moves (x.endGathering unit point) :=
  Ctx.moves.trans (Ctx.moves_of rfl) (Ctx.moves_formGroups _ _ _ _)

theorem Ctx.moves_checkGatherings (unit : Nat) (x : Ctx) : x.moves (x.checkGatherings unit) := by
  unfold Ctx.checkGatherings
  split
  · exact Ctx.moves_foldl _ _ (fun y k => Ctx.moves_endGathering _ _ _) x
  · exact x.moves_refl

/-! ### The end of a word -/

theorem State.moves_stopCtx (c : Nat) (r : FaultRec) (s : State) : s.moves (s.stopCtx c r) := by
  unfold State.stopCtx
  split
  · exact s.moves_refl
  · split
    · exact State.moves_modCtx _ _ _ (fun _ => Ctx.moves_of rfl)
    · exact s.moves_refl

theorem State.moves_raiseFrame (c g : Nat) (f : Frame) (i : FaultInfo) (s : State) : s.moves (s.raiseFrame c g f i) := by
  unfold State.raiseFrame
  refine State.moves.trans ?_ (State.moves_stopCtx _ _ _)
  exact State.moves_modGang _ _ _ _ (fun _ => Gang.moves_of rfl rfl (fun _ => rfl))

theorem State.moves_settleOnce (c g : Nat) (s : State) : s.moves (s.settleOnce c g) := by
  unfold State.settleOnce
  simp only
  split
  · exact State.moves_modGang _ _ _ _ Gang.moves_choose
  · exact State.moves_modGang _ _ _ _ (fun a => (a.moves_release _).trans (Gang.moves_chooseLowest _))
  · exact State.moves_modGang _ _ _ _ (fun _ => Gang.moves_of rfl rfl (fun _ => rfl))
  · split
    · exact s.moves_refl
    · split
      · exact State.moves_raiseFrame _ _ _ _ _
      · exact State.moves_modGang _ _ _ _ (fun a => (a.moves_startGroup _ _ _ _).trans (Gang.moves_chooseLowest _))
  · split
    · exact s.moves_refl
    · split
      · exact State.moves_raiseFrame _ _ _ _ _
      · exact State.moves_modGang _ _ _ _ (fun a => (a.moves_closeFrame _).trans (Gang.moves_chooseLowest _))

theorem State.moves_settleGang (c g : Nat) (s : State) : s.moves (s.settleGang c g) := by
  refine State.moves_foldl _ _ (fun t _ => ?_) s
  split
  · exact State.moves_modGang _ _ _ _ Gang.moves_choose
  · split
    · exact State.moves_settleOnce _ _ _
    · exact t.moves_refl

theorem State.moves_afterMove (s : State) : s.moves s.afterMove :=
  (State.moves_settleGang _ _ _).trans (State.moves_modCtx _ _ _ (fun _ => Ctx.moves_checkGatherings _ _))

theorem State.moves_noteGatherings (c g mask : Nat) (s : State) : s.moves (s.noteGatherings c g mask) := by
  refine State.moves_modCtx _ _ _ (fun x => Ctx.moves_foldl _ _ (fun y p => ?_) x)
  split
  · exact y.moves_refl
  · exact Ctx.moves_of rfl

theorem State.moves_nextTurn (turn : Bool) (here : Nat) (s : State) : s.moves (s.nextTurn turn here) := by
  unfold State.nextTurn
  split
  · exact State.moves_modGg _ _ (Gang.moves_chooseAfter _)
  · exact s.moves_refl

theorem State.moves_yieldNow (ask : YieldAsk) (turn : Bool) (here : Nat) (s : State) : s.moves (s.yieldNow ask turn here) := by
  unfold State.yieldNow
  split
  · exact s.moves_afterMove
  · split
    · exact ((State.moves_modGg _ s (Gang.moves_gatherSlices _)).trans (State.moves_noteGatherings _ _ _ _)).trans
        (State.moves_afterMove _)
    · exact s.moves_afterMove.trans (State.moves_nextTurn _ _ _)
  · exact s.moves_afterMove.trans (State.moves_nextTurn _ _ _)

theorem Gang.moves_leave (no len : Nat) (is : List Nat) (turn : Bool) (ds : List Dest) (a : Gang) :
    a.moves (a.leave no len is turn ds) := by
  unfold Gang.leave
  have h := (a.moves_closeFlags no).trans
    (Gang.moves_foldl ds (fun h d => h.moveTo d.slice d.pc (if d.taken then none else some len)) (fun h d => Gang.moves_moveTo _ _ _ h) _)
  generalize ds.foldl _ (a.closeFlags no) = g1 at h ⊢
  dsimp only
  refine (h.trans (g1.moves_partSubs (is.filter (fun i => (g1.slice i).runs)))).trans (Gang.moves.trans ?_ (Gang.moves_modSlices _ _ _ (fun _ _ => rfl)))
  split
  · exact Gang.moves_keepTurn _ _
  · exact Gang.moves_refl _

theorem State.moves_leaveClause (ds : List Dest) (s : State) : s.moves (s.leaveClause ds) :=
  (State.moves_modGg _ s (Gang.moves_leave _ _ _ _ _)).trans (State.moves_yieldNow _ _ _ _)

theorem State.moves_countWord (s : State) : s.moves s.countWord := by
  unfold State.countWord
  split
  · exact s.moves_refl
  · exact State.moves_modGg _ _ (fun _ => Gang.moves_of rfl rfl (fun _ => rfl))

theorem State.moves_advance (s : State) : s.moves s.advance := by
  unfold State.advance
  simp only
  split
  · exact State.moves_modGg _ _ (fun a => Gang.moves_modSlices _ _ a (fun _ _ => rfl))
  · exact State.moves_leaveClause _ _

/-- The end of a word moves slices and nothing else (R62, R66). -/
theorem State.moves_endWord (s : State) : s.moves s.endWord := s.moves_countWord.trans (State.moves_advance _)

theorem State.moves_unstage (l : Bool) (a n : Nat) (s : State) : s.moves (s.unstage l a n) := by
  unfold State.unstage
  split
  · refine State.moves_modGg _ _ (fun a => ?_)
    unfold Gang.unstage
    rename_i hl
    rw [if_pos hl]
    exact Gang.moves_of rfl rfl (fun _ => rfl)
  · exact s.moves_refl

theorem State.moves_endWordL (l : Bool) (a n : Nat) (s : State) : s.moves (s.endWordL l a n) :=
  (s.moves_unstage l a n).trans (State.moves_endWord _)

/-! ### Saving units (R328) -/

theorem State.moves_setTag (v : Tag) (c g k : Nat) (s : State) : s.moves (s.setTag v (.regs c g k)) :=
  State.moves_modCtx _ _ _ (fun _ => Ctx.moves_of rfl)

theorem State.moves_modDieCol (dom die : Nat) (col : Bool) (f : DieColour → DieColour) (s : State) :
    s.moves (s.modDieCol dom die col f) := ⟨⟨rfl, fun _ => ⟨rfl, Ctx.kept_refl _⟩⟩, fun _ _ _ _ => rfl⟩

theorem State.moves_saveFor (dom die part c g k : Nat) (s : State) (col : Bool) :
    s.moves (s.saveFor dom die part (.regs c g k) col) := by
  unfold State.saveFor
  simp only
  split
  · split
    · exact (State.moves_modDieCol _ _ _ _ _).trans (State.moves_setTag _ _ _ _ _)
    · exact State.moves_setTag _ _ _ _ _
  · exact s.moves_refl

theorem State.moves_beforeWrite (c g k : Nat) (s : State) : s.moves (s.beforeWrite (.regs c g k)) := by
  unfold State.beforeWrite
  split
  · exact s.moves_refl
  · simp only
    split
    · exact s.moves_refl
    · refine State.moves.trans ?_ (State.moves_setTag _ _ _ _ _)
      split
      · exact State.moves_foldl _ _ (fun t col => State.moves_saveFor _ _ _ _ _ _ _ _) s
      · exact s.moves_refl

/-- Saving register granules before they are written changes no register (R328). -/
theorem State.moves_beforeRegs (c g : Nat) (rs : List Nat) (s : State) : s.moves (s.beforeRegs c g rs) := by
  unfold State.beforeRegs State.beforeWrites
  have : ∀ (us : List UnitName) (t : State), (∀ u ∈ us, ∃ k, u = .regs c g k) → t.moves (us.foldl (fun t u => t.beforeWrite u) t) := by
    intro us
    induction us with
    | nil => intro t _; exact t.moves_refl
    | cons u us ih =>
      intro t h
      obtain ⟨k, rfl⟩ := h u (by simp)
      exact (State.moves_beforeWrite c g k t).trans (ih _ (fun v hv => h v (by simp [hv])))
  refine this _ s (fun u hu => ?_)
  have := List.mem_eraseDups.1 hu
  obtain ⟨r, -, rfl⟩ := List.mem_map.1 this
  exact ⟨_, rfl⟩

/-! ### Reading registers back -/

theorem reg_setReg (g : Gang) (r l : Nat) (v : LaneVal) (q k : Nat) (hl : l < 32) (hk : k < 32) :
    (g.setReg r l v).reg q k = if q = r ∧ k = l then v else g.reg q k := by
  unfold Gang.setReg Gang.reg
  simp only
  split
  · rename_i h
    rw [h.1, h.2]
    exact Tab.read_write_self _ _ _ _
  · rename_i h
    exact Tab.read_write_ne _ _ _ (by omega)

/-- What lane results leave in a register: the last result of the lane for it, else what was there. -/
theorem reg_putOuts_ne (d : Nat) (outs : List LaneOut) (g : Gang) (q k : Nat) (ho : ∀ o ∈ outs, o.lane < 32) (hk : k < 32)
    (h : ∀ o ∈ outs, o.lane = k → q ≠ d ∧ (o.pair = true → q ≠ d + 1)) : (g.putOuts d outs).reg q k = g.reg q k := by
  induction outs generalizing g with
  | nil => rfl
  | cons o t ih =>
    unfold Gang.putOuts
    simp only
    rw [ih _ (fun o ho' => ho o (by simp [ho'])) (fun o ho' => h o (by simp [ho']))]
    have hol := ho o (by simp)
    have ho1 := h o (by simp)
    split
    · rename_i hp
      rw [reg_setReg _ _ _ _ _ _ hol hk, reg_setReg _ _ _ _ _ _ hol hk]
      rw [if_neg, if_neg]
      · intro hh; exact (ho1 hh.2.symm).1 hh.1
      · intro hh; exact (ho1 hh.2.symm).2 hp hh.1
    · rw [reg_setReg _ _ _ _ _ _ hol hk, if_neg]
      intro hh; exact (ho1 hh.2.symm).1 hh.1

/-- A lane's result stands in the destination register, where no other result is of its lane. -/
theorem reg_putOuts (d : Nat) (outs : List LaneOut) (g : Gang) (o : LaneOut) (ho : ∀ o ∈ outs, o.lane < 32)
    (hm : o ∈ outs) (hn : (outs.map (·.lane)).Nodup) :
    (g.putOuts d outs).reg d o.lane = { val := BitVec.ofNat 32 o.val, p := o.p } ∧
    (o.pair = true → (g.putOuts d outs).reg (d + 1) o.lane = { val := BitVec.ofNat 32 (o.val / 2 ^ 32), p := o.p }) := by
  induction outs generalizing g with
  | nil => simp at hm
  | cons a t ih =>
    have hat := ho a (by simp)
    have hn' := List.nodup_cons.1 hn
    rcases List.mem_cons.1 hm with rfl | hm'
    · have hne : ∀ b ∈ t, b.lane = o.lane → d ≠ d ∧ (b.pair = true → d ≠ d + 1) := by
        intro b hb e
        exact absurd (by have := List.mem_map_of_mem (f := (·.lane)) hb; show o.lane ∈ _; rw [← e]; exact this) hn'.1
      have hne1 : ∀ b ∈ t, b.lane = o.lane → d + 1 ≠ d ∧ (b.pair = true → d + 1 ≠ d + 1) := by
        intro b hb e
        exact absurd (by have := List.mem_map_of_mem (f := (·.lane)) hb; show o.lane ∈ _; rw [← e]; exact this) hn'.1
      have hot : ∀ b ∈ t, b.lane < 32 := fun b hb => ho b (by simp [hb])
      unfold Gang.putOuts
      simp only
      refine ⟨?_, fun hp => ?_⟩
      · rw [reg_putOuts_ne d t _ d o.lane hot hat hne]
        split
        · rw [reg_setReg _ _ _ _ _ _ hat hat, if_neg (by omega), reg_setReg _ _ _ _ _ _ hat hat, if_pos ⟨rfl, rfl⟩]
        · rw [reg_setReg _ _ _ _ _ _ hat hat, if_pos ⟨rfl, rfl⟩]
      · rw [reg_putOuts_ne d t _ (d + 1) o.lane hot hat hne1, if_pos hp, reg_setReg _ _ _ _ _ _ hat hat, if_pos ⟨rfl, rfl⟩]
    · unfold Gang.putOuts
      simp only
      exact ih _ (fun b hb => ho b (by simp [hb])) hm' hn'.2

theorem enabledLanes_lt {s : State} {l : Nat} (h : l ∈ s.enabledLanes) : l < 32 := by
  unfold State.enabledLanes lanesOf at h
  simp only [List.mem_filter, List.mem_range] at h
  exact h.1.1

theorem enabledLanes_nodup (s : State) : s.enabledLanes.Nodup :=
  (List.nodup_range.filter _).filter _

theorem Gang.kept_regs {a b : Gang} (h : b = { a with regs := b.regs }) : a.kept b := by
  refine ⟨?_, by rw [h], fun i => ?_, by rw [h]⟩
  · conv => lhs; rw [h]
    rw [h]
  · unfold Gang.slice; rw [h]; rfl

theorem Gang.setReg_with (g : Gang) (r l : Nat) (v : LaneVal) : g.setReg r l v = { g with regs := (g.setReg r l v).regs } := rfl

theorem Gang.putOuts_with (d : Nat) (outs : List LaneOut) (g : Gang) :
    g.putOuts d outs = { g with regs := (g.putOuts d outs).regs } := by
  induction outs generalizing g with
  | nil => rfl
  | cons o t ih =>
    unfold Gang.putOuts
    simp only
    split <;> exact ih _

/-- A change of the issuing gang that only writes registers keeps everything else. -/
theorem State.kept_modGg (f : Gang → Gang) (s : State) (hf : ∀ a, f a = { a with regs := (f a).regs }) : s.kept (s.modGg f) := by
  refine ⟨rfl, fun c => ?_⟩
  unfold State.modGg State.modGang
  rw [ctxOf_modCtx]
  split
  · cases hk : s.ctxOf c with
    | none => exact ⟨rfl, Ctx.kept_refl _⟩
    | some x =>
      refine ⟨rfl, rfl, by simp [Ctx.modGang], fun g => ?_⟩
      exact rel_mapNth (R := Gang.kept) _ _ _ _ _ Gang.kept_refl (fun a => Gang.kept_regs (hf a))
  · exact ⟨rfl, Ctx.kept_refl _⟩

/-- The issuing gang's registers after a change of it, and those of every other gang. -/
theorem regAt_modGg (f : Gang → Gang) (s : State) (hs : (s.ctxOf s.issue.ctx).isSome = true)
    (hg : s.issue.gang < s.cx.gangs.length) (c g r l : Nat) :
    (s.modGg f).regAt c g r l = if (c, g) = (s.issue.ctx, s.issue.gang) then (f s.gg).reg r l else s.regAt c g r l := by
  unfold State.regAt State.modGg State.modGang
  rw [ctxOf_modCtx]
  obtain ⟨x, hx⟩ := Option.isSome_iff_exists.1 hs
  have hcx : s.cx = x := by unfold State.cx; rw [hx]; rfl
  by_cases hc : c = s.issue.ctx
  · subst hc
    rw [if_pos rfl, hx]
    simp only [Option.map_some, Option.getD_some, Ctx.modGang, Ctx.gang]
    rw [nthOr_mapNth _ _ _ _ _ (.inl (by rw [← hcx]; exact hg))]
    unfold State.gg
    rw [hcx]
    by_cases hgg : g = s.issue.gang <;> simp [hgg, Ctx.gang]
  · rw [if_neg hc, if_neg (by simp [hc])]

theorem canIssue_iff {s : State} (h : s.canIssue = true) :
    (s.ctxOf s.issue.ctx).isSome = true ∧ s.issue.gang < s.cx.gangs.length ∧ s.issue.upsets = [] := by
  simpa [State.canIssue, and_assoc] using h

/-- What State.kept says of the issuing word. -/
theorem State.kept_issue {s t : State} (h : s.kept t) : t.issue = s.issue := by rw [h.1]

/-- Saves, writes registers of the issuing gang, ends the word: what the registers then hold, and the frame. -/
theorem writeWord_spec {s : State} (h : s.canIssue = true) (rs ls ws : List Nat) (f : Gang → Gang)
    (hf : ∀ a, f a = { a with regs := (f a).regs })
    (hn : ∀ a r l, l < 32 → r ∉ rs ∨ l ∉ ls → (f a).reg r l = a.reg r l) (lst : Bool) (a n : Nat) :
    let t := ((s.beforeRegs s.issue.ctx s.issue.gang ws).modGg f).endWordL lst a n
    s.onlyRegs t rs ls ∧ ∀ r l, t.regAt s.issue.ctx s.issue.gang r l =
      (f ((s.beforeRegs s.issue.ctx s.issue.gang ws).gg)).reg r l := by
  intro t
  obtain ⟨h1, h2, -⟩ := canIssue_iff h
  have m1 := State.moves_beforeRegs s.issue.ctx s.issue.gang ws s
  obtain ⟨u, hu⟩ : ∃ u, s.beforeRegs s.issue.ctx s.issue.gang ws = u := ⟨_, rfl⟩
  have ht : t = (u.modGg f).endWordL lst a n := by simp only [t, hu]
  rw [hu] at m1 ⊢
  clear_value t
  subst ht
  have hi : u.issue = s.issue := State.kept_issue m1.1
  have hs : (u.ctxOf u.issue.ctx).isSome = true := by rw [hi, (m1.1.2 _).1]; exact h1
  have hg : u.issue.gang < u.cx.gangs.length := by
    unfold State.cx at h2 ⊢
    rw [hi, (m1.1.2 s.issue.ctx).2.2.1]
    exact h2
  have m2 := State.moves_endWordL lst a n (u.modGg f)
  have hr : ∀ c g r l, ((u.modGg f).endWordL lst a n).regAt c g r l =
      if (c, g) = (s.issue.ctx, s.issue.gang) then (f u.gg).reg r l else u.regAt c g r l := by
    intro c g r l
    rw [m2.2, regAt_modGg f u hs hg, hi]
  refine ⟨⟨m1.1.trans ((State.kept_modGg f u hf).trans m2.1), ?_⟩, fun r l => by rw [hr, if_pos rfl]⟩
  intro c g r l hl hx
  rw [hr]
  split
  · rename_i e
    have hx' : r ∉ rs ∨ l ∉ ls := by
      rcases hx with hx | hx
      · exact absurd e hx
      · exact hx
    rw [hn _ _ _ hl hx']
    have := m1.2 c g r l
    injection e with e1 e2
    subst e1; subst e2
    rw [← this]
    unfold State.regAt State.gg State.cx
    rw [hi]
  · exact m1.2 c g r l

/-- Registers of the issuing gang are those that the word found. -/
theorem regAt_gg (s : State) (r l : Nat) : s.gg.reg r l = s.regAt s.issue.ctx s.issue.gang r l := rfl

theorem inj_of_nodup {outs : List LaneOut} (hn : (outs.map (·.lane)).Nodup) {b o : LaneOut} (hb : b ∈ outs) (ho : o ∈ outs)
    (e : b.lane = o.lane) : b = o := by
  induction outs with
  | nil => simp at hb
  | cons a t ih =>
    have hn' := List.nodup_cons.1 hn
    have ht : ∀ c ∈ t, a.lane ≠ c.lane := fun c hc h => hn'.1 (by
      have := List.mem_map_of_mem (f := (·.lane)) hc
      show a.lane ∈ _
      rw [h]; exact this)
    rcases List.mem_cons.1 hb with hb | hb <;> rcases List.mem_cons.1 ho with ho | ho
    · rw [hb, ho]
    · exact absurd (hb ▸ e) (ht _ ho)
    · exact absurd (ho ▸ e.symm) (ht _ hb)
    · exact ih hn'.2 hb ho

/-- Registers that lane results are written to. -/
def outRegs (d : Nat) (outs : List LaneOut) : List Nat := if outs.any (·.pair) then [d, d + 1] else [d]

/-- Lane results are written to the destination; every other register is kept, and so is all else (R66, R103). -/
theorem putOuts_spec {s : State} (h : s.canIssue = true) (d : Nat) (outs : List LaneOut) (lst : Bool) (a n : Nat)
    (ho : outs.map (·.lane) = s.enabledLanes) :
    s.onlyRegs ((s.putOuts d outs).endWordL lst a n) (outRegs d outs) s.enabledLanes ∧
    ∀ o ∈ outs, ((s.putOuts d outs).endWordL lst a n).regAt s.issue.ctx s.issue.gang d o.lane =
        { val := BitVec.ofNat 32 o.val, p := o.p } ∧
      (o.pair = true → ((s.putOuts d outs).endWordL lst a n).regAt s.issue.ctx s.issue.gang (d + 1) o.lane =
        { val := BitVec.ofNat 32 (o.val / 2 ^ 32), p := o.p }) ∧
      (o.pair = false → ((s.putOuts d outs).endWordL lst a n).regAt s.issue.ctx s.issue.gang (d + 1) o.lane =
        s.regAt s.issue.ctx s.issue.gang (d + 1) o.lane) := by
  have hlt : ∀ o ∈ outs, o.lane < 32 := fun o hm => enabledLanes_lt (ho ▸ List.mem_map_of_mem hm)
  have hnd : (outs.map (·.lane)).Nodup := ho ▸ enabledLanes_nodup s
  have hne : ∀ (a : Gang) r l, l < 32 → r ∉ outRegs d outs ∨ l ∉ s.enabledLanes → (a.putOuts d outs).reg r l = a.reg r l := by
    intro a r l hl hx
    refine reg_putOuts_ne d outs a r l hlt hl (fun o hm e => ?_)
    rcases hx with hx | hx
    · refine ⟨fun e => hx ?_, fun hp e => hx ?_⟩
      · unfold outRegs; split <;> simp [e]
      · unfold outRegs
        rw [if_pos (List.any_eq_true.2 ⟨o, hm, hp⟩)]
        simp [e]
    · exact absurd (ho ▸ e ▸ List.mem_map_of_mem hm) hx
  have k := writeWord_spec h (outRegs d outs) s.enabledLanes (outRegs d outs) (Gang.putOuts d outs)
    (Gang.putOuts_with d outs) hne lst a n
  refine ⟨k.1, fun o hm => ?_⟩
  have r := reg_putOuts d outs ((s.beforeRegs s.issue.ctx s.issue.gang (outRegs d outs)).gg) o hlt hm hnd
  refine ⟨(k.2 d o.lane).trans r.1, fun hp => (k.2 (d + 1) o.lane).trans (r.2 hp), fun hp => ?_⟩
  have q := reg_putOuts_ne d outs ((s.beforeRegs s.issue.ctx s.issue.gang (outRegs d outs)).gg) (d + 1) o.lane hlt (hlt o hm)
    (fun b hb e => ⟨by omega, fun hb2 => by
      have : b = o := inj_of_nodup hnd hb hm e
      rw [this, hp] at hb2
      exact absurd hb2 (by simp)⟩)
  refine (k.2 (d + 1) o.lane).trans (q.trans ?_)
  have m := State.moves_beforeRegs s.issue.ctx s.issue.gang (outRegs d outs) s
  rw [regAt_gg, State.kept_issue m.1]
  exact m.2 _ _ _ _

theorem onlyRegs_outRegs {s t : State} {d : Nat} {outs : List LaneOut} {ls : List Nat} (h : s.onlyRegs t (outRegs d outs) ls) :
    s.onlyRegs t [d, d + 1] ls := by
  refine ⟨h.1, fun c g r l hl hx => h.2 c g r l hl ?_⟩
  rcases hx with hx | hx | hx
  · exact .inl hx
  · refine .inr (.inl (fun hr => hx ?_))
    unfold outRegs at hr
    split at hr
    · exact hr
    · simp only [List.mem_singleton] at hr; simp [hr]
  · exact .inr (.inr hx)

/-- A computing word whose checks pass writes each enabled lane's result, computed from what the word found, and
nothing else (R66, R103, R126, R139). -/
theorem compute_spec {s : State} (h : s.canIssue = true) {accept : Nat → Bool} {fs : List Field}
    (hf : s.arithFault accept fs = none) (sh : Shadow) (lst : Bool) (d a : Nat) (out : Gang → Nat → LaneOut)
    (ho : ∀ g l, (out g l).lane = l) :
    let t := s.compute accept fs sh lst d a out
    s.onlyRegs t [d, d + 1] s.enabledLanes ∧
    ∀ l ∈ s.enabledLanes, t.regAt s.issue.ctx s.issue.gang d l =
        { val := BitVec.ofNat 32 (out s.gg l).val, p := (out s.gg l).p } ∧
      ((out s.gg l).pair = true → t.regAt s.issue.ctx s.issue.gang (d + 1) l =
        { val := BitVec.ofNat 32 ((out s.gg l).val / 2 ^ 32), p := (out s.gg l).p }) ∧
      ((out s.gg l).pair = false → t.regAt s.issue.ctx s.issue.gang (d + 1) l = s.regAt s.issue.ctx s.issue.gang (d + 1) l) := by
  intro t
  by_cases hl : s.enabledLanes = []
  · have ht : t = s.endWordL lst a (if s.anyWide then 2 else 1) := by
      show s.compute accept fs sh lst d a out = _
      unfold State.compute
      simp only [if_pos hl]
    rw [ht, hl]
    have m := State.moves_endWordL lst a (if s.anyWide then 2 else 1) s
    exact ⟨⟨m.1, fun c g r l _ _ => m.2 c g r l⟩, fun l h => absurd h (by simp)⟩
  have ht : t = (s.putOuts d (s.enabledLanes.map (out s.gg))).endWordL lst a (if s.anyWide then 2 else 1) := by
    show s.compute accept fs sh lst d a out = _
    unfold State.compute State.checked State.struck
    simp only [if_neg hl, hf, (canIssue_iff h).2.2]
  have k := putOuts_spec h d (s.enabledLanes.map (out s.gg)) lst a (if s.anyWide then 2 else 1) (by
    rw [List.map_map]
    conv => rhs; rw [← List.map_id s.enabledLanes]
    exact List.map_congr_left (fun l _ => ho _ l))
  rw [← ht] at k
  refine ⟨onlyRegs_outRegs k.1, fun l hm => ?_⟩
  have r := k.2 (out s.gg l) (List.mem_map_of_mem hm)
  rwa [ho] at r

/-- The same of a word that names its registers whatever TYPE. -/
theorem computeAs_spec {s : State} (h : s.canIssue = true) {fs : List Field}
    (hf : s.regRange fs false = none) (sh : Shadow) (lst : Bool) (d a n : Nat) (out : Gang → Nat → LaneOut)
    (ho : ∀ g l, (out g l).lane = l) :
    let t := s.computeAs sh fs lst d a n out
    s.onlyRegs t [d, d + 1] s.enabledLanes ∧
    ∀ l ∈ s.enabledLanes, t.regAt s.issue.ctx s.issue.gang d l =
        { val := BitVec.ofNat 32 (out s.gg l).val, p := (out s.gg l).p } ∧
      ((out s.gg l).pair = true → t.regAt s.issue.ctx s.issue.gang (d + 1) l =
        { val := BitVec.ofNat 32 ((out s.gg l).val / 2 ^ 32), p := (out s.gg l).p }) ∧
      ((out s.gg l).pair = false → t.regAt s.issue.ctx s.issue.gang (d + 1) l = s.regAt s.issue.ctx s.issue.gang (d + 1) l) := by
  intro t
  by_cases hl : s.enabledLanes = []
  · have ht : t = s.endWordL lst a n := by
      show s.computeAs sh fs lst d a n out = _
      unfold State.computeAs
      simp only [if_pos hl]
    rw [ht, hl]
    have m := State.moves_endWordL lst a n s
    exact ⟨⟨m.1, fun c g r l _ _ => m.2 c g r l⟩, fun l h => absurd h (by simp)⟩
  have ht : t = (s.putOuts d (s.enabledLanes.map (out s.gg))).endWordL lst a n := by
    show s.computeAs sh fs lst d a n out = _
    unfold State.computeAs State.checked State.struck
    simp only [if_neg hl, hf, (canIssue_iff h).2.2]
  have k := putOuts_spec h d (s.enabledLanes.map (out s.gg)) lst a n (by
    rw [List.map_map]
    conv => rhs; rw [← List.map_id s.enabledLanes]
    exact List.map_congr_left (fun l _ => ho _ l))
  rw [← ht] at k
  refine ⟨onlyRegs_outRegs k.1, fun l hm => ?_⟩
  have r := k.2 (out s.gg l) (List.mem_map_of_mem hm)
  rwa [ho] at r

/-- A word that finds no lane enabled only ends (R103). -/
theorem compute_none {s : State} (hl : s.enabledLanes = []) (accept : Nat → Bool) (fs : List Field) (sh : Shadow) (lst : Bool)
    (d a : Nat) (out : Gang → Nat → LaneOut) :
    s.compute accept fs sh lst d a out = s.endWordL lst a (if s.anyWide then 2 else 1) := by
  unfold State.compute
  simp only [if_pos hl]

/-! ### The checks of R126 -/

theorem firstFault_none {fs : List (Option FaultInfo)} (h : ∀ f ∈ fs, f = none) : firstFault fs = none := by
  induction fs with
  | nil => rfl
  | cons f t ih =>
    have := h f (by simp)
    subst this
    exact ih (fun g hg => h g (by simp [hg]))

theorem regRange_none {fs : List Field} {w : Bool} {s : State}
    (h : fs.all (fun f => f.reg + (if f.isElem && w then 2 else f.count) ≤ s.cx.regsN) = true) : s.regRange fs w = none := by
  unfold State.regRange
  refine firstFault_none (fun f hf => ?_)
  obtain ⟨k, hk, rfl⟩ := List.mem_map.1 hf
  have := List.all_eq_true.1 h k hk
  simp only [decide_eq_true_eq] at this
  unfold rangeFault
  rw [if_neg (by omega)]

theorem regRange_inRange {fs : List Field} {s : State} (h : s.inRange fs = true) : s.regRange fs false = none := by
  refine regRange_none ?_
  simpa [State.inRange] using h

/-- A word whose TYPE, pairs and registers are in order passes the checks of R126. -/
theorem arithFault_none {accept : Nat → Bool} {fs : List Field} {s : State} (h : s.accepts accept fs = true) :
    s.arithFault accept fs = none := by
  unfold State.accepts at h
  rw [Bool.and_eq_true, Bool.and_eq_true] at h
  obtain ⟨⟨h1, h2⟩, h3⟩ := h
  have ht : s.typeFault accept = none := by
    unfold State.typeFault
    have : s.issuing.filter (fun i => !accept (modeOf (s.gg.slice i).mode).type) = [] := by
      refine List.filter_eq_nil_iff.2 (fun i hi => ?_)
      simpa using List.all_eq_true.1 h1 i hi
    simp only [this]
  have hp : s.pairFault fs = none := by
    unfold State.pairFault
    split
    · rename_i hw
      have h4 : fs.all (fun f => !f.isElem || f.reg % 2 == 0) = true := by simpa [hw] using h2
      have : fs.filter (fun f => f.isElem && f.reg % 2 == 1) = [] := by
        refine List.filter_eq_nil_iff.2 (fun f hf => ?_)
        have := List.all_eq_true.1 h4 f hf
        simp only [Bool.or_eq_true, Bool.not_eq_true', beq_iff_eq] at this
        simp only [Bool.and_eq_true, beq_iff_eq, not_and]
        intro he
        rcases this with k | k
        · rw [k] at he; cases he
        · omega
      simp only [this]
    · rfl
  unfold State.arithFault
  rw [ht, hp, regRange_none h3]
  rfl

/-! ### What a lane's pair holds -/

/-- Lane results as the claims read them: the bits of the register or pair, and its poison. -/
theorem writesLanes_of {s t : State} {i : Instr} {d : Nat} {out : Nat → LaneOut} {ok : Nat → Nat → Bool → Prop}
    {pair : Nat → Bool} (he : exec i s = .next t)
    (ht : s.onlyRegs t [d, d + 1] s.enabledLanes ∧ ∀ l ∈ s.enabledLanes,
      t.regAt s.issue.ctx s.issue.gang d l = { val := BitVec.ofNat 32 (out l).val, p := (out l).p } ∧
      ((out l).pair = true → t.regAt s.issue.ctx s.issue.gang (d + 1) l =
        { val := BitVec.ofNat 32 ((out l).val / 2 ^ 32), p := (out l).p }) ∧
      ((out l).pair = false → t.regAt s.issue.ctx s.issue.gang (d + 1) l = s.regAt s.issue.ctx s.issue.gang (d + 1) l))
    (hp : ∀ l ∈ s.enabledLanes, (out l).pair = pair l)
    (hok : ∀ l ∈ s.enabledLanes, ok l ((out l).val % 2 ^ (if pair l then 64 else 32)) (out l).p) :
    s.writesLanes i d pair ok := by
  refine ⟨t, he, ht.1, fun l hl => ?_⟩
  obtain ⟨h1, h2, h3⟩ := ht.2 l hl
  have hi : t.issue = s.issue := State.kept_issue ht.1.1
  rw [hp l hl] at h2 h3
  refine ⟨h3, fun h => by rw [h1, h2 h], ?_⟩
  have e : t.bitsAt (pair l) d l = (out l).val % 2 ^ (if pair l then 64 else 32) := by
    unfold State.bitsAt
    rw [hi, h1]
    cases hpl : pair l with
    | false => simp
    | true =>
      rw [h2 hpl]
      simp only [BitVec.toNat_ofNat, if_true]
      omega
  rw [e, h1]
  exact hok l hl

end Sys2Proof.Machine
end

