-- ==== Sys2Proof/Tests/Slice0.lean ====
section
/-! SUPPORT. Tests: ill-formed terms that WellFormed refuses, words of the spec that decode to their instructions,
single steps whose results the spec prints or that are computed by hand from its rules, and for every obligation with
hypotheses a concrete state that meets them. -/

open Sys2Proof Sys2Proof.Machine

namespace Sys2Proof.Tests

set_option Elab.async false

/-! ### Well-formedness: one term per check, which the check refuses -/

theorem test_header_needs_words : (Instr.clauseHeader 0 15 15 0).wellFormed = false := by decide
theorem test_header_flag_reserved : (Instr.clauseHeader 0 12 15 1).wellFormed = false := by decide
theorem test_mode_type_reserved : (Instr.mode 0x000B).wellFormed = false := by decide
theorem test_mode_rnd_reserved : (Instr.mode 0x00A0).wellFormed = false := by decide
theorem test_mode_high_bits : (Instr.mode 0x0400).wellFormed = false := by decide
theorem test_stage_count_zero : (Instr.stage 4 0).wellFormed = false := by decide
theorem test_stage_count_17 : (Instr.stage 4 17).wellFormed = false := by decide
theorem test_madw_odd : (Instr.madw false 3 1 2).wellFormed = false := by decide
theorem test_addc_odd : (Instr.addc false 3 1 2).wellFormed = false := by decide
theorem test_subb_odd : (Instr.subb false 3 1 2).wellFormed = false := by decide
theorem test_movW8_odd : (Instr.movW8 false 3 2).wellFormed = false := by decide
theorem test_cvt_kind_13 : (Instr.cvt false 4 2 13 0).wellFormed = false := by decide
theorem test_cvt_pair_odd : (Instr.cvt false 3 2 0 2).wellFormed = false := by decide
theorem test_rdsp_10 : (Instr.rdsp 3 10).wellFormed = false := by decide
theorem test_ld_release : (Instr.ld false 4 2 2 0 2).wellFormed = false := by decide
theorem test_ld_address_odd : (Instr.ld false 4 3 0 0 2).wellFormed = false := by decide
theorem test_st_acquire : (Instr.st false 4 2 1 0 2).wellFormed = false := by decide
theorem test_st_scope_6 : (Instr.st false 4 2 0 6 2).wellFormed = false := by decide
theorem test_lds_pair_odd : (Instr.lds false 5 1 0 3).wellFormed = false := by decide
theorem test_sts_acquire : (Instr.sts false 5 1 1 2).wellFormed = false := by decide
theorem test_ldc_pair_odd : (Instr.ldc false 5 1 3).wellFormed = false := by decide
theorem test_atom_sem_5 : (Instr.atom false 8 2 5 0 0).wellFormed = false := by decide
theorem test_atomnr_acq_rel : (Instr.atomnr false 8 2 3 0 0).wellFormed = false := by decide
theorem test_cas_odd : (Instr.cas false 9 2 0 0 0).wellFormed = false := by decide
theorem test_fence_relaxed : (Instr.fence 0 0).wellFormed = false := by decide
theorem test_pfence_no_path : (Instr.pfence 0 0).wellFormed = false := by decide
theorem test_monitor_odd : (Instr.monitor false 3).wellFormed = false := by decide
theorem test_sbar_scope_core : (Instr.sbarInit false 8 9 0).wellFormed = false := by decide
theorem test_sbar_odd : (Instr.sbarFin false 9 2).wellFormed = false := by decide
theorem test_launch_scope_7 : (Instr.launch false 12 16 7).wellFormed = false := by decide
theorem test_sysr_0E : (Instr.sysr 4 0x0E).wellFormed = false := by decide
theorem test_sysw_0A : (Instr.sysw false 4 0x0A).wellFormed = false := by decide
theorem test_engine_flag_12 : (Instr.mma false 8 16 12).wellFormed = false := by decide
theorem test_die_4 : (Instr.periodCharge 4).wellFormed = false := by decide
theorem test_port_64 : (Instr.flitSend 64).wellFormed = false := by decide
theorem test_plane_64 : (Instr.slotRelease 64 {}).wellFormed = false := by decide

/-! ### Words that the spec prints, and what they stand for -/

/-- Table 3-16 and the words below it, and words by the fields of R75 to R78 and R101. -/
theorem test_decode_stream :
    decode 0xFE001FE5 = some (.clauseHeader 0 15 15 5) ∧ decode 0xFE0023E1 = some (.clauseHeader 1 1 15 1) ∧
    decode 0x02000120 = some (.mode 0x0120) ∧ decode 0x00000000 = some .nop ∧
    decode 0x05000900 = some (.guard true 9) ∧ decode 0x04000901 = some (.guardInverted false 9) ∧
    decode 0x04000002 = some .guardOff ∧ decode 0x06000810 = some (.stage 8 16) := by decide

/-- R104's table, and the encodings printed with R105 to R116. -/
theorem test_decode_control :
    decode 0x08050000 = some (.msave 5) ∧ decode 0x08000501 = some (.mload false 5) ∧
    decode 0x08000302 = some (.mand false 3) ∧ decode 0x08000303 = some (.mandn false 3) ∧
    decode 0x08000304 = some (.mor false 3) ∧ decode 0x08000005 = some .mset ∧
    decode 0x08060006 = some (.mpop 6) ∧ decode 0x08060007 = some (.mfirst 6) ∧
    decode 0x0AFFFFC0 = some (.bra 0xFFFFC0) ∧ decode 0x0C000010 = some (.call 16) ∧ decode 0x0E000000 = some .ret ∧
    decode 0x1000000C = some (.bzm 12) ∧ decode 0x1200FFF4 = some (.bnzm 0xFFF4) ∧
    decode 0x1409FFF4 = some (.bany false 9 0xFFF4) ∧ decode 0x1609000C = some (.ball false 9 12) ∧
    decode 0x19070002 = some (.jtx true 7 2) ∧ decode 0x1A000003 = some (.regang 3) ∧
    decode 0x1C000000 = some .exit ∧ decode 0x1E000000 = some .yield ∧ decode 0x1E000001 = some .yieldRegroup := by decide

/-- The word columns of Tables 5-5 and 5-6, and the words of R140, R141, R143 to R147. -/
theorem test_decode_integer :
    decode 0x20030102 = some (.add false 3 1 2) ∧ decode 0x22030102 = some (.sub false 3 1 2) ∧
    decode 0x24030102 = some (.mul false 3 1 2) ∧ decode 0x26030102 = some (.mulhi false 3 1 2) ∧
    decode 0x28030102 = some (.mad false 3 1 2) ∧ decode 0x2A040102 = some (.madw false 4 1 2) ∧
    decode 0x2C040102 = some (.addc false 4 1 2) ∧ decode 0x2E040102 = some (.subb false 4 1 2) ∧
    decode 0x30030102 = some (.min false 3 1 2) ∧ decode 0x32030102 = some (.max false 3 1 2) ∧
    decode 0x34030100 = some (.abs false 3 1) ∧ decode 0x36030100 = some (.neg false 3 1) ∧
    decode 0x38030102 = some (.and false 3 1 2) ∧ decode 0x3A030102 = some (.or false 3 1 2) ∧
    decode 0x3C030102 = some (.xor false 3 1 2) ∧ decode 0x3E030100 = some (.not false 3 1) ∧
    decode 0x40030102 = some (.shl false 3 1 2) ∧ decode 0x42030102 = some (.shr false 3 1 2) ∧
    decode 0x44030102 = some (.sar false 3 1 2) ∧ decode 0x46030102 = some (.rot false 3 1 2) ∧
    decode 0x48030100 = some (.clz false 3 1) ∧ decode 0x4A030100 = some (.popc false 3 1) ∧
    decode 0x4C030100 = some (.brev false 3 1) ∧ decode 0x4E030102 = some (.bfe false 3 1 2) ∧
    decode 0x50030102 = some (.bfi false 3 1 2) ∧ decode 0x52030102 = some (.sel false 3 1 2) ∧
    decode 0x54030102 = some (.cmp false 3 1 2) ∧ decode 0x56040200 = some (.mov false 4 2) ∧
    decode 0x56040201 = some (.movW8 false 4 2) ∧ decode 0x58043F81 = some (.ldi 4 0x3F81) ∧
    decode 0x5A047F80 = some (.ldih 4 0x7F80) := by decide

/-- The word column of Table 5-8 and the words of R145, R154 and R155. -/
theorem test_decode_float :
    decode 0x60030102 = some (.fadd false 3 1 2) ∧ decode 0x62030102 = some (.fsub false 3 1 2) ∧
    decode 0x64030102 = some (.fmul false 3 1 2) ∧ decode 0x66030102 = some (.ffma false 3 1 2) ∧
    decode 0x68030102 = some (.fmin false 3 1 2) ∧ decode 0x6A030102 = some (.fmax false 3 1 2) ∧
    decode 0x6C030100 = some (.fabs false 3 1) ∧ decode 0x6E030100 = some (.fneg false 3 1) ∧
    decode 0x70030102 = some (.fcmp false 3 1 2) ∧ decode 0x72030100 = some (.fclass false 3 1) ∧
    decode 0x74030100 = some (.fsqrt false 3 1) ∧ decode 0x76030100 = some (.frcp false 3 1) ∧
    decode 0x78030100 = some (.frsq false 3 1) ∧ decode 0x7A030100 = some (.fexp2 false 3 1) ∧
    decode 0x7C030100 = some (.flog2 false 3 1) ∧ decode 0x7E030100 = some (.fsin false 3 1) ∧
    decode 0x80030100 = some (.fcos false 3 1) ∧ decode 0x82030102 = some (.fdivs false 3 1 2) ∧
    decode 0x84030145 = some (.cvt false 3 1 4 5) ∧ decode 0x86030102 = some (.pack2 false 3 1 2) := by decide

/-- The word columns of R157 and R159 and the words of R158, R160 and R161. -/
theorem test_decode_cross_lane :
    decode 0x90030102 = some (.shfl false 3 1 2) ∧ decode 0x92030102 = some (.shflup false 3 1 2) ∧
    decode 0x94030102 = some (.shfldn false 3 1 2) ∧ decode 0x96030102 = some (.shflx false 3 1 2) ∧
    decode 0x98030100 = some (.voteAny false 3 1) ∧ decode 0x98030101 = some (.voteAll false 3 1) ∧
    decode 0x98030102 = some (.voteBallot false 3 1) ∧ decode 0x98030103 = some (.voteEq false 3 1) ∧
    decode 0x9A030100 = some (.reduxAdd false 3 1) ∧ decode 0x9A030106 = some (.reduxFadd false 3 1) ∧
    decode 0x9C030102 = some (.bcast false 3 1 2) ∧ decode 0x9E030000 = some (.rdsp 3 0) := by decide

/-- The word column of the memory instructions of spec/06_core_memory.md. -/
theorem test_decode_memory :
    decode 0xA004022A = some (.ld false 4 2 1 2 2) ∧ decode 0xA206024F = some (.st false 6 2 2 3 3) ∧
    decode 0xA4050101 = some (.lds false 5 1 0 1) ∧ decode 0xA6050142 = some (.sts false 5 1 2 2) ∧
    decode 0xA8070302 = some (.ldc false 7 3 2) ∧ decode 0xAA08026A = some (.atom false 8 2 3 2 0) ∧
    decode 0xAC080213 = some (.atomnr false 8 2 0 4 1) ∧ decode 0xAE080296 = some (.cas false 8 2 4 5 0) ∧
    decode 0xB0000090 = some (.fence 4 4) ∧ decode 0xB2040000 = some (.pfence 4 0) ∧
    decode 0xB4000200 = some (.monitor false 2) ∧ decode 0xB6000000 = some .mwait ∧
    decode 0xB8010200 = some (.pref false 1 2) ∧ decode 0xBA000200 = some (.cctlInv false 2) := by decide

/-- R199 to R218. -/
theorem test_decode_sync :
    decode 0xC0020301 = some (.barinit false 2 3 1) ∧ decode 0xC2000000 = some (.bararr 0) ∧
    decode 0xC4070000 = some (.barwait 7 0) ∧ decode 0xC6050002 = some (.bartest 5 2) ∧
    decode 0xC8080910 = some (.sbarInit false 8 9 2) ∧ decode 0xC8080011 = some (.sbarArr false 8 2) ∧
    decode 0xCA0C1002 = some (.launch false 12 16 2) ∧ decode 0xCC0E0009 = some (.sysr 14 9) ∧
    decode 0xCE000007 = some (.trap 7) := by decide

/-- The word columns of the engine instructions of spec/09 to spec/16. -/
theorem test_decode_engines :
    decode 0xD0081001 = some (.mma false 8 16 1) ∧ decode 0xD3081001 = some (.mmag true 8 16 1) ∧
    decode 0xD4081001 = some (.maccFill false 8 16 1) ∧ decode 0xD6081001 = some (.mst false 8 16 1) ∧
    decode 0xD8081001 = some (.mpair false 8 16 1) ∧ decode 0xDA081001 = some (.mrel false 8 16 1) ∧
    decode 0xE0081001 = some (.rfwd false 8 16 1) ∧ decode 0xE2081001 = some (.rmma false 8 16 1) ∧
    decode 0xE4081001 = some (.rrev false 8 16 1) ∧ decode 0xE4081021 = some (.rchk false 8 16 1) ∧
    decode 0xE6081001 = some (.rscl false 8 16 1) ∧ decode 0xE80A1002 = some (.xcp false 10 16 2) ∧
    decode 0xEA1E2002 = some (.xcpr false 30 32 2) ∧ decode 0xEC0A1000 = some (.xexp false 10 16 0) ∧
    decode 0xEC0A1020 = some (.xpack false 10 16 0) ∧ decode 0xEE091002 = some (.xcan false 9 16 2) ∧
    decode 0xF00A1003 = some (.rowcpy false 10 16 3) ∧ decode 0xF00A1023 = some (.rowfill false 10 16 3) ∧
    decode 0xF00A1043 = some (.rowand false 10 16 3) ∧ decode 0xF00A1063 = some (.rowor false 10 16 3) ∧
    decode 0xF00A1083 = some (.rowxor false 10 16 3) ∧ decode 0xF10A10A3 = some (.rownot true 10 16 3) ∧
    decode 0xF2091802 = some (.rowq false 9 24 2) ∧ decode 0xF4081001 = some (.snap false 8 16 1) ∧
    decode 0xF4081021 = some (.snapq false 8 16 1) ∧ decode 0xF4081041 = some (.snaprel false 8 16 1) ∧
    decode 0xF6081003 = some (.cgrun false 8 16 3) ∧ decode 0xF6081023 = some (.grun false 8 16 3) ∧
    decode 0xF8081001 = some (.erd false 8 16 1) ∧ decode 0xF9081001 = some (.erd true 8 16 1) := by decide

/-- Words of Table 3-11 that no instruction has: reserved opcodes, a nonzero unused field, L without operand a, an odd
address register, a reserved sem, scope, sub-op, flag or token. -/
theorem test_decode_undefined :
    [0x5C000000, 0x5E000000, 0x88000000, 0x8E000000, 0xBC000000, 0xBE000000, 0xDC000000, 0xDE000000, 0xFA000000, 0xFC000000,
      0x00000001, 0x1D000000, 0x34030101, 0x59010002, 0xA004032A, 0xA004024A, 0xA004023A, 0xA004000B + 0x10000,
      0x08000008, 0xD008100C, 0x1A000008, 0x06000811, 0xB2000000, 0xCC0E0209, 0xE4081041, 0xFE001FE0, 0xFE0019E1,
      0x02000400].all (fun w => decode w == none) = true := by decide

/-! ### States for single steps

One gang of eight slices at the first word of a one-word clause, as after the fetch of a placed word (log entry 5). -/

/-- The gang of the placed context has the turn. -/
def demo : State := ((State.reset.place 0).gangTurn 1 0 []).state

/-- With a mode in every slice. -/
def inMode (m : BitVec 16) (s : State) : State := s.modGg (fun g => g.modSlices 0xFF (fun _ sl => { sl with mode := m }))

/-- With a value in every lane of a register. -/
def holding (r : Nat) (v : Word) (s : State) : State := s.modGg (fun g => g.setScalar r 0xFF v)

/-- With no lane in the active mask. -/
def masked (s : State) : State := s.modGg (fun g => g.modSlices 0xFF (fun _ sl => { sl with am := 0 }))

/-- What a lane of a register of the issuing gang holds after an instruction. -/
def after (i : Instr) (s : State) (r l : Nat) : Option LaneVal :=
  match exec i s with
  | .next t => some (t.regAt 1 0 r l)
  | _ => none

/-! ### One step of a computing word -/

/-- Table 3-16: 2 + 3 with SAT under s32. -/
theorem test_add : after (.add true 3 1 2) (holding 1 2 (holding 2 3 (inMode 0x0120 demo))) 3 31 = some { val := 5 } := by decide +kernel
/-- R132: the sum wraps without SAT and clamps with it, in each element of n16x2. -/
theorem test_add_wraps : after (.add false 3 1 2) (holding 1 0xFFFF0001 (holding 2 0x00010001 (inMode 3 demo))) 3 0 =
    some { val := 0x00000002 } := by decide +kernel
theorem test_sub_saturates : after (.sub false 3 1 2) (holding 1 0x80000000 (holding 2 1 (inMode 0x0100 demo))) 3 0 =
    some { val := 0x80000000 } := by decide +kernel
theorem test_mulhi_signed : after (.mulhi false 3 1 2) (holding 1 0xFFFFFFFF (holding 2 2 demo)) 3 0 =
    some { val := 0xFFFFFFFF } := by decide +kernel
theorem test_sar_past_width : after (.sar false 3 1 2) (holding 1 0x80000000 (holding 2 32 demo)) 3 0 =
    some { val := 0xFFFFFFFF } := by decide +kernel
theorem test_rot : after (.rot false 3 1 2) (holding 1 0x80000001 (holding 2 33 demo)) 3 0 =
    some { val := 0x00000003 } := by decide +kernel
/-- R140: a source that is also the destination is read before it is written. -/
theorem test_mad_same : after (.mad false 3 3 3) (holding 3 5 demo) 3 0 = some { val := 30 } := by decide +kernel
theorem test_addc_carry : after (.addc false 4 1 2) (holding 1 0xFFFFFFFF (holding 2 0 (holding 5 1 demo))) 5 0 =
    some { val := 1 } := by decide +kernel
theorem test_subb_borrow : after (.subb false 4 1 2) (holding 1 0 (holding 2 0 (holding 5 1 demo))) 4 0 =
    some { val := 0xFFFFFFFF } := by decide +kernel
/-- The examples of R143. -/
theorem test_bfe_signed : after (.bfe false 3 1 2) (holding 1 0x00000FA0 (holding 2 0x0804 demo)) 3 0 =
    some { val := 0xFFFFFFFA } := by decide +kernel
theorem test_bfe_unsigned : after (.bfe false 3 1 2) (holding 1 0x00000FA0 (holding 2 0x0804 (inMode 1 demo))) 3 0 =
    some { val := 0x000000FA } := by decide +kernel
theorem test_bfi : after (.bfi false 3 1 2) (holding 1 0xFF (holding 2 0x0804 demo)) 3 0 = some { val := 0xFF0 } := by decide +kernel
/-- The example of R145. -/
theorem test_cmp : after (.cmp false 3 1 2) (holding 1 0x0005FFFF (holding 2 0x00050001 (inMode 2 demo))) 3 0 =
    some { val := 0x00320051 } := by decide +kernel
/-- R144: SEL reads bit 0 of the old d. -/
theorem test_sel : after (.sel false 3 1 2) (holding 1 7 (holding 2 9 (holding 3 2 demo))) 3 0 = some { val := 9 } := by decide +kernel
theorem test_clz : after (.clz false 3 1) (holding 1 0x00010000 demo) 3 0 = some { val := 15 } := by decide +kernel
theorem test_brev : after (.brev false 3 1) (holding 1 0x00000001 (inMode 5 demo)) 3 0 = some { val := 0x00000080 } := by decide +kernel
/-- Table 5-6: the absolute value of the most negative element is itself without SAT. -/
theorem test_abs : after (.abs false 3 1) (holding 1 0x80000000 demo) 3 0 = some { val := 0x80000000 } := by decide +kernel
/-- R125: both halves of a moved pair get the poison of either. -/
theorem test_movW8 : after (.movW8 false 4 2) ((holding 2 7 (holding 3 9 demo)).modGg (fun g => g.setReg 2 0 { val := 7, p := true })) 5 0 =
    some { val := 9, p := true } := by decide +kernel
/-- The examples of R147. -/
theorem test_ldi : after (.ldi 6 0xBF82) demo 6 0 = some { val := 0xFFFFBF82 } := by decide +kernel
theorem test_ldih : after (.ldih 6 0x3F80) (holding 6 0xFFFFBF82 demo) 6 0 = some { val := 0x3F80BF82 } := by decide +kernel
/-- Table 5-12. -/
theorem test_ffma : after (.ffma false 6 4 5) (holding 4 0x7F803F81 (holding 5 0x3F81 (holding 6 0x3F80BF82 (inMode 9 demo)))) 6 0 =
    some { val := 0x7FC03880 } := by decide +kernel
theorem test_fmul : after (.fmul false 3 4 5) (holding 4 0x7F803F81 (holding 5 0x00003F81 (inMode 9 demo))) 3 0 =
    some { val := 0x7FC03F82 } := by decide +kernel
theorem test_fadd : after (.fadd false 3 3 7) (holding 3 0x7FC03F82 (holding 7 0x3F80BF82 (inMode 9 demo))) 3 0 =
    some { val := 0x7FC00000 } := by decide +kernel
theorem test_fadd_rdn : after (.fadd false 3 3 7) (holding 3 0x7FC03F82 (holding 7 0x3F80BF82 (inMode 0x69 demo))) 3 0 =
    some { val := 0x7FC08000 } := by decide +kernel
/-- FP32: 1 / 3 to nearest, the root of 2, and 2 to the power 3, by hand. -/
theorem test_fdivs : after (.fdivs false 3 1 2) (holding 1 0x3F800000 (holding 2 0x40400000 (inMode 8 demo))) 3 0 =
    some { val := 0x3EAAAAAB } := by decide +kernel
theorem test_fsqrt : after (.fsqrt false 3 1) (holding 1 0x40000000 (inMode 8 demo)) 3 0 = some { val := 0x3FB504F3 } := by decide +kernel
theorem test_fexp2 : after (.fexp2 false 3 1) (holding 1 0x40400000 (inMode 8 demo)) 3 0 = some { val := 0x41000000 } := by decide +kernel
/-- R145: a NaN is unordered with everything. -/
theorem test_fcmp_nan : after (.fcmp false 3 1 2) (holding 1 0x7FC00000 (holding 2 0 (inMode 8 demo))) 3 0 =
    some { val := 0x48 } := by decide +kernel
/-- R154: a float-to-integer conversion clamps, and NaN gives 0. -/
theorem test_cvt_clamps : after (.cvt false 3 1 4 0) (holding 1 0x4F000000 demo) 3 0 = some { val := 0x7FFFFFFF } := by decide +kernel
theorem test_cvt_nan : after (.cvt false 3 1 4 0) (holding 1 0x7FC00000 demo) 3 0 = some { val := 0 } := by decide +kernel
/-- The example of R155. -/
theorem test_pack2 : after (.pack2 false 3 1 2) (holding 1 0x3F808000 (holding 2 0xC0400000 (inMode 9 demo))) 3 0 =
    some { val := 0xC0403F80 } := by decide +kernel

/-! ### States that meet the hypotheses of the obligations over computing words -/

theorem witness_integer_arithmetic : demo.canIssue = true ∧ demo.enabledLanes.length = 32 ∧
    demo.accepts isInt (fields3 253 254 255) = true ∧ (inMode 7 demo).accepts isInt (fields3 254 0 2) = true ∧
    (inMode 0x0105 demo).canIssue = true ∧ (inMode 0x0105 demo).accepts isInt (fields3 3 1 2) = true := by decide +kernel
theorem witness_shifts : (inMode 9 demo).canIssue = true ∧ (inMode 9 demo).accepts anyType (fields3 3 1 2) = true ∧
    (inMode 6 demo).accepts anyType (fields3 4 2 0) = true := by decide +kernel
theorem witness_accumulate : demo.canIssue = true ∧ demo.accepts isInt (fields3 3 1 2) = true ∧ 254 + 2 ≤ demo.cx.regsN ∧
    demo.accepts (fun t => t ≤ 1) [{ code := 1, reg := 1 }, { code := 2, reg := 255 }] = true := by decide +kernel
theorem witness_carry : demo.canIssue = true ∧ demo.inRange (carryFields 254 1 255) = true := by decide +kernel
theorem witness_one_source : (inMode 7 demo).canIssue = true ∧ (inMode 7 demo).accepts isInt (fields2 254 0) = true ∧
    (inMode 10 demo).accepts anyType (fields2 255 1) = true := by decide +kernel
theorem witness_bit_fields : demo.canIssue = true ∧ demo.accepts fieldType (fields3 3 1 255) = true ∧
    (inMode 6 demo).accepts fieldType (fields3 254 0 2) = true ∧ demo.accepts isInt (fields3 3 1 2) = true := by decide +kernel
theorem witness_moves : demo.canIssue = true ∧ demo.inRange (fields2 255 0) = true ∧ 254 + 2 ≤ demo.cx.regsN ∧
    255 < demo.cx.regsN := by decide +kernel
theorem witness_zero_mask : (masked demo).enabledLanes = [] ∧ (masked demo).canIssue = true := by decide +kernel
theorem witness_float : (inMode 8 demo).canIssue = true ∧ (inMode 8 demo).accepts isFloat (fields3 255 1 2) = true ∧
    (inMode 0x0309 demo).accepts isFloat (fields2 3 1) = true := by decide +kernel
theorem witness_conversions : demo.canIssue = true ∧ (Instr.cvt false 254 1 4 3).wellFormed = true ∧ 254 + 2 ≤ demo.cx.regsN ∧
    (Instr.cvt false 3 1 12 8).wellFormed = true ∧ (inMode 9 demo).canIssue = true ∧
    (inMode 9 demo).accepts packType (fields3 3 1 2) = true := by decide +kernel
theorem witness_shuffles : demo.canIssue = true ∧ demo.inRange (fields3 255 1 2) = true ∧ (255 : BitVec 8).toNat < demo.cx.regsN ∧
    (holding 2 31 demo).bitsAt false 2 7 = 31 := by decide +kernel
theorem witness_votes : demo.canIssue = true ∧ demo.inRange (fields2 255 1) = true ∧ demo.enabledLanes ≠ [] := by decide +kernel
theorem witness_reductions : demo.canIssue = true ∧ demo.reduxFault reduxInt 3 1 = none ∧ demo.reduxFault anyType 3 1 = none ∧
    (inMode 7 demo).reduxFault reduxInt 254 2 = none ∧ (inMode 8 demo).canIssue = true ∧
    (inMode 8 demo).reduxFault (fun t => t == 8) 255 1 = none := by decide +kernel

/-! ### Cross-lane and control words -/

/-- R157: SHFLUP in a lane below the shift reads itself. -/
theorem test_shflup : after (.shflup false 3 1 2)
    ((holding 2 4 demo).modGg (fun g => g.setReg 1 3 { val := 9 })) 3 3 = some { val := 9 } ∧
    after (.shflup false 3 1 2) ((holding 2 4 demo).modGg (fun g => g.setReg 1 3 { val := 9 })) 3 7 = some { val := 9 } := by
  decide +kernel
/-- R159: a ballot counts only enabled lanes. -/
theorem test_ballot : after (.voteBallot false 3 1)
    ((holding 1 1 demo).modGg (fun g => g.modSlices 1 (fun _ sl => { sl with am := 0b0101 }))) 3 0 =
    some { val := 0xFFFFFFF5 } := by decide +kernel
/-- R160: an exclusive scan leaves the lane itself out. -/
theorem test_escan : after (.reduxEscanadd false 3 1) (holding 1 2 demo) 3 5 = some { val := 10 } := by decide +kernel
/-- R158. -/
theorem test_bcast : after (.bcast false 3 1 2) ((holding 2 30 demo).modGg (fun g => g.setReg 1 30 { val := 77, p := true })) 3 4 =
    some { val := 77, p := true } := by decide +kernel
/-- R104: MPOP counts the active lanes. -/
theorem test_mpop : after (.mpop 6) (demo.modGg (fun g => g.modSlices 3 (fun _ sl => { sl with am := 0 }))) 6 31 =
    some { val := 24 } := by decide +kernel
/-- R161: field 2 is the gang number, field 3 the number of gangs. -/
theorem test_rdsp : after (.rdsp 3 0) demo 3 19 = some { val := 19 } ∧ after (.rdsp 3 1) demo 3 19 = some { val := 4 } := by
  decide +kernel

/-- A gang over memory of its own partition: one 512-MiB page that maps addresses to themselves, readable, writable and
executable, with a cell at 0x200000 for its tags, and clause headers around the issuing word. -/
def paged : State :=
  { demo with
    parts := [(1, { record := { id := 1, root := 0x100000, pmap := [(0, 0)], sstb := 0, pmin := 0, pmax := 23, wdcap := 0,
                                preempt := true, vfs := [], domain := 0, cores := [], dram := [], oppoint := 0 } })],
    dram := Memory.putBytes 0x10004 (leBytes 4 0x1CFE1FE1) (Memory.putBytes 0x10008 (leBytes 4 0xFE001FE1)
      (Memory.putBytes 0x10010 (leBytes 4 0xFE001FE1) (Memory.putBytes 0x100000 (leBytes 8 0x8000000000110000)
        (Memory.putBytes 0x110000 (leBytes 8 0x8000000000120000) (Memory.putBytes 0x120000 (leBytes 8 0xF800000000000000)
          (Memory.putBytes 0x120008 (leBytes 8 0x200000) [])))))) }

/-- In paged memory the slices with an open call. -/
def called : State := paged.modGg (fun g => g.modSlices 0xFF (fun _ sl => { sl with returns := [0x10010] }))

/-- In paged memory with a jump table of two targets, join and token. -/
def tabled : State :=
  (holding 7 1 paged).modCx (fun x => { x with jtabs := [(2, 0x10008, [0x10008, 0x10010])] })

/-- In paged memory the word of slices 0 to 3, while slices 4 to 7 stand elsewhere. -/
def parted : State :=
  { paged with issue := { paged.issue with slices := 0x0F } }

/-- R63, R105: a branch of three words goes to the header at 0x10010, and all slices with it. -/
theorem test_bra : (match exec (.bra 3) paged with
    | .next t => (t.gg.slices.map (fun sl => (sl.pc, sl.widx, sl.am))) == List.replicate 8 (0x10010, 0, 0xF)
    | _ => false) = true := by decide +kernel
/-- R63: a branch to a word that is no header raises ILLEGAL_ENCODING with the address and the word. -/
theorem test_bra_no_header : (match exec (.bra 0) paged with
    | .next t => t.cx.fault.map (fun r => (r.code, r.pc, r.detail0)) == some (fIllegalEncoding, 0x10004, 0x1CFE1FE1)
    | _ => false) = true := by decide +kernel
/-- R78, R98: GUARD keeps the lanes whose bit is 1. -/
theorem test_guard : (match exec (.guard false 1) (demo.modGg (fun g => g.setReg 1 2 { val := 1 })) with
    | .next t => t.gg.slices.map (·.guard) == [0b0100, 0, 0, 0, 0, 0, 0, 0]
    | _ => false) = true := by decide +kernel

theorem witness_nop : demo.canIssue = true ∧ demo.midClause = false ∧
    (demo.modGg (fun g => g.modSlices 0xFF (fun _ sl => { sl with clause := sl.clause ++ [0] }))).midClause = true := by decide +kernel
theorem witness_mode_guard_stage : demo.canIssue = true ∧ (255 : BitVec 8).toNat < demo.cx.regsN ∧
    demo.activeLanes.all (fun k => !demo.poisonAt false 255 k) = true ∧ 1 ≤ (16 : BitVec 8).toNat ∧
    (240 : BitVec 8).toNat + (16 : BitVec 8).toNat ≤ demo.cx.regsN ∧ demo.cx.regsN ≤ 256 := by decide +kernel
theorem witness_masks : demo.canIssue = true ∧ (255 : BitVec 8).toNat < demo.cx.regsN ∧
    (lanesOf demo.issue.slices).length = 32 ∧
    ((lanesOf demo.issue.slices).all (fun k => !(demo.gg.am k && demo.poisonAt false 255 k))) = true := by decide +kernel
theorem witness_branches : Claims.running called = true ∧ called.yieldAsk = .no ∧
    Claims.headersAt called (called.allTo (wrap 64 (called.issue.pc + 4 * (3 : BitVec 24).toInt))) = true ∧
    wrap 64 (called.issue.pc + 4 * (3 : BitVec 24).toInt) = 0x10010 ∧
    called.issuing.all (fun k => (called.gg.slice k).returns.length < Config.returnDepth) = true ∧
    called.issuing.all (fun k => (called.gg.slice k).returns != []) = true ∧
    Claims.headersAt called (called.issuing.map (fun k =>
      { slice := k, pc := nthOr 0 (called.gg.slice k).returns 0, taken := true })) = true ∧
    Claims.headersAt called (called.branchDests 3 (fun k => (called.gg.slice k).am == 0)) = true ∧
    Claims.headersAt called (called.branchDests 3 (fun k => !((called.gg.slice k).am == 0))) = true ∧
    (255 : BitVec 8).toNat < called.cx.regsN ∧ called.enabledLanes.all (fun k => !called.poisonAt false 255 k) = true := by
  decide +kernel
theorem witness_jtx : Claims.running tabled = true ∧
    (List.range 2).filter (fun i => tabled.enabledLanes.any (fun k => tabled.bitsAt false 7 k == i)) = [1] ∧
    tabled.jtxFault 7 0 2 2 = none ∧ tabled.notHeader tabled.cx 0x10010 = none ∧ tabled.codeAway tabled.cx 0x10010 = none ∧
    tabled.yieldAsk = .no := by decide +kernel
theorem witness_regang_exit_yield : Claims.running parted = true ∧
    Claims.headersAt parted (parted.allTo (parted.issue.pc + 4)) = true ∧
    (7 < parted.gg.slices.length ∧ 7 ∉ parted.issuing ∧ (parted.gg.slice 7).st = .runnable) ∧
    (parted.takeLost 0xFF).isNone = true ∧ parted.gg.faulted = [] ∧ parted.gg.remoteOut = false ∧ parted.lastExit = false ∧
    paged.lastExit = true ∧ paged.gg.marks = [] ∧ (paged.takeLost 0xFF).isNone = true := by decide +kernel
theorem witness_clause_header : Claims.running paged = true ∧ paged.gg.flags.length = 12 ∧ paged.gg.lost = [] ∧
    paged.gg.faulted = [] ∧ paged.gg.waitDone 0xFFF = true ∧
    (paged.modGg (fun g => { g with flags := mapNth 11 (fun f => { f with set := false, count := 1 }) g.flags })).gg.waitDone 0x800 = false := by
  decide +kernel
theorem witness_arithmetic_checks : demo.canIssue = true ∧ demo.enabledLanes ≠ [] ∧ demo.cx.run = .running ∧
    demo.issuing.filter (fun k => !isFloat (modeOf (demo.gg.slice k).mode).type) = 0 :: [1, 2, 3, 4, 5, 6, 7] ∧
    (inMode 8 demo).issuing.filter (fun k => !isInt (modeOf ((inMode 8 demo).gg.slice k).mode).type) = 0 :: [1, 2, 3, 4, 5, 6, 7] ∧
    demo.issuing.filter (fun k => !isInt (modeOf (demo.gg.slice k).mode).type) = [] ∧ demo.anyWide = false ∧
    (demo.modCx (fun x => { x with regsN := 8 })).cx.regsN ≤ (8 : BitVec 8).toNat ∧
    (7 : BitVec 8).toNat < (demo.modCx (fun x => { x with regsN := 8 })).cx.regsN := by decide +kernel

theorem witness_pair_and_range_checks :
    let wide := inMode 6 demo
    let low := inMode 8 (demo.modCx (fun x => { x with regsN := 8 }))
    wide.issuing.filter (fun k => !isInt (modeOf (wide.gg.slice k).mode).type) = [] ∧ wide.anyWide = true ∧ wide.canIssue = true ∧
    [(0, 2), (1, 3), (2, 255)].find? (fun (e : Nat × Nat) => e.2 % 2 == 1) = some (1, 3) ∧
    low.issuing.filter (fun k => !isFloat (modeOf (low.gg.slice k).mode).type) = [] ∧ low.canIssue = true ∧
    [(0, 7), (1, 8), (2, 7)].find? (fun (e : Nat × Nat) => low.cx.regsN < e.2 + 1) = some (1, 8) := by decide +kernel

/-- Two sub-gangs, of slices 0 to 3 and 4 to 7, the first of which has used up its quantum while a gathering of unit 0
has lasted its limit. -/
def expired : State :=
  { demo with
    cycles := [Config.gatheringLimit, 0, 0, 0]
    ctxs := Tab.set 1 { demo.cx with
      gangs := [{ demo.gg.modSlices 0xF0 (fun _ sl => { sl with sub := 4 }) with quantum := 256, cur := some 0 }],
      gatherings := [{ unit := 0, point := 0x10000, since := 0 }] } demo.ctxs }

theorem witness_quantum : expired.ctxOf 1 = some expired.cx ∧ 0 < expired.cx.gangs.length ∧
    256 ≤ (expired.cx.gang 0).quantum ∧ (expired.cx.gang 0).cur = some 0 ∧
    (expired.cx.gang 0).runnableLowest.filter (fun i =>
      leastOr 0 ((expired.cx.gang 0).which (fun sl => sl.live && sl.sub == 0)) < i) = [4] ∧
    expired.cx.gatherings.all (fun k => k.unit = 0 && k.since + Config.gatheringLimit ≤ expired.cycle (dieOf expired.cx.core)) = true ∧
    expired.cx.gatherings ≠ [] := by decide +kernel

/-! ### Memory words -/

/-- With an address in every lane of the pair v2, v3. -/
def addressing (a : Nat) (s : State) : State :=
  holding 2 (BitVec.ofNat 32 a) (holding 3 (BitVec.ofNat 32 (a / 2 ^ 32)) s)

/-- With one lane, lane 0, in the active mask. -/
def oneLane (s : State) : State := s.modGg (fun g => g.modSlices 0xFF (fun i sl => { sl with am := if i = 0 then 1 else 0 }))

/-- The enabled lanes that have a target, with it. -/
def targets (s : State) (tgt : Nat → LaneFail ⊕ Target) : List (Nat × Target) :=
  s.enabledLanes.filterMap (fun k => match tgt k with | .inr t => some (k, t) | .inl _ => none)

/-- A lane that addresses the package's memory at 0x20000, one at the last 8 bytes of the page's window of 512 MiB, and
one at the last word of the scratchpad. -/
def atMemory : State := addressing 0x20000 (oneLane paged)
def atPageEnd : State := addressing 0x1FFFFFF8 (oneLane paged)
def atWindow : State := addressing (windowBase + 4092) (oneLane paged)

/-- R163, R185, R5: a store of a word puts its low byte firstAt; v6 goes to the memory, and to the window. -/
theorem test_st : (match exec (.st false 6 2 0 0 2) (holding 6 0x11223344 atMemory) with
    | .next t => t.dram.bytes 0x1FFFF 6 == [0, 0x44, 0x33, 0x22, 0x11, 0]
    | _ => false) = true := by decide +kernel
theorem test_st_window : (match exec (.st false 6 2 0 0 2) (holding 6 0x11223344 atWindow) with
    | .next t => t.cx.window.bytes 4091 5 == [0, 0x44, 0x33, 0x22, 0x11] && t.dram == atWindow.dram
    | _ => false) = true := by decide +kernel
/-- R189: ADD of 32-bit words in memory leaves the sum there. -/
theorem test_atom_add : (match exec (.atom false 6 2 0 0 0) (holding 6 5 { atMemory with dram := Memory.put 0x20000 7 atMemory.dram }) with
    | .next t => t.dramNat 0x20000 4 == 12
    | _ => false) = true := by decide +kernel
/-- A load's completion writes what the load read when it issued. -/
theorem test_load_completion : (match exec (.ld false 6 2 0 0 2) { atMemory with dram := Memory.put 0x20001 7 atMemory.dram } with
    | .next t => match exec (.loadCompletion 1 0 0) t with
      | .next u => u.regAt 1 0 6 0 == { val := 0x700 } && u.gg.pend == []
      | _ => false
    | _ => false) = true := by decide +kernel
/-- R178: an address off its size's multiple raises MISALIGNED. -/
theorem test_misaligned : (match exec (.ld false 6 2 0 0 2) (addressing 0x20002 (oneLane paged)) with
    | .next t => t.cx.fault.map (·.code) == some fMisaligned
    | _ => false) = true := by decide +kernel

theorem witness_loads :
    let fields := [dataField 6 8, pairField 2]
    let tgt := fun (s : State) (n : Nat) (k : Nat) => s.vaTarget (s.bitsAt true 2 k) n n { r := true }
    Claims.addressed atMemory fields [2, 3] (tgt atMemory 4) (targets atMemory (tgt atMemory 4)) = true ∧
    Claims.addressed atPageEnd fields [2, 3] (tgt atPageEnd 8) (targets atPageEnd (tgt atPageEnd 8)) = true ∧
    Claims.addressed atWindow fields [2, 3] (tgt atWindow 4) (targets atWindow (tgt atWindow 4)) = true ∧
    Claims.addressed (holding 1 4088 paged) [dataField 6 8, oneField 1] [1]
      (fun k => paged.scratchTarget ((holding 1 4088 paged).bitsAt false 1 k) 8)
      ((List.range 32).map (fun k => (k, .window 4088))) = true ∧
    (targets atMemory (tgt atMemory 4)).all (fun e => match e.2 with
      | .mem p => homeOf p.loc == .package && p.loc % 32 + 4 ≤ 32
      | .window _ => false) = true ∧
    atMemory.core atMemory.cx.core = {} ∧ atMemory.rdc (dieOf atMemory.cx.core) = [] ∧ semReleases 4 = true ∧
    Claims.quiet atMemory = true := by decide +kernel
theorem witness_constant_load :
    let s := (holding 1 4 paged).modCx (fun x => { x with cbase := 0x20000, dataAt := 0x20000, dataSize := 65536 })
    let tgt := fun (k : Nat) => s.constTarget ((s.cx.cbase + s.bitsAt false 1 k) % 2 ^ 64) 4
    Claims.addressed s [dataField 6 4, oneField 1] [1] tgt (targets s tgt) = true := by decide +kernel
theorem witness_stores :
    let tgt := fun (s : State) (n : Nat) (k : Nat) => s.vaTarget (s.bitsAt true 2 k) n n { w := true }
    Claims.quiet atMemory = true ∧ (targets atMemory (tgt atMemory 4)).all (fun e => !atMemory.onBarrier 4 e.2) = true ∧
    Claims.addressed atMemory [dataField 6 4, pairField 2] [2, 3] (tgt atMemory 4) (targets atMemory (tgt atMemory 4)) = true ∧
    Claims.addressed atWindow [dataField 6 4, pairField 2] [2, 3] (tgt atWindow 4) (targets atWindow (tgt atWindow 4)) = true ∧
    Claims.addressed (holding 1 4088 paged) [dataField 6 8, oneField 1] [1]
      (fun k => paged.scratchTarget ((holding 1 4088 paged).bitsAt false 1 k) 8)
      ((List.range 32).map (fun k => (k, .window 4088))) = true ∧ paged.onBarrier 8 (.window 4088) = false := by decide +kernel
/-- One load of a pair is outstanding. -/
def loading : State := paged.modGg (fun g => { g with
  pend := [6, 7], accesses := [(3, { kind := .load, slices := 0x80, size := 8, scope := 0, acquire := false, home := true, dest := 6,
                                     width := 2, flagA := some 2, results := [{ lane := 31, value := 2 ^ 63 + 5, p := false }] })] })
/-- That load. -/
def outstanding : Option Access := Tab.find 3 loading.gg.accesses
theorem witness_completions : loading.ctxOf 1 = some loading.cx ∧ 0 < loading.cx.gangs.length ∧
    loading.gg = loading.cx.gang 0 ∧ outstanding.map (·.home) = some true ∧ outstanding.map (·.remote) = some [] ∧
    outstanding.map (fun a => a.results.map (·.lane)) = some [31] ∧ outstanding.map (·.kind.loads) = some true ∧
    (loading.gg.slice (31 / 4)).live = true ∧ outstanding.map (·.flagA) = some (some 2) ∧
    outstanding.map (·.flagB) = some none ∧ 2 < loading.gg.flags.length ∧ outstanding.map (·.sys) = some false := by decide +kernel
/-- A lane's target of an atomic. -/
def atomTarget (s : State) (n : Nat) (e : Nat) : LaneFail ⊕ Target :=
  s.vaTarget (s.bitsAt true 2 e) n n { r := true, w := true, noSys := true }
/-- The lowest enabled lane with its target. -/
def firstAt (s : State) (n : Nat) : Nat × Target := nthOr (99, .window 0) (targets s (atomTarget s n)) 0
theorem witness_atomics :
    let s := holding 6 1 atMemory
    firstAt s 4 = (0, (firstAt s 4).2) ∧ Claims.quiet s = true ∧ s.onBarrier 4 (firstAt s 4).2 = false ∧
    Claims.markedAt s 4 (firstAt s 4).2 = false ∧ s.poisonAt false 6 0 = false ∧
    Claims.addressed s [dataField 6 4, pairField 2, { code := 3, reg := 8, isElem := false }] [2, 3] (atomTarget s 4) [firstAt s 4] = true ∧
    s.opWordFault 8 4 = none ∧
    Claims.addressed s [dataField 6 4, pairField 2, { code := 3, reg := 7, isElem := false, count := 1 }] [2, 3] (atomTarget s 4)
      [firstAt s 4] = true ∧ s.poisonAt false 7 0 = false := by decide +kernel
/-- In lane 0 the operand v6 of an atomic at 0x20000 is poisoned. -/
def spoilt : State := (holding 6 1 atMemory).modGg (fun g => g.setReg 6 0 { val := 1, p := true })
theorem witness_poisoned_atomic : spoilt.poisonAt false 6 0 = true ∧ spoilt.opWordFault 8 4 = none ∧
    Claims.addressed spoilt [dataField 6 4, pairField 2, { code := 3, reg := 8, isElem := false }] [2, 3] (atomTarget spoilt 4)
      [firstAt spoilt 4] = true := by decide +kernel
/-- R177: a store of a poisoned word marks its sector, and a later unpoisoned one of part of it keeps the mark. -/
theorem test_store_marks : (match exec (.st false 6 2 0 0 2) spoilt with
    | .next t => t.dramMarks == [0x1000] &&
        (match exec (.st false 7 2 0 0 2) { t with ctxs := atMemory.ctxs, issue := atMemory.issue } with
         | .next u => u.dramMarks == [0x1000]
         | _ => false)
    | _ => false) = true := by decide +kernel
theorem witness_wide_atomics :
    let s := holding 10 1 atPageEnd
    firstAt s 8 = (0, (firstAt s 8).2) ∧ s.onBarrier 8 (firstAt s 8).2 = false ∧ Claims.markedAt s 8 (firstAt s 8).2 = false ∧
    s.poisonAt true 8 0 = false ∧
    Claims.addressed s [dataField 8 8, pairField 2, { code := 3, reg := 10, isElem := false }] [2, 3] (atomTarget s 8) [firstAt s 8] = true ∧
    s.opWordFault 10 8 = none := by decide +kernel
theorem witness_fences : paged.canIssue = true ∧ Claims.quiet paged = true ∧ paged.enabledLanes ≠ [] ∧
    (254 : BitVec 8).toNat + 2 ≤ paged.cx.regsN ∧ paged.tagRoom 0 = true ∧ (atMemory.lineLanes 2).length = 1 ∧
    (atMemory.lineLanes 2).all (fun e => homeOf e.2.loc != .fabric) = true ∧ atMemory.canIssue = true ∧
    atMemory.enabledLanes ≠ [] := by decide +kernel
/-- The slices watch a line, which a write has fired or not. -/
def watching (fired : Bool) (st : SliceState) : State := paged.modGg (fun g => g.modSlices 0xFF (fun _ sl =>
  { sl with watch := some { window := true, line := 2, fired := fired }, st := st }))
/-- R193: MONITOR watches the 128-byte line of its address, here line 4 of the window; a lane above the lowest may address a
peer. -/
theorem test_monitor : (match exec (.monitor false 2) (addressing (windowBase + 512) paged) with
    | .next t => t.gg.slices.map (fun sl => sl.watch) == List.replicate 8 (some { window := true, line := 4, fired := false })
    | _ => false) = true := by decide +kernel
/-- R194: a fired watch is disarmed, and its slices go on. -/
theorem test_mwait_fired : (match exec .mwait (watching true .runnable) with
    | .next t => t.gg.slices.map (fun sl => (sl.watch, sl.st)) == List.replicate 8 (none, .runnable)
    | _ => false) = true := by decide +kernel
theorem witness_monitor :
    let got := fun (s : State) => s.enabledLanes.map (fun e => (e, s.vaTarget (s.bitsAt true 2 e) 1 1 { r := true }))
    let ok := fun (s : State) (ts : List (Nat × Target)) => s.canIssue = true ∧ s.inRange [pairField 2] = true ∧
      s.poisonedLanes [2, 3] = [] ∧ got s = ts.map (fun e => (e.1, .inr e.2)) ∧ (ts.take 1).all (fun e => !e.2.countsB) = true ∧ ts ≠ []
    ok (addressing (windowBase + 512) paged) ((List.range 32).map (fun k => (k, .window 512))) ∧
    ok atMemory (targets atMemory (fun e => atMemory.vaTarget (atMemory.bitsAt true 2 e) 1 1 { r := true })) := by decide +kernel
theorem witness_mwait : paged.canIssue = true ∧ paged.issuing.all (fun k => k < paged.gg.slices.length) = true ∧
    paged.issuing.any (fun k => ((paged.gg.slice k).watch.map (fun _ => true)).getD false) = false ∧
    (watching true .runnable).canIssue = true ∧
    (watching true .runnable).issuing.any (fun k => (((watching true .runnable).gg.slice k).watch.map (·.fired)).getD false) = true ∧
    (watching false .runnable).issuing.any (fun k => (((watching false .runnable).gg.slice k).watch.map (fun _ => true)).getD false) = true ∧
    (watching false .runnable).issuing.any (fun k => (((watching false .runnable).gg.slice k).watch.map (·.fired)).getD false) = false ∧
    (watching true .runnable).issuing.all (fun k => k < (watching true .runnable).gg.slices.length) = true := by decide +kernel
theorem witness_wake :
    let s := watching true (.waiting .mwait)
    s.ctxOf 1 = some s.cx ∧ s.cx.run = .running ∧ 0 < s.cx.gangs.length ∧
    s.gg.which (fun sl => sl.st == .waiting .mwait && sl.sub == 0) = [0, 1, 2, 3, 4, 5, 6, 7] ∧
    (s.gg.slice 0).watch.map (·.fired) = some true := by decide +kernel

/-! ### Barriers, special registers, traps -/

/-- With a change of a named barrier. -/
def withBar (n : Nat) (f : NamedBar → NamedBar) (s : State) : State := s.modCx (fun x => { x with bars := mapNth n f x.bars })

/-- A barrier b15 that expects two arrivals, and the counts of BARINIT: count 65535, offset 4088. -/
def barred : State := holding 4 0xFFFFFFFF (holding 5 4088 (holding 6 65535 (withBar 15 (fun b => { b with expect := 2 }) paged)))
/-- The gang arrived at b15 in phase 0, which has been completed since. -/
def passed : State := (withBar 15 (fun b => { b with phase := 1, err := true }) barred).modGg (fun g => { g with phases := [(.named 15, 0)] })

/-- Table 7-2: a phase 0 that completed with ERR, as BARWAIT returns it. -/
theorem test_barwait : after (.barwait 7 15) passed 7 31 = some { val := 0xC0000000 } := by decide +kernel
/-- R201: the arrival that the phase expects last completes it. -/
theorem test_bararr : (match exec (.bararr 15) (withBar 15 (fun b => { b with expect := 1, phase := 2 ^ 24 - 1 }) barred) with
    | .next t => (nthOr {} t.cx.bars 15).phase == 0 && (nthOr {} t.cx.bars 15).arrived == 0
    | _ => false) = true := by decide +kernel
/-- R215: TRAP 7 raises code 0x0030 with DETAIL0 7. -/
theorem test_trap : (match exec (.trap 7) paged with
    | .next t => t.cx.fault.map (fun r => (r.code, r.detail0, r.pc)) == some (0x30, 7, 0x10004) && t.cx.run == .stopping
    | _ => false) = true := by decide +kernel
/-- R213: register 2 names die, core and unit, register 4 the context. -/
theorem test_sysr : after (.sysr 9 4) paged 9 0 = some { val := 1 } ∧
    after (.sysr 9 2) (paged.modCx (fun x => { x with core := 161 })) 9 0 = some { val := 0x01010000 } := by decide +kernel

theorem witness_named_barriers : (15 : BitVec 5).toNat < barred.cx.bars.length ∧ barred.canIssue = true ∧
    barred.barinitFault 4 6 15 = none ∧ barred.barinitFault 5 6 15 = none ∧ (15 : BitVec 5).toNat < barred.cx.nbar ∧
    Claims.mayArrive barred (.named 15) = true ∧
    (barred.gg.liveMask &&& (barred.gg.marksOf (.named 15) ||| barred.issue.slices)) = barred.gg.liveMask ∧
    (barred.namedBar 1 15).arrived + 1 < (barred.namedBar 1 15).expect ∧
    Claims.mayArrive parted (.named 0) = true ∧
    (parted.gg.liveMask &&& (parted.gg.marksOf (.named 0) ||| parted.issue.slices)) ≠ parted.gg.liveMask ∧
    (paged.namedBar 1 0).expect ≤ (paged.namedBar 1 0).arrived + 1 ∧ Claims.mayArrive paged (.named 0) = true := by decide +kernel
/-- The slices of a gang wait for phase 0 of b15, which has completed. -/
def returning : State := passed.modGg (fun g => g.modSlices 0xFF (fun _ sl => { sl with st := .waiting (.barrier (.named 15) 0 7 0) }))
theorem witness_barrier_waits : Claims.running barred = true ∧ (255 : BitVec 8).toNat < barred.cx.regsN ∧
    (15 : BitVec 5).toNat < barred.cx.nbar ∧ barred.gg.waitPhase (.named 15) (barred.namedBar 1 15).phase = (barred.namedBar 1 15).phase ∧
    Claims.running passed = true ∧ passed.gg.waitPhase (.named 15) (passed.namedBar 1 15).phase ≠ (passed.namedBar 1 15).phase := by
  decide +kernel
theorem witness_barrier_return : returning.ctxOf 1 = some returning.cx ∧ 0 < returning.cx.gangs.length ∧ returning.cx.run = .running ∧
    15 < returning.cx.nbar ∧ 7 < returning.cx.regsN ∧
    (returning.cx.gang 0).which (fun sl => (match sl.st with | .waiting (.barrier _ _ _ _) => true | _ => false) && sl.sub == 0) =
      [0, 1, 2, 3, 4, 5, 6, 7] ∧
    ((returning.cx.gang 0).slice 0).st = .waiting (.barrier (.named 15) 0 7 0) ∧ 0 ≠ (returning.namedBar 1 15).phase := by decide +kernel
/-- An address of a scope barrier in v2 and v3, before and after it is initialised at 0x20000 for one arrival, or two. -/
def atScope (n : Nat) : State :=
  match exec (.sbarInit false 2 8 2) (holding 8 (BitVec.ofNat 32 n) (addressing 0x20000 paged)) with
  | .next t => { t with issue := paged.issue, ctxs := (addressing 0x20000 paged).ctxs }
  | _ => paged
theorem witness_scope_barriers : sbarScope 2 = true ∧
    (let s := holding 8 65535 (addressing 0x20000 paged)
     Claims.running s = true ∧ Claims.quiet s = true ∧ s.sbarFault 2 8 true true false 2 = .inr 0x20000) ∧
    (let s := atScope 2
     Claims.running s = true ∧ Claims.quiet s = true ∧ s.sbarFault 2 0 false false false 2 = .inr 0x20000 ∧
     Claims.mayArrive s (.scope 0x20000) = true ∧
     (s.gg.liveMask &&& (s.gg.marksOf (.scope 0x20000) ||| s.issue.slices)) = s.gg.liveMask ∧
     (s.scopeWord 0x20000).arrived + 1 < (s.scopeWord 0x20000).expect ∧ s.sbarFault 2 8 true false false 2 = .inr 0x20000 ∧
     s.sbarFault 2 0 false false true 2 = .inr 0x20000) ∧
    ((atScope 1).scopeWord 0x20000).expect = 1 := by decide +kernel
/-- A watchdog count at its limit. -/
def timed (now : Nat) : State := { paged.modCx (fun x => { x with wdog := 1, watches := [{ kind := .named 3, since := 0, gang := 0 }] }) with
  cycles := [now, 0, 0, 0] }
/-- R210: the timeout of b3 has code 0x002C, the barrier in DETAIL0, and neither PRECISE nor RESUMABLE. -/
theorem test_barrier_timeout : (match exec (.barrierTimeout 1 0) (timed 1024) with
    | .next t => t.cx.fault.map (fun r => (r.code, r.detail0, r.flags % 4)) == some (0x2C, 3, 0) && t.cx.run == .stopping
    | _ => false) = true := by decide +kernel
theorem witness_trap_timeout : paged.canIssue = true ∧ paged.cx.run = .running ∧ paged.gg.frames = [] ∧
    (paged.modGg (fun g => g.modSlices 0xFF (fun _ sl => { sl with clause := sl.clause ++ [0] }))).midClause = true ∧
    (timed 1024).ctxOf 1 = some (timed 1024).cx ∧ (timed 1024).cx.run = .running ∧
    (timed 1024).cx.watches.length = 1 ∧ 0 + 1024 * (timed 1024).cx.wdog ≤ (timed 1024).cycle (dieOf (timed 1024).cx.core) ∧
    (timed 1023).cycle (dieOf (timed 1023).cx.core) < 0 + 1024 * (timed 1023).cx.wdog := by decide +kernel
theorem witness_special_registers : paged.canIssue = true ∧ (255 : BitVec 8).toNat < paged.cx.regsN ∧
    (paged.lead 255).p = false := by decide +kernel

/-! ### Engine instructions -/

/-- With the words of a command in v16 to v23. -/
def commanding (ws : List Nat) : State :=
  ((List.range 8).zip ws).foldl (fun s (k, v) => holding (16 + k) (BitVec.ofNat 32 v) s) paged

/-- Every engine word has words that it accepts: word 3 (K), 5 (LEN), 6 or 7 (a count) or 0 (the group) is not zero. -/
theorem witness_engine_words : (Claims.engineWords false 8 16 0).all (fun ie =>
    [paged, commanding [0, 0, 0, 1], commanding [0, 0, 0, 0, 0, 0, 1], commanding [0, 0, 0, 0, 0, 16],
     commanding [0, 0, 0, 0, 0, 0, 0, 1], commanding [1]].any (fun s => Claims.mayPublish s ie.2 8 16 0)) = true := by decide +kernel

/-- R12, Table 1-4: the issue word of the first command of a core, and its ring entry. -/
theorem test_rowfill : (match exec (.rowfill false 10 16 3) (commanding [0, 0x40000, 0, 0, 0, 0, 0, 1]) with
    | .next t => t.regAt 1 0 10 0 == { val := 0 } && t.cx.window.bytes 4096 8 == [0, 0x43, 0, 0x31, 0, 0, 4, 0] && t.cx.seq == 1
    | _ => false) = true := by decide +kernel

/-- A command that the placed context's first slot holds. -/
def ringCmd (eng op : Nat) (ws : List Nat) (st : CmdState) : Cmd :=
  { origin := .ring 1 0 0xFF 0 0 9, part := 1, ctx := 1, core := 0, eng := eng, op := op, words := ws.map (BitVec.ofNat 32), state := st }
/-- With that command as number 0, and its slot. -/
def ordered (c : Cmd) : State :=
  { (withBar 3 (fun b => { b with expect := 3 }) paged).modCx (fun x => { x with seq := 1, slots := [(0, { seq := 0, cmd := 0 })] }) with
    cmds := [(0, c)], nextCmd := 1 }

theorem witness_row_start : (ordered (ringCmd 3 1 [0x31004300, 0x40000, 0, 0, 0, 0, 0, 1] .published)).mayStart 0
      (ringCmd 3 1 [0x31004300, 0x40000, 0, 0, 0, 0, 0, 1] .published) = true ∧
    (ringCmd 3 1 [0x31004300, 0x40000, 0, 0, 0, 0, 0, 1] .published).acq = false ∧
    (ringCmd 3 1 [0x31004300, 0x40000, 0, 0, 0, 0, 0, 1] .published).ring.isSome = true ∧
    (ordered (ringCmd 3 6 [0x36008200] .published)).mayStart 0 (ringCmd 3 6 [0x36008200] .published) = true := by decide +kernel
theorem witness_row_completion :
    let c := ringCmd 3 1 [0x31004300, 0x40000, 0, 0, 0, 0, 0xAB, 1] .started
    let s := ordered c
    s.cmd 0 = some c ∧ c.eng = 3 ∧ c.op ≤ 5 ∧ c.frames = 1 ∧ c.state = .started ∧ c.settled = true ∧ c.err = false ∧
    c.cancelled = false ∧ (s.clearRanges (s.frameRanges c 0)).2 = none ∧ (s.clearRanges (s.frameRanges c 0)).1 ≠ [] ∧
    (s.clearRanges (s.frameRanges c 0)).1.all (fun e => match e.1 with | .loc _ => true | _ => false) = true := by decide +kernel
theorem witness_completion :
    let flag := ringCmd 6 0 [0x60008100] .started
    let bar := ringCmd 5 0 [0x50004300] .started
    (ordered flag).cmd 0 = some flag ∧ flag.ring.isSome = true ∧ (ordered flag).cx.takesCompletions = true ∧
    flag.cancelled = false ∧ (ordered flag).stillOut 0 flag = false ∧ flag.flagKind = true ∧
    (ordered bar).cmd 0 = some bar ∧ (ordered bar).stillOut 0 bar = false ∧ bar.flagKind = false ∧ bar.cn < (ordered bar).cx.bars.length ∧
    ((ordered bar).namedBar 1 bar.cn).arrived + 1 < ((ordered bar).namedBar 1 bar.cn).expect := by decide +kernel
/-- That command's place in the ring. -/
def ref0 : RingRef := { ctx := 1, gang := 0, slices := 0xFF, seq := 0, slot := 0, dest := 9 }
/-- With a window of 128 KiB. -/
def roomy (c : Cmd) : State := (ordered c).modCx (fun x => { x with scratch := 2 ^ 17 })
/-- A copy of 16 bytes from offset 0 of the window to an address, in the window or in memory. -/
def copyTo (w0 at_ : Nat) : Cmd := ringCmd 2 0 [w0, 0, 0, at_, 0, 16, 0, 63 * 2 ^ 15] .started
theorem witness_other_completions :
    let xcan := ringCmd 2 4 [0x24004300] .started
    let mst := { ringCmd 0 3 [0x03008100] .started with err := true, code := 5 }
    (ordered xcan).stillOut 0 xcan = false ∧ xcan.flagKind = false ∧ (ordered mst).stillOut 0 mst = false ∧ mst.flagKind = true := by
  decide +kernel
theorem witness_copies :
    let w := copyTo 0x20004328 64
    let m := copyTo 0x20004320 0x20000
    let e := { w with pos := 1 }
    Claims.copies (roomy w) 0 w ref0 (roomy w).cx = true ∧ w.op = 0 ∧ w.sk = 1 ∧ w.dk = 1 ∧ w.shape.rows = [(0, 0)] ∧
    Claims.copies (roomy m) 0 m ref0 (roomy m).cx = true ∧
    (let l := ((roomy m).copyRanges m (roomy m).cx).1 ++ ((roomy m).copyRanges m (roomy m).cx).2
     l.map (·.1) = [.loc 0x20000] ∧ (roomy m).clearRanges l = (l, none)) ∧
    (e.pos = 1 ∧ (roomy e).flitsWait 0 = false ∧ e.flagKind = false ∧ e.dwg = false ∧ e.remoteArr = false ∧ e.cn < (roomy e).cx.nbar ∧
      e.cn < (roomy e).cx.bars.length ∧ ((roomy e).namedBar 1 e.cn).arrived + 1 < ((roomy e).namedBar 1 e.cn).expect) := by
  decide +kernel
theorem witness_slots_change :
    let mma := ringCmd 0 0 [0x00008101, 0, 0x2000, 64] .published
    let fill := ringCmd 0 2 [0x02008100, 7] .published
    let copy := ringCmd 0 2 [0x02008102, 1] .published
    let rmma := ringCmd 1 1 [0x11008102, 0, 0x8000, 64] .published
    let mmag := ringCmd 0 1 [0x01008101, 0, 0, 0, 0, 0, 64] .started
    let code := fun (c : Cmd) => (roomy c).matrixCode (Claims.begins c (roomy c).cx) (roomy c).cx
    (Claims.mayBegin (roomy mma) 0 mma ref0 (roomy mma).cx 0 0 = true ∧ code mma = 0 ∧ espS0 (mma.w 0) + espN (mma.w 0) ≤ 4) ∧
    (Claims.mayBegin (roomy fill) 0 fill ref0 (roomy fill).cx 0 2 = true ∧ code fill = 0 ∧ espOpx (fill.w 0) = 0) ∧
    (Claims.mayBegin (roomy copy) 0 copy ref0 (roomy copy).cx 0 2 = true ∧ code copy = 0 ∧ espOpx (copy.w 0) = 2) ∧
    (Claims.mayBegin (roomy rmma) 0 rmma ref0 (roomy rmma).cx 1 1 = true ∧
      (roomy rmma).rnsCode (Claims.begins rmma (roomy rmma).cx) (roomy rmma).cx = 0) ∧
    ((roomy mmag).stillOut 0 mmag = false ∧ ((roomy mmag).array 0).slots.length = 4) := by decide +kernel
/-- R246: MACC fills every element of its slot with the word given, here one that no element of a slot had. -/
theorem test_macc_fill : (match exec (.engineCommandStart 0) (roomy (ringCmd 0 2 [0x02008104, 7] .published)) with
    | .next t => ((t.slot 0 1).cell 63 63, (t.slot 0 0).cell 63 63) == (7, 0)
    | _ => false) = true := by decide +kernel
/-- R286: the bytes that a copy takes from the window to memory. -/
theorem test_copy :
    let m := copyTo 0x20004320 0x20000
    let s := (roomy m).modCx (fun x => { x with window := Memory.put 15 9 x.window })
    (s.copyRanges m s.cx).1 = [(.loc 0x20000, List.replicate 15 (0, false) ++ [(9, false)])] := by decide +kernel
/-- A sub-gang that stalled at a slot which is free again, at the word ERD v8, v16, f1. -/
def stalled : State := commanding [] |>.modGg (fun g => g.modSlices 0xFF (fun _ sl =>
  { sl with clause := [0xFE001E21, 0xF8081001], ringStall := some 0 }))
theorem witness_stall_end :
    let t := stalled.asIssuing 1 0 0 Slice.stalled
    let u := t.modGg (fun y => y.modSlices t.issue.slices (fun _ sl => { sl with ringStall := none }))
    let sl := u.gg.slice (leastOr 0 u.issuing)
    t.issuing ≠ [] ∧ u.cx.run = .running ∧ decodeWord (nthOr 0 sl.clause sl.widx) = some (.erd false 8 16 1) ∧
    u.interlocked (.erd false 8 16 1) = false ∧ Claims.mayPublish u erdSpec 8 16 1 = true := by decide +kernel
/-- An MPAIR that asks for a pair and has waited its limit. -/
def asking : State := { ordered (ringCmd 0 4 [1] .started) with
  arrays := [(0, { asking := some { cmd := 0, arrays := 2, key := 7, launch := 0, part := 1, since := 0, limit := 1024 } })],
  cycles := [1024, 0, 0, 0] }
theorem witness_pair_timeout : (asking.array 0).asking.isSome = true ∧ asking.pairExpired 0 = true ∧
    ((asking.array 0).asking.bind (fun p => asking.cmd p.cmd)).isSome = true := by decide +kernel
theorem witness_copy_arrivals :
    let c := { ringCmd 2 0 [0x20004300, 0, 0, 0, 0, 16, 0, 32 * 2 ^ 15] .started with pos := 2, destArr := true }
    let d := { ringCmd 2 0 [0x20004300, 0, 0, 0, 0, 16, 0, 3 * 2 ^ 15] .completed with pos := 3, remoteArr := true }
    (ordered c).cmd 0 = some c ∧ c.settled = true ∧ c.dwg = false ∧ c.cn = 3 ∧ c.remoteArr = false ∧
    (ordered d).cmd 0 = some d ∧ d.settled = true ∧ d.rcb = some 3 ∧ 3 < (ordered d).cx.nbar ∧ 3 < (ordered d).cx.bars.length ∧
    (ordered d).cx.takesCompletions = true ∧ ((ordered d).namedBar 1 3).arrived + 1 < ((ordered d).namedBar 1 3).expect := by
  decide +kernel

/-! ### Launches, the ready pool, the ends of contexts -/

/-- A kernel of one gang with 8 registers, whose header is at 0x30000 and whose code at 0x30080, in a partition that
reserves core 0 and the lower half of core 1. -/
def kernelHeader : List Byte :=
  leBytes 4 0x4C454B48 ++ leBytes 2 1 ++ leBytes 2 0 ++ leBytes 2 8 ++ [1, 0] ++ leBytes 4 0 ++ [0, 0] ++ leBytes 2 0 ++
  leBytes 4 0x80 ++ leBytes 4 8 ++ List.replicate 36 0
def installed : State :=
  { paged with
    parts := [(1, { record := { id := 1, root := 0x100000, pmap := [(0, 0)], sstb := 0, pmin := 0, pmax := 23, wdcap := 0,
                                preempt := true, vfs := [], domain := 0,
                                cores := [{ core := 0, half := none }, { core := 1, half := some false }], dram := [], oppoint := 0 } })],
    dram := Memory.putBytes 0x30000 kernelHeader (Memory.putBytes 0x30080 (leBytes 4 0xFE001FE1) paged.dram) }
/-- A request at die scope for two workgroups of the kernel at an address. -/
def ask (khdr : Nat) : LaunchAsk :=
  { part := 1, depth := 1, ctx := 1, gang := 0, slices := 0xFF, dest := 12, scope := 2, core := 0,
    words := [0x00FFFF00, BitVec.ofNat 32 khdr, 0, 2, 1, 1, 0, 0] }
def asked (khdr : Nat) : State := { installed with launchAsks := [(0, ask khdr)], nextAsk := 1 }

theorem witness_launch : (commanding [0x00FFFF00, 0x30000, 0, 2, 1, 1, 0, 0]).canIssue = true ∧ paged.launchFault 12 16 = none ∧
    (commanding [0x00FFFF00, 0x30000, 0, 2, 1, 1, 0, 0]).launchFault 248 248 = none ∧ Claims.quiet paged = true := by decide +kernel
theorem witness_launch_answer : Tab.find 0 (asked 0x30000).launchAsks = some (ask 0x30000) ∧
    (asked 0x30000).hooks.contains (.launchRequest 0) = false ∧ 0 < (asked 0x30000).cx.gangs.length ∧
    ((asked 0x30000).judgeLaunch (ask 0x30000).req).1.1 = 0 ∧ ((asked 0x30000).judgeLaunch (ask 0x30000).req).1.2.isSome = true ∧
    (asked 0x30000).hasPlugin 1 = false ∧ ((asked 0x40000).judgeLaunch (ask 0x40000).req).1.1 = 2 ∧
    ((asked 0x30001).judgeLaunch (ask 0x30001).req).1.1 = 7 := by decide +kernel
/-- A launch of two workgroups in the pool with its constant slot, and a pool whose first node is a command. -/
def twoGroups : Launch :=
  { origin := .device, total := 2,
    tmpl := { part := 1, launch := 1, khdr := 0x30000, regsN := 8, gangsN := 1, codeBase := 0x30080, codeSize := 8,
              nwg := [2, 1, 1], cbase := slotBase 0 } }
def pooled (w : Work) : State :=
  { installed with launches := [(1, twoGroups)], nextLaunch := 2,
                   pool := [{ work := w, part := 1, prio := 0, eff := 0, since := 0 }] }
theorem witness_dispatch : ((pooled (.launch 1)).giveSlots.firstReady (pooled (.launch 1)).pool 0).map (fun e => e.2.2.length) = some 1 ∧
    ((pooled (.command 5)).giveSlots.firstReady (pooled (.command 5)).pool 0).map (fun e => e.2.1.work) = some (.command 5) ∧
    ((pooled (.entry 5 1 4)).giveSlots.firstReady (pooled (.entry 5 1 4)).pool 0).map (fun e => e.2.1.work) = some (.entry 5 1 4) ∧
    (Tab.find 1 (pooled (.launch 1)).giveSlots.launches).isSome = true ∧
    (let s : State := { paged with rising := [some 3, none, none, none] }
     0 < s.points.length ∧ nthOr none s.rising 0 = some 3 ∧ dieOf s.cx.core = 0) := by decide +kernel
theorem witness_context_ends :
    let gone := paged.modGg (fun g => { g with ended := true })
    let stop := paged.modCx (fun x => { x with run := .stopping })
    let held := paged.modCx (fun x => { x with run := .stopping, cause := .fault, fault := some { code := 0x30, flags := 3 } })
    let dead := paged.modCx (fun x => { x with run := .terminated })
    (gone.cx.run = .running ∧ gone.mayRetire 1 gone.cx = true) ∧ (dead.cx.run = .terminated ∧ dead.runsOn 1 = false) ∧
    (paged.modCx (fun x => { x with svc := true })).cx.svc = true ∧ (paged.cx.svc = false ∧ paged.cx.run = .running) ∧
    (stop.cx.run = .stopping ∧ stop.drained 1 stop.cx = true ∧ stop.cx.firstLoss = none ∧ stop.cx.fault = none) ∧
    (held.drained 1 held.cx = true ∧ held.cx.firstLoss = none ∧ held.cx.fault.map (·.fatal) = some false ∧
      held.hasPlugin held.cx.part = false) := by decide +kernel

/-- Contexts 1 and 2 hold the arrays of one span; 1 stops, 2 runs on. -/
def spanned : State :=
  let part := fun (c m : Nat) => ({ claim := some c, span := some { arrays := 2, key := 7, member := m, lead := [0, 2] } } : MArray)
  { paged with
    ctxs := [(1, { paged.cx with run := .stopping, launch := 4 }), (2, { paged.cx with core := 1, launch := 4, wgid := [1, 0, 0] })],
    arrays := [(0, part 1 0), (2, part 2 1)] }
theorem witness_span_runs : spanned.cx.run = .stopping ∧ spanned.drained 1 spanned.cx = true ∧ spanned.cx.firstLoss = none ∧
    spanned.spanRuns 1 spanned.cx = [2] ∧ spanned.cx.fault = none := by decide +kernel

/-! ### Snapshots -/

/-- The record of partition 1 with one allocation unit of memory, in snapshot domain n, with the functions given. -/
def recordOf (n : Nat) (vs : List Nat) (pods : List (Nat × Nat)) : PartRecord :=
  { id := 1, root := 0x100000, pmap := pods, sstb := 0, pmin := 0, pmax := 23, wdcap := 0, preempt := true,
    vfs := vs.map (fun v => { vf := v, ports := 8, weight := 1 }), domain := n, cores := [], dram := [(0, 0)], oppoint := 0 }
/-- Domain 1 of partition 1 with a colour 0 in a state, die 0's state for it, and a SNAP command. -/
def snapping (a : AllocColour) (k : DieColour) : State :=
  { ordered (ringCmd 4 0 [0x40008100] .started) with
    parts := [(1, { record := recordOf 1 [] [(0, 0)] })], domains := [(1, { part := 1, col0 := a })], colours := [(8, k)] }
/-- A request for colour 0 at a tier target. -/
def snapAsk (tgt : Nat) : SnapAsk := { cmd := some 0, die := 0, col := false, inc := false, base := 0, tgt := tgt, tag := 0 }
/-- Colour 0 records SSN 1 for command 0. -/
def recording : AllocColour := { st := .recording, ssn := 1, cmd := some 0 }
/-- A marker of SSN 1 from die 1. -/
def marker : Flit := { tk := 8, payload := markerPayload { ssn := 1, domain := 1, colour := false, sdie := 1, spkg := 0, liveports := 8 } }
def saved : Saved := { name := .bank 1 0, data := .bytes [] [] }

/-- R340: a granted snapshot takes the next SSN. -/
theorem test_snapshot_grant : (match exec (.snapshotStartRequest 1)
      { snapping {} {} with domains := [(1, { part := 1, ssn := 2 ^ 48 - 1, asks := [snapAsk 3] })] } with
    | .next t => (t.domain 1).map (fun d => (d.ssn, d.col0.st)) == some (0, .recording)
    | _ => false) = true := by decide +kernel

theorem witness_snapshot_requests :
    let d : Domain := { part := 1, asks := [snapAsk 3] }
    let code := fun (a : SnapAsk) => (snapping {} {}).requestCode d a ((snapping {} {}).farBase d a).1
    code (snapAsk 3) = 0 ∧ code (snapAsk 4) ≠ 0 ∧ ({ snapping {} {} with domains := [(1, d)] }).domain 1 = some d := by decide +kernel
theorem witness_snapshot_allocator :
    (snapping recording {}).domain 1 = some { part := 1, col0 := recording } ∧
    ((snapping recording {}).dieCol 1 0 false).st = .idle ∧ ((snapping recording {}).cmd 0).isSome = true ∧
    Tab.read [] (colKey 1 0 false) ({ snapping recording {} with reportsDue := [(8, [.closed])] }).reportsDue = [.closed] ∧
    Tab.read [] (colKey 1 0 false) ({ snapping recording {} with noticesDue := [(8, [.releasing])] }).noticesDue = [.releasing] ∧
    ((snapping recording { st := .drained }).dieCol 1 0 false).st ≠ .idle ∧
    ({ snapping recording {} with cycles := [2 ^ 30, 0, 0, 0] }).closeLate 1 false = true ∧
    ({ snapping recording {} with cycles := [2 ^ 30 - 1, 0, 0, 0] }).closeLate 1 false = false := by decide +kernel
theorem witness_snapshot_dies :
    let opened : DieColour := { st := .opened, ssn := 1, due := [.diePath 1 0], staged := [saved] }
    let m := markerIn marker
    m.domain = 1 ∧ m.colour = false ∧ (({ part := 1 } : Domain).col false).st = .free ∧ ({ recording with ssn := 2 }).ssn ≠ m.ssn ∧
    (recording.st = .recording ∧ recording.ssn = m.ssn ∧ (({} : DieColour).lastSsn) < m.ssn ∧ (({} : DieColour).st) = .idle ∧
      m.ssn ≤ ({ lastSsn := 1 } : DieColour).lastSsn) ∧
    (Claims.marks (snapping recording opened) 0 (.diePath 1 0) marker = true ∧ opened.ssn = m.ssn) ∧
    ((snapping recording opened).dieCol 1 0 false = opened) ∧
    (snapping recording opened).nextUnit 1 0 false = some (.granule 0) ∧
    (snapping recording { opened with staged := [] }).firstStaged 0 = none ∧
    (snapping recording { opened with staged := [] }).nextUnit 1 0 false = some (.granule 0) ∧
    ((snapping recording opened).tagOf (.granule 0)).g false = ((snapping recording opened).epochOf 1 0).e false ∧
    ({ snapping recording opened with epochs := [(4, { e0 := true })] }.epochOf 1 0).e false = true ∧
    (snapping recording opened).firstStaged 0 = some (1, false) ∧ (snapping recording opened).stagedBytes 0 < 2 ^ 28 := by
  decide +kernel
/-- 15,888 scratchpad banks fill the staging buffer of Table 13-3. -/
theorem witness_staging_full :
    2 ^ 28 ≤ (snapping recording { st := .opened, staged := List.replicate 15888 saved }).stagedBytes 0 ∧
    (snapping recording { st := .opened, staged := List.replicate 15888 saved }).firstStaged 0 = some (1, false) := by
  decide +kernel

/-! ### Thamer Link -/

/-- Port 3 receives under slot 0 with the first flit expected; partition 1 has memory and, on another package, peers. -/
def linked (s : State) : State :=
  { s with
    parts := [(1, { record := recordOf 0 [5] [(0, 0), (1, 7)] })],
    ports := [(3, { ren := true, rx0 := { valid := true }, en := true, tx0 := { valid := true }, thr := 100 })],
    vfs := [(5, { part := 1, ports := 8, weight := 1, st := .live })] }
/-- The flit of a kind on its channel, from pod position 7, function 5, tag 9. -/
def flit (tk : BitVec 4) (vc : Nat) (payload : List Byte) : Flit :=
  { spkg := 7, dpkg := 0, vf := 5, vc := vc, tk := tk, tag := 9, payload := payload }
/-- Address and number of bytes as in a write. -/
def place (a n : Nat) : List Byte := leBytes 8 a ++ leBytes 2 n ++ List.replicate 22 0

/-- R355: a write of 2 bytes, and its acknowledgement with status 0. -/
theorem test_link_write : (match exec (.write 3 (flit 1 0 (leBytes 8 0x20000 ++ leBytes 2 2 ++ List.replicate 6 0 ++ [0xAB, 0xCD]))) (linked paged) with
    | .next t => t.dram.bytes 0x20000 3 == [0xAB, 0xCD, 0] && (t.port 3).waiting.map (fun f => (f.tk, f.payload)) == [(6, leBytes 8 0)]
    | _ => false) = true := by decide +kernel
/-- R356: a flit out of sequence is discarded. -/
theorem test_link_sequence : (match exec (.write 3 { flit 1 0 (place 0x20000 2) with lseq := 1 }) (linked paged) with
    | .next t => t.dram == paged.dram && t.port 3 == (linked paged).port 3
    | _ => false) = true := by decide +kernel

/-- A marker that comes on a port reaches the die of the port (R333). -/
theorem witness_link_marker :
    let s := { linked paged with domains := [(1, { part := 1, others := [7] })] }
    let f := flit 8 0 (markerPayload { ssn := 1, domain := 1, colour := false, sdie := 0, spkg := 1, liveports := 8 })
    Claims.marks s 0 (chanOf 3 f) f = true ∧ (markerIn f).domain = 1 ∧ (markerIn f).liveports = 8 := by decide +kernel

theorem witness_link_home :
    let s := linked paged
    Claims.unlogged s (s.ownerOf 0x20000) = true ∧ Claims.arrives s 3 (flit 1 0 (place 0x20000 208)) 1 = true ∧
    fieldIn (flit 1 0 (place 0x20000 208)) 0 8 = 0x20000 ∧ fieldIn (flit 1 0 (place 0x20000 208)) 8 2 = 208 ∧
    Claims.serves s 0x20000 208 = true ∧ s.homeRefuses 0x20000 209 = true ∧ s.homeRefuses (2 ^ 39) 8 = true ∧
    Claims.unlogged s (s.ownerOf (2 ^ 39)) = true ∧ Claims.arrives s 3 (flit 15 0 (place 0x20000 8)) 15 = true ∧
    Claims.arrives s 3 (flit 2 0 (place 0x20000 208)) 2 = true ∧ s.homeRefuses 0x20000 208 = false ∧
    Claims.arrives s 3 (flit 4 0 (leBytes 8 0x20008 ++ leBytes 4 1 ++ [8] ++ List.replicate 19 0)) 4 = true ∧
    fieldIn (flit 4 0 (leBytes 8 0x20008 ++ leBytes 4 1 ++ [8] ++ List.replicate 19 0)) 12 1 = 8 ∧
    Claims.serves s 0x20008 8 = true := by decide +kernel
theorem witness_link_barrier :
    let s := linked barred
    let f := flit 7 2 (leBytes 4 1 ++ [15, 0])
    Claims.arrives s 3 f 7 = true ∧ fieldIn f 0 4 = 1 ∧ fieldIn f 4 1 = 15 ∧ Claims.unlogged s (some 1) = true ∧
    s.cx.takesCompletions = true ∧ 15 < s.cx.nbar ∧ (s.namedBar 1 15).arrived + 1 < (s.namedBar 1 15).expect := by decide +kernel
/-- An access of lanes 0 and 31 that waits for one answer at port 3 with tag 9. -/
def remote (kind : AccKind) (width : Nat) : Access :=
  { kind := kind, slices := 0x81, size := 8, scope := 3, acquire := false, home := false, dest := 6, width := width,
    flagB := some 0, remote := [{ port := 3, tag := 9, addr := 0, len := 16, lanes := [(0, 0), (31, 8)] }] }
def waitsFor (kind : AccKind) (width tk : Nat) : State :=
  { linked (paged.modGg (fun g => { g with accesses := [(2, remote kind width)] })) with
    pendings := [(pendKey 5 9, { port := 3, use := .lanes 1 0 2, kind := tk })] }
theorem witness_link_answers :
    let s := waitsFor .load 2 2
    let r := flit 3 1 (List.replicate 32 0)
    Tab.find (pendKey r.vf r.tag.toNat) s.pendings = some { port := 3, use := .lanes 1 0 2, kind := 2 } ∧
    s.ctxOf 1 = some s.cx ∧ 0 < s.cx.gangs.length ∧ Tab.find 2 s.gg.accesses = some (remote .load 2) ∧
    (((remote .load 2).remote.flatMap (·.lanes)).map (·.1)).Nodup ∧ Claims.arrives s 3 r 3 = true ∧ fieldIn r 0 8 ≠ 2 ∧
    Claims.arrives (waitsFor .atomic 1 4) 3 (flit 5 1 (List.replicate 24 0)) 5 = true ∧
    Claims.arrives (waitsFor .store 1 1) 3 (flit 6 2 (leBytes 8 0)) 6 = true ∧
    Claims.arrives (waitsFor .store 1 1) 3 (flit 6 2 (leBytes 8 1)) 6 = true ∧
    Tab.find (pendKey r.vf r.tag.toNat) (linked paged).pendings = none ∧ Claims.arrives (linked paged) 3 r 3 = true ∧
    Claims.arrives (linked paged) 3 (flit 5 1 []) 5 = true ∧ Claims.arrives (linked paged) 3 (flit 6 2 []) 6 = true := by
  decide +kernel
/-- Port 3 with flits 4 and 5 in its replay buffer, and changes. -/
def port3 (f : Port → Port) : State := (linked paged).modPort 3 (fun x => f { x with
  seq := 6, replay := [{ flit 1 0 [] with lseq := 4 }, { flit 1 0 [] with lseq := 5 }] })
theorem witness_link_control :
    ((port3 id).port 3).replay = [] ++ { flit 1 0 [] with lseq := 4 } :: [{ flit 1 0 [] with lseq := 5 }] ∧
    (∀ h ∈ ((port3 id).port 3).replay, h.lseq ≠ (3 : BitVec 12)) ∧ ((port3 id).port 3).down = false ∧
    ((port3 id).countEvents 5 3 (3 / 16) 1).1 = false ∧
    (({ port3 id with windows := [(20, (1000, 1))] }).countEvents 5 3 (3 / 16) 1).1 = true ∧
    ((port3 (fun x => { x with resends := [8, 1], retrains := 2 })).port 3).retraining = false ∧
    ((port3 (fun x => { x with resends := [8, 1], retrains := 3 })).port 3).retrains = 3 ∧
    ((port3 (fun x => { x with retraining := true })).port 3).retraining = true ∧
    Claims.expected (port3 id) 3 { lk := 2, payload := [1] } = true ∧ Claims.expected (port3 id) 3 { lk := 3, payload := [] } = true ∧
    (let x := (port3 (fun x => { x with thr := 0, tx1 := { valid := true } })).port 3
     x.atThreshold = true ∧ x.en = true ∧ x.down = false ∧ x.canSwitch = true ∧ x.mayPush = true) ∧
    (let x := (port3 (fun x => { x with thr := 0 })).port 3
     x.atThreshold = true ∧ x.canSwitch = false) := by decide +kernel
theorem witness_link_send :
    let s := port3 (fun x => { x with waiting := [flit 6 2 [1]] })
    (s.port 3).maySend = true ∧ (s.port 3).atThreshold = false ∧ (s.port 3).waiting ≠ [] ∧
    (s.nextFlit 3).map (·.1) = some (flit 6 2 [1]) := by decide +kernel
/-- Function 5 in a state of its life. -/
def function5 (f : Vf → Vf) : State := (linked paged).modVf 5 f
theorem witness_teardown :
    let old := { function5 (fun x => { x with st := .tearing 0 }) with cycles := [2 ^ 24, 0, 0, 0] }
    let quar := function5 (fun x => { x with st := .quarantined })
    ((linked paged).vf 5).st = .live ∧ (old.vf 5).st = .tearing 0 ∧ 0 + 2 ^ 24 ≤ old.cycle 0 ∧ old.ackPackages 1 = [7] ∧
    (old.vf 5).acks = [] ∧ maskBits 64 (old.vf 5).ports = [3] ∧
    ({ old with parts := [(1, { record := recordOf 0 [5] [(0, 0)] })] }).ackPackages 1 = [] ∧
    Claims.arrives (linked paged) 3 (flit 9 0 [5, 0, 0, 0]) 9 = true ∧ Claims.arrives quar 3 (flit 9 2 [5, 1, 0, 0]) 9 = true ∧
    fieldIn (flit 9 2 [5, 1, 0, 0]) 0 1 = 5 ∧ fieldIn (flit 9 2 [5, 1, 0, 0]) 1 1 = 1 ∧ (quar.vf 5).st = .quarantined ∧
    (quar.ackPackages (quar.vf 5).part).all (fun q =>
      (maskBits 64 (quar.vf 5).ports).length ≤ (((quar.vf 5).acks ++ [7]).filter (· == q)).length) = true := by decide +kernel

/-! ### Graphs and collectives -/

/-- A chunk operation of a collective variant: kind, reduction, length, member index and count, successors. -/
def op (kind rop len mem : Nat) (succs : List Nat) : List Byte :=
  [BitVec.ofNat 8 kind, BitVec.ofNat 8 rop] ++ leBytes 2 0 ++ leBytes 4 len ++ leBytes 6 0 ++ leBytes 2 0xFFFF ++
  leBytes 8 0x20000 ++ leBytes 8 0x30000 ++ [0, BitVec.ofNat 8 mem] ++
  (List.range 15).flatMap (fun i => leBytes 2 (nthOr 0xFFFF succs i))
/-- A collective graph of partition 1 whose one variant has the operations given and needs a slot on plane 3 for an SWRED. -/
def collective (ops : List (List Byte)) (r : Option Run) : Graph :=
  { part := 1, collective := true, defPrio := 0, nbind := 1, runs := 3, run := r,
    variants := [{ fallback := none, planes := if ops.any (isSwred true) then 8 else 0, ops := ops }] }
/-- Run 2 of that graph, which completes command 0. -/
def run2 (sts : List NodeState) : Run :=
  { cmd := 0, number := 2, bases := [0], counts := sts.map (fun _ => 1), states := sts }
/-- The graph loaded under handle 2. -/
def loaded (g : Graph) : State := { linked (ordered (ringCmd 5 0 [0x50004300] .started)) with graphs := [(2, g)], nextHandle := 3 }
/-- A decrement of node 0 of a run of graph 2. -/
def decrement (run : Nat) : Flit := flit 10 2 (leBytes 4 2 ++ leBytes 2 run ++ leBytes 2 0)
def copyOp : List Byte := op 4 0 256 0 []
def swred : List Byte := op 3 0 384 1 []

/-- R376: two steps of 192 bytes for 384 bytes. -/
theorem test_swred_steps : swredSteps swred = 2 := by decide

theorem witness_decrements :
    Claims.arrives (loaded (collective [copyOp] none)) 3 (decrement 3) 10 = true ∧ fieldIn (decrement 3) 0 4 = 2 ∧
    Claims.unlogged (loaded (collective [copyOp] none)) (some 1) = true ∧ fieldIn (decrement 3) 4 2 = 3 % 2 ^ 16 ∧
    fieldIn (decrement 4) 4 2 ≠ 3 % 2 ^ 16 ∧ Claims.arrives (loaded (collective [copyOp] (some (run2 [.blocked])))) 3 (decrement 2) 10 = true ∧
    fieldIn (decrement 2) 4 2 = (run2 [.blocked]).number ∧ ({ run2 [.blocked] with choosing := true } : Run).choosing = true ∧
    1 < nthOr 0 ({ run2 [.blocked] with counts := [2] } : Run).counts 0 := by decide +kernel
theorem witness_chunk_dispatch :
    let s := { loaded (collective [op 1 0 256 0 []] (some (run2 [.ready]))) with chunks := [(5, [(2, 0)])] }
    s.chunks.map (·.1) = [5] ∧ Tab.read [] 5 s.chunks = [(2, 0)] ∧ (s.graph 2).isSome = true ∧ 0 < (run2 [.ready]).states.length ∧
    Tab.read 0 5 s.chunkDeficits + (s.vf 5).weight < 256 * s.flitsOf 2 0 ∧
    256 * s.flitsOf 2 0 ≤ Tab.read 0 5 ({ s with chunkDeficits := [(5, 511)] }).chunkDeficits + (s.vf 5).weight := by decide +kernel
theorem witness_chunk_completion :
    let s := loaded (collective [copyOp] (some (run2 [.running])))
    let two := { run2 [.running, .blocked] with counts := [0, 1] }
    let ops := [op 4 0 256 0 [1], op 4 0 256 0 []]
    let u := loaded (collective ops (some two))
    s.nodeEnded 2 0 (collective [copyOp] (some (run2 [.running]))) (run2 [.running]) = true ∧
    (run2 [.running]).stateOf 0 = .running ∧ (s.cmdOfNode 2 0).all (fun e => !e.2.err && !e.2.lostAny) = true ∧
    ((collective [copyOp] (some (run2 [.running]))).chunkAt (run2 [.running]) 0).all (fun b => !(nodeKind b == 1 || nodeKind b == 2) || fieldOf b 0x0E 2 == 0xFFFF) = true ∧
    nodeSuccs true copyOp = [] ∧ ((run2 [.running]).setState 0 .finished).over = true ∧
    ((run2 [.running, .running]).setState 0 .finished).over = false ∧
    u.nodeEnded 2 0 (collective ops (some two)) two = true ∧ nodeSuccs true ((collective ops (some two)).node two 0) = [1] ∧
    two.stateOf 1 = .blocked ∧ nthOr 0 two.counts 1 = 1 := by decide +kernel
theorem witness_slots :
    let r := { run2 [.blocked] with choosing := true }
    let g := { collective [swred] (some r) with variants := [{ fallback := none, planes := 24, ops := [swred] }] }
    let f := flit 12 3 (leBytes 8 ((loaded g).ikey 1 2 2) ++ [0])
    Claims.arrives (loaded g) 3 f 12 = true ∧ fieldIn f 0 4 = 2 ∧ fieldIn f 0 8 = (loaded g).ikey 1 2 2 ∧
    (loaded g).deadFlit f = false ∧ (g.variantOf 0).slots.contains 3 = true ∧ g.answered { r with slots := Tab.set 3 (some 0) r.slots } = false := by decide +kernel
theorem witness_slot_retry :
    let r := { run2 [.running] with again := true }
    let s := { loaded (collective [swred] (some r)) with cycles := [2 ^ 16, 0, 0, 0] }
    (s.graph 2).bind (·.run) = some r ∧ r.choosing = false ∧ r.stateOf 0 = .running ∧ r.retried + 2 ^ 16 ≤ s.cycle 0 ∧
    3 ∈ ((collective [swred] (some r)).variantOf 0).slots ∧ (Tab.find 3 r.slots).join = none ∧ s.vfOf 1 = some 5 ∧
    (s.vf 5).st = .live ∧ bit (s.vf 5).ports 3 = true ∧ (s.port 3).down = false := by decide +kernel
theorem witness_results :
    let r := { run2 [.running] with slots := [(3, some 1)] }
    let s := loaded (collective [swred] (some r))
    let f := flit 14 3 ([1, 1] ++ leBytes 2 0 ++ leBytes 4 0 ++ [0, 0] ++ leBytes 2 192 ++ List.replicate 212 7)
    Claims.arrives s 3 f 14 = true ∧ fieldIn f 1 1 = 1 ∧ s.resultFor 3 f = some (2, collective [swred] (some r), r, 0) ∧
    s.domOf 1 = 0 ∧ chunkAddr r.bases swred 0x0A 0x18 = some 0x30000 ∧
    s.deadFlit f = false ∧ (((s.modPort 3 (Port.take f)).post (.flitSend 3)).writeMarked 0 1 2 0 0x30000 (markedData f 0x20 (fieldIn f 0x0A 2) (fieldIn f 9 1))).1 = true := by
  decide +kernel
/-- A slot of plane 3 with two members, one of which has contributed to step 0. -/
def slotUse : SlotUse := { ikey := 9, nmem := 2, rop := 0, slot := some 1, members := [(0, 0), (1, 7)], given := [(0, flit 14 3 [1, 0])] }
theorem witness_spire :
    let ask := { flit 11 3 (leBytes 8 9 ++ leBytes 2 2) with spkg := 0 }
    (∀ u ∈ Tab.read [] 3 (linked paged).spires, u.ikey ≠ fieldIn ask 0 8) ∧ ask.spkg = (linked paged).podPos ∧
    (Tab.read [] 3 [(3, [slotUse])]).find? (fun y => y.slot == some (fieldIn (flit 14 3 [1, 0, 1, 0]) 0 1)) = some slotUse ∧
    slotUse.nmem ≤ ((Tab.set (256 * 0 + fieldIn (flit 14 3 [1, 0, 1, 0]) 2 2 % 256) (flit 14 3 [1, 0, 1, 0]) slotUse.given).filter
      (fun e => e.1 / 256 == 0)).length ∧ (0, 0) ∈ slotUse.members ∧ (linked paged).podPos = 0 := by decide +kernel

/-! ### Chains -/

/-- An entry of a kind with its TGT, argument and words of its body; RESULT at 0x28000. -/
def entry (kind arg : Nat) (ws : List Nat) : Entry :=
  { bytes := leBytes 4 kind ++ leBytes 4 0 ++ leBytes 8 arg ++ leBytes 8 0x28000 ++ leBytes 8 0 ++
             (List.range 8).flatMap (fun i => leBytes 4 (nthOr 0 ws i)) }
/-- Chain 1 of function 5 whose entry 4 is next. -/
def chained (e : Entry) : State :=
  { (linked installed) with
    parts := [(1, { record := { recordOf 0 [5] [(0, 0)] with cores := [{ core := 0, half := none }] } })],
    chains := [(21, { en := true, base := 0x10000, size := 16, head := 5, cseq := 4, entries := [(4, e)] })] }
/-- That chain with the entry taken out of the ready pool. -/
def acting (e : Entry) : State := chained { e with st := .pooled }
/-- The image of a walker graph of one node, a launch, at 0x38000. -/
def graphImage : List Byte :=
  leBytes 4 0x48505247 ++ leBytes 2 1 ++ [0, 0] ++ leBytes 2 1 ++ leBytes 2 0 ++ leBytes 2 1 ++ leBytes 2 0 ++ leBytes 8 64 ++
  List.replicate 40 0 ++ [1, 0, 0, 0, 0, 0, 0, 0] ++ leBytes 8 0 ++ List.replicate 16 0xFF ++ List.replicate 96 0
def withImage (s : State) : State := { s with dram := s.dram.putBytes 0x38000 graphImage }

/-- R386: CNTR writes eight counters and completes with no error. -/
theorem test_cntr : (match exec (.cntr 5 1 4) ((acting (entry 8 0x29000 [])).modPart 1 (fun p => { p with fallbacks := 3 })) with
    | .next t => t.dramNat 0x29000 8 == 3 && (t.entry 5 1 4).map (·.code) == some 0
    | _ => false) = true := by decide +kernel

theorem witness_chain_control :
    let off := { linked installed with chains := [] }
    (1 : Nat) < 4 ∧ (off.vf 5).st = .live ∧ (off.chain 5 1).en = false ∧ off.domOf 1 = 0 ∧ bit (off.pageNat 5 0x228 4) 0 = false ∧
    ((off.part 1).map (·.waiting)).getD [] = [] ∧ ((chained (entry 7 0 [])).chain 5 1).en = true ∧
    (let s := (chained (entry 7 0 [])).modVf 5 (fun x => { x with page := x.page.putBytes 0x070 (leBytes 4 21) })
     (s.pageNat 5 0x070 4 + 2 ^ 32 - ((s.chain 5 1).head - (s.chain 5 1).first) % 2 ^ 32) % 2 ^ 32 = 16 ∧ (s.chain 5 1).size = 16) ∧
    (let s := (chained (entry 7 0 [])).modVf 5 (fun x => { x with page := x.page.putBytes 0x070 (leBytes 4 22) })
     (s.chain 5 1).size < (s.pageNat 5 0x070 4 + 2 ^ 32 - ((s.chain 5 1).head - (s.chain 5 1).first) % 2 ^ 32) % 2 ^ 32) := by decide +kernel
theorem witness_chain_engine : Claims.mayStart (chained (entry 1 0 [0x60000000])) 5 1 4 1 (entry 1 0 [0x60000000]) = true := by
  decide +kernel
theorem witness_chain_launch :
    let e := fun khdr => entry 2 0 [0x00FFFF00, khdr, 0, 2, 1, 1]
    let judged := fun khdr => let s := chained (e khdr)
      ((Claims.begun s 5 1 4).judgeLaunch (s.entryLaunch 5 1 4 (e khdr))).1
    Claims.mayStart (chained (e 0x30000)) 5 1 4 2 (e 0x30000) = true ∧ (judged 0x30000).1 = 0 ∧ (judged 0x30000).2.isSome = true ∧
    (chained (e 0x30000)).hasPlugin 1 = false ∧ (judged 0x40000).1 = 2 ∧
    (let e4 := entry 2 0 [0x0017FF00, 0x30000, 0, 2, 1, 1]
     let s := (chained e4).modPart 1 (fun p => { p with record := { p.record with pmax := 22 } })
     Claims.mayStart s 5 1 4 2 e4 = true ∧ ((Claims.begun s 5 1 4).judgeLaunch (s.entryLaunch 5 1 4 e4)).1.1 = 4) := by decide +kernel
theorem witness_gload :
    let e := { entry 3 0x38000 [] with st := .pooled }
    let s := withImage (chained e)
    Claims.mayAct s 5 1 4 3 e = true ∧ ((Claims.begun (chained e) 5 1 4).readGraph 1 e.arg).1 = none ∧
    ((Claims.begun s 5 1 4).readGraph 1 e.arg).1.map (fun g => (g.nodes.length, s.graphRoom g)) = some (1, true) ∧
    ({ s with graphs := (List.range 1024).map (fun i => (i, collective [] none)) }).graphs.length = 1024 := by decide +kernel
theorem witness_gload_full :
    let e := { entry 3 0x38000 [] with st := .pooled }
    let s := { withImage (chained e) with graphs := (List.range 1024).map (fun i => (i, collective [] none)) }
    Claims.mayAct s 5 1 4 3 e = true ∧
    ((Claims.begun s 5 1 4).readGraph 1 e.arg).1.map (fun g => s.graphRoom g) = some false := by decide +kernel
theorem witness_gunload :
    let e := { entry 4 0 [2] with st := .pooled }
    let s := fun g => { chained e with graphs := [(2, g)] }
    Claims.mayAct (s (collective [] none)) 5 1 4 4 e = true ∧ nthOr 0 e.body 0 = 2 ∧
    ((s (collective [] none)).graph 2).map (fun g => (g.part, g.run)) = some (((s (collective [] none)).vf 5).part, none) ∧
    (({ collective [] none with part := 3 } : Graph).part ≠ ((s (collective [] none)).vf 5).part) ∧
    (collective [copyOp] (some (run2 [.running]))).run ≠ none := by decide +kernel
theorem witness_chain_run :
    let e := fun nb => { entry 5 0x29000 [2, 0, nb, 0, 1] with st := .pooled }
    let g := { collective [copyOp] none with nbind := 0 }
    let s := fun nb => { chained (e nb) with graphs := [(2, g)] }
    let judged := fun nb => (((Claims.begun (s nb) 5 1 4).addCmd { runCmd 1 5 1 4 (e nb) with state := .started }).2.judgeRun
      { runCmd 1 5 1 4 (e nb) with state := .started }).1
    Claims.mayAct (s 0) 5 1 4 5 (e 0) = true ∧
    judged 0 = .inr (g, []) ∧ judged 1 = .inl 0xF002 ∧ (s 0).hasPlugin 1 = false ∧ (s 0).prioOk 1 g.defPrio = true ∧
    (let high := { g with defPrio := 23 }
     let s2 := { (s 0).modPart 1 (fun p => { p with record := { p.record with pmax := 22 } }) with graphs := [(2, high)] }
     let c := { runCmd 1 5 1 4 (e 0) with state := .started }
     let j := (((Claims.begun s2 5 1 4).addCmd c).2.judgeRun c)
     Claims.mayAct s2 5 1 4 5 (e 0) = true ∧ j.1 = .inr (high, []) ∧ j.2.prioOk 1 high.defPrio = false) := by decide +kernel
theorem witness_restore_and_counters :
    Claims.mayStart (chained (entry 6 0x29000 [0])) 5 1 4 6 (entry 6 0x29000 [0]) = true ∧
    (let e := { entry 7 0 [] with st := .pooled }
     Claims.mayAct (chained e) 5 1 4 7 e = true) ∧
    (let e := { entry 8 0x29000 [] with st := .pooled }
     let s := chained e
     Claims.mayAct s 5 1 4 8 e = true ∧ extentOk e.arg 64 = true ∧ (Claims.begun s 5 1 4).writeFail 1 e.arg 64 = none ∧
     ((s.part 1).bind (fun x => (Claims.begun s 5 1 4).writeVa 1 e.arg x.counters)).isSome = true) := by decide +kernel
theorem witness_entry_completion :
    let e := { entry 7 0 [] with st := .started }
    let s := chained e
    s.entry 5 1 4 = some e ∧ (s.chain 5 1).first ≤ 4 ∧ s.entryEnded 5 1 4 e = true ∧ s.cmdOfEntry 5 1 4 = none ∧ (s.chain 5 1).cseq = 4 ∧
    ((s.writeVa 1 e.result (leBytes 4 (2 ^ 31 + 2 ^ 30 * ofBool e.err + e.code % 2 ^ 16) ++ leBytes 4 e.value)).map (·.frontOut 1)) =
      some false := by
  decide +kernel

/-! ### Energy, policy, management -/

/-- What a die metered: 7,500 nJ on core 0, of which context 1 did a quarter of the work, and 2,500 nJ of links. -/
def metered : Metered :=
  { cores := [{ core := 0, energy := 7500, words := (24, 0), steps := (1, 0) }], link := 2500, flits := [(5, 3)] }
/-- Table 16-2: the energy of a whole core is charged directly to the partition that holds it, that of links by flits sent
to the sender's; a cell-step counts as 16 words in a context's share (R403). -/
theorem test_charge : (match exec (.attributionPeriodEnd 0 metered [{ ctx := 1, words := 10, steps := 0, own := 2000 }])
      { linked paged with cycles := [2 ^ 16, 0, 0, 0], carried := [999, 0, 0, 0] } with
    | .next t => Tab.read [] 0 t.charges == [[{ part := 1, direct := 8, attributed := 2 }, { part := 0, direct := 0, attributed := 0 }]] &&
        nthOr 0 t.carried 0 == 999 && t.cx.ccount == 3 && t.periods == [2 ^ 16, 0, 0, 0]
    | _ => false) = true := by decide +kernel

theorem witness_energy :
    0 < paged.periods.length ∧ 0 < paged.carried.length ∧ paged.cycle 0 < nthOr 0 paged.periods 0 + 2 ^ 16 ∧
    (let s := { paged with cycles := [2 ^ 16, 0, 0, 0], charges := [(0, [[{ part := 1, direct := 3, attributed := 4 }]])] }
     nthOr 0 s.periods 0 + 2 ^ 16 ≤ s.cycle 0 ∧ Tab.read [] 0 s.charges = [[{ part := 1, direct := 3, attributed := 4 }]] ∧
     (s.part 1).isSome = true) ∧
    paged.energy < paged.mirrored + 64000000000 ∧
    (let s := { paged with energy := 64000000000, ready := true }; s.ready = true ∧ s.mirrored + 64000000000 ≤ s.energy) := by decide +kernel
/-- A request of a signed reading to an address. -/
def reading (out : Nat) : State :=
  (linked paged).modVf 5 (fun x => { x with page := Memory.putBytes 0x220 (leBytes 8 out) (Memory.putBytes 0x228 (leBytes 4 1) []) })
theorem witness_signed_reading :
    (reading 0x20000).vf 5 = { part := 1, ports := 8, weight := 1, st := .live, page := ((reading 0x20000).vf 5).page } ∧
    bit ((reading 0x20000).pageNat 5 0x228 4) 0 = true ∧ ((reading 0x20000).vf 5).ended = none ∧ (reading 0x20000).frontOut 1 = false ∧
    (reading 0x20001).pageNat 5 0x220 8 % 256 ≠ 0 ∧
    (reading 0x20000).pageNat 5 0x220 8 = 0x20000 ∧ extentOk 0x20000 256 = true ∧ (reading 0x20000).writeFail 1 0x20000 256 = none ∧
    ((reading 0x40000000).writeFail 1 0x40000000 256).isSome = true := by decide +kernel
theorem witness_policy :
    let s := { linked (paged.modCx (fun x => { x with run := .sealed, cause := .fault, fault := some { code := 0x30, flags := 3 } })) with
               hooks := [.fault 1] }
    s.hooks.contains (.fault 1) = true ∧ s.cx.run = .sealed ∧ (s.part s.cx.part).isSome = true := by decide +kernel

/-- The management page with a request and its arguments, by offset, size and value. -/
def managing (code : Nat) (args : List (Nat × Nat × Nat)) : State :=
  { linked paged with
    ready := true,
    mgmt := args.foldl (fun m a => m.putBytes a.1 (leBytes a.2.1 a.2.2)) (Memory.putBytes 0x010 (leBytes 4 (2 ^ 31 + code)) []) }
theorem witness_management :
    (Claims.asks (managing 0x0A []) 0x0A = true ∧ (managing 0x0A []).requests = [] ∧ Claims.asks (managing 2 []) 2 = true ∧
      requestOf 2 = some .partitionDelete ∧
      (let s := { managing 2 [(0x020, 4, 1)] with requests := [(managing 8 []).mgmt] }
       Claims.asks s 2 = true ∧ s.requests.any (fun m => sameRequest m s.mgmt) = false)) ∧
    ((linked paged).vf 5).st ≠ .unassigned ∧ ((linked paged).port 3).tx0.valid = true ∧ (paged.port 63).tx0.valid = false ∧
    (paged.port 63).ret = false ∧
    (let r := { recordOf 0 [9] [(0, 0)] with id := 63, dram := [(0, 5)] }
     let s := managing 1 [(0x020, 4, 63)]
     Claims.servesOnly s 1 = true ∧ s.reqNat 0x020 4 = r.id ∧ s.recordOk r = true ∧ s.translating r.id = false ∧
     s.restripes r = false ∧ s.reroutes r = false ∧ s.recordOk { r with dram := [(0, 0)] } = false) ∧
    (let s := { managing 2 [(0x020, 4, 1)] with ctxs := [], vfs := [] }
     Claims.servesOnly s 2 = true ∧ s.reqNat 0x020 4 = 1 ∧ (s.part 1).isSome = true ∧ s.partHolds 1 = false) ∧
    (Claims.servesOnly (managing 2 [(0x020, 4, 0)]) 2 = true ∧ (managing 2 [(0x020, 4, 0)]).reqNat 0x020 4 = 0) := by decide +kernel
theorem witness_management_values :
    (let s := managing 3 [(0x020, 4, 3), (0x024, 4, 9), (0x028, 8, 5), (0x030, 8, leastThreshold 9)]
     Claims.servesOnly s 3 = true ∧ s.reqNat 0x020 4 < 4 ∧ s.reqNat 0x024 4 = 9 ∧ leastThreshold 9 ≤ s.reqNat 0x030 8) ∧
    (managing 3 [(0x020, 4, 4)]).reqNat 0x020 4 = 4 ∧
    (let s := managing 8 [(0x020, 8, 3600)]; Claims.servesOnly s 8 = true ∧ s.reqNat 0x020 8 = 3600) ∧
    (let s := managing 8 [(0x020, 8, 3601)]; 3600 < s.reqNat 0x020 8) ∧
    (let s := { managing 8 [] with requests := [(managing 8 []).mgmt, (managing 2 []).mgmt] }
     s.serves 8 = true ∧ s.requests.tail = [(managing 2 []).mgmt] ∧ ofLeBytes ((managing 2 []).mgmt.bytes 0x010 1) = 2) ∧
    (let s := (managing 9 [(0x020, 4, 3), (0x024, 4, 0)]).modPort 3 (fun x => { x with act := true })
     Claims.servesOnly s 9 = true ∧ s.reqNat 0x020 4 = 3 ∧ s.reqNat 0x024 4 = 0 ∧ (s.port 3).act = true ∧ (s.port 3).ret = false) ∧
    (managing 9 [(0x020, 4, 64)]).reqNat 0x020 4 = 64 ∧ (managing 9 [(0x024, 4, 4)]).reqNat 0x024 4 = 4 := by decide +kernel
theorem witness_attestation :
    let s := { managing 5 [(0x060, 8, 0x1000)] with running := some { svn := 1 }, attested := true, points := [7, 7, 7, 7] }
    s.running.isSome = true ∧ s.attested = true ∧ s.reqNat 0x060 8 % 64 = 0 ∧ Claims.servesOnly s 5 = true ∧
    Claims.servesOnly (managing 6 [(0x060, 8, 0x1000)]) 6 = true ∧ 0 < s.points.length ∧ 1 < nthOr 0 s.points 0 ∧
    1 < nthOr 7 s.allowed 0 := by decide +kernel
theorem witness_resets :
    State.reset.bootFails = 0 ∧ ({ State.reset with stored := { slots := [{ svn := 3 }, {}] } }).activate.stored.bootImage = some { svn := 3 } ∧
    State.reset.stored.staged = false ∧
    State.reset.ctxs.all (fun e => e.2.run != .running && e.2.run != .placed && e.2.run != .stopping) = true ∧
    paged.ctxOf 1 = some paged.cx ∧ paged.cx.run = .running := by decide +kernel

/-! ### Steps -/

theorem witness_step_word :
    let s := State.reset.place 0
    let sl := (((s.ctxOf 1).getD {}).gang 0).slice 0
    s.due = none ∧ s.turns.map (·.mover) = [.gang 1 0] ∧ s.mayIssue (1, 0) = true ∧ sl.widx = 1 ∧
    decodeWord (nthOr 0 sl.clause sl.widx) = some .nop ∧ demo.interlocked .nop = false := by decide +kernel

/-- The gang at a header whose clause, of one word, is in memory. -/
def atHeader : State :=
  { (paged.writeDram [{ at_ := 0x10000, bytes := leBytes 4 0xFE001FE1 ++ leBytes 4 0 }] []).modGg
      (fun g => g.modSlices 0xFF (fun _ sl => { sl with pc := 0x10000, hdr := 0x10000, widx := 0, clause := [] })) with
    turns := [{ mover := .gang 1 0 }] }

/-- What the fetch of the header's clause comes to when its turn has been taken. -/
def fetching (s : State) : Fetched :=
  let x := (s.ctxOf 1).getD {}
  let sl := (x.gang 0).slice 0
  let s0 : State := { s with turns := [], cycles := passTime s.cycles [] }
  let s1 : State := { s0.hadTurn (1, 0) with issue := issueOf 1 0 (x.gang 0).issues sl [] }
  s1.fetch x sl
theorem witness_step_fetch :
    atHeader.due = none ∧ atHeader.turns = [{ mover := .gang 1 0 }] ∧ atHeader.mayIssue (1, 0) = true ∧ atHeader.gg.issues = 0xFF ∧ atHeader.gg.atJoin 0xFF = [] ∧
    fetching atHeader = .clause [0xFE001FE1, 0] ∧ decodeHeader 0xFE001FE1 = some (.clauseHeader 0 15 15 1) ∧
    (match fetching { atHeader with parts := [] } with | .fault f _ _ _ => f.code != 0 | _ => false) = true := by decide +kernel
/-- A happening that is due, and one that a turn takes from the agenda. -/
theorem witness_step_happening :
    let s := { paged with energy := 64000000000, ready := true }
    let a := { paged with agenda := [.nodeDispatch], turns := [] }
    s.due = some .mirrorWrite ∧ s.frontWaits = [] ∧
    (match exec .mirrorWrite s with | .next t => t.frontMiss == [] && t.frontHeld == [] | _ => false) = true ∧ a.due = none ∧
    (match a.takeTurn.2.moveOf a.takeTurn.1.mover with
     | .happen ev s2 => ev == .nodeDispatch && s2.frontWaits == [] &&
        (match exec ev s2 with | .next t => t.frontMiss == [] && t.frontHeld == [] | _ => false)
     | _ => false) = true := by decide +kernel
theorem witness_memories : State.reset.memories = true ∧ demo.memories = true ∧ paged.memories = true := by decide +kernel
theorem witness_encode : (Instr.nop).wellFormed = true ∧ encode .nop = some 0 ∧ decode 0 = some .nop ∧ (Instr.add true 255 255 255).wellFormed = true ∧
    encode (.add true 255 255 255) = some 0x21FFFFFF ∧ decode 0x21FFFFFF = some (.add true 255 255 255) := by decide +kernel

/-! ### A firmware image that verifies -/

/-- Bytes 0x00 to 0x0F of an image of version 1 with security version 7 whose code is empty (Table 17-7). -/
def imageFront : List Byte := leBytes 4 0x4D574647 ++ leBytes 2 1 ++ leBytes 2 0 ++ leBytes 4 7 ++ leBytes 4 0

/-- Its bytes 0x00 to 0x57. -/
def signedPart : List Byte := imageFront ++ (sized 64 (sha512 []) ++ kidOf Config.firmwareKey)

/-- Its header's 512 bytes. -/
def imageHead : List Byte := signedPart ++ (signature Config.firmwareKey signedPart ++ sized 292 [])

theorem length_sized (n : Nat) (bs : List Byte) : (sized n bs).length = n := by simp [sized]
theorem length_kidOf (k : Nat) : (kidOf k).length = 8 := length_sized 8 _
theorem length_signature (k : Nat) (m : List Byte) : (signature k m).length = 132 := by simp [signature, beBytes, leBytes]
theorem length_imageFront : imageFront.length = 16 := by decide
theorem length_signedPart : signedPart.length = 88 := by
  simp only [signedPart, List.length_append, length_imageFront, length_sized, length_kidOf]
theorem length_imageHead : imageHead.length = 512 := by
  simp only [imageHead, List.length_append, length_signedPart, length_sized, length_signature]

/-- The part of joined byte strings that lies in the second of three. -/
theorem take_drop_mid (a b c : List Byte) (i n : Nat) (ha : a.length = i) (hb : b.length = n) :
    ((a ++ (b ++ c)).drop i).take n = b := by
  rw [← ha, ← hb, List.drop_left, List.take_left]

theorem test_image_verifies : imageOk imageHead [] 7 = true := by
  have h0 : ∀ off n, off + n ≤ 16 → fieldOf imageHead off n = fieldOf imageFront off n := by
    intro off n h
    unfold fieldOf imageHead signedPart
    rw [List.append_assoc, List.drop_append_of_le_length (by rw [length_imageFront]; omega),
      List.take_append_of_le_length (by rw [List.length_drop, length_imageFront]; omega)]
  have h4 : (imageHead.drop 0x10).take 64 = sized 64 (sha512 []) := by
    unfold imageHead signedPart
    rw [List.append_assoc, List.append_assoc]
    exact take_drop_mid _ _ _ 16 64 length_imageFront (length_sized _ _)
  have h5 : (imageHead.drop 0x50).take 8 = kidOf Config.firmwareKey := by
    unfold imageHead signedPart
    rw [← List.append_assoc imageFront, List.append_assoc (imageFront ++ _)]
    exact take_drop_mid _ _ _ 80 8 (by rw [List.length_append, length_imageFront, length_sized]) (length_kidOf _)
  have h6 : imageHead.take 0x58 = signedPart := by
    unfold imageHead
    rw [show 0x58 = signedPart.length from length_signedPart.symm, List.take_left]
  have h7 : (imageHead.drop 0x58).take 132 = signature Config.firmwareKey signedPart :=
    take_drop_mid _ _ _ 88 132 length_signedPart (length_signature _ _)
  unfold imageOk verifies
  rw [h4, h5, h6, h7, h0 _ _ (by decide), h0 _ _ (by decide), h0 _ _ (by decide), h0 _ _ (by decide),
    beq_self_eq_true, beq_self_eq_true, beq_self_eq_true, Bool.true_or]
  decide

/-- A request to stage an image from host memory. -/
def staging (m : Memory) : State := { managing 4 [(0x020, 8, 0x4000), (0x028, 8, 512)] with sysMem := m }
theorem sysMem_staging (m : Memory) : (staging m).sysMem = m := rfl
theorem witness_firmware_stage :
    (∀ m, Claims.servesOnly (staging m) 4 = true ∧ (staging m).reqNat 0x028 8 = 512 ∧ (staging m).reqNat 0x020 8 = 0x4000 ∧
      (staging m).stored.minSvn ≤ 7) ∧
    (staging (Memory.putBytes 0x4000 imageHead [])).sysMem.bytes 0x4000 512 = imageHead := by
  constructor
  · intro m
    exact (by decide +kernel : Claims.servesOnly (managing 4 [(0x020, 8, 0x4000), (0x028, 8, 512)]) 4 = true ∧
      (managing 4 [(0x020, 8, 0x4000), (0x028, 8, 512)]).reqNat 0x028 8 = 512 ∧
      (managing 4 [(0x020, 8, 0x4000), (0x028, 8, 512)]).reqNat 0x020 8 = 0x4000 ∧
      (managing 4 [(0x020, 8, 0x4000), (0x028, 8, 512)]).stored.minSvn ≤ 7)
  · rw [sysMem_staging]
    have h := Memory.bytes_putBytes imageHead 0x4000 []
    rwa [length_imageHead] at h

end Sys2Proof.Tests
end

/-! ## Fences and cache control (R50, R51, R191, R192, R195, R196)

PROOFS. A discard or a fill changes caches and what responses still on their way may fill; a request to a peer changes
what is on its way; an access that is entered changes the issuing gang, but none of its registers. None of the three
changes data, and the end of a word does not either. -/

namespace Sys2Proof.Machine

/-! ### Steps that change no data -/

theorem sameData_refl (s : State) : Claims.sameData s s :=
  ⟨rfl, rfl, rfl, rfl, fun _ => ⟨rfl, rfl⟩, fun _ _ _ _ => rfl⟩

theorem sameData_trans {s t u : State} (h : Claims.sameData s t) (k : Claims.sameData t u) : Claims.sameData s u := by
  obtain ⟨h1, h2, h3, h4, hw, hr⟩ := h
  obtain ⟨k1, k2, k3, k4, kw, kr⟩ := k
  exact ⟨k1.trans h1, k2.trans h2, k3.trans h3, k4.trans h4,
    fun c => ⟨(kw c).1.trans (hw c).1, (kw c).2.trans (hw c).2⟩, fun c g r l => (kr c g r l).trans (hr c g r l)⟩

/-- A posted happening changes no data. -/
theorem sameData_post (ev : Instr) (s : State) : Claims.sameData s (s.post ev) := sameData_refl s

theorem State.moves.sameData {s t : State} (h : s.moves t) : Claims.sameData s t := by
  obtain ⟨⟨e, hc⟩, hr⟩ := h
  refine ⟨by rw [e], by rw [e], by rw [e], by rw [e], fun c => ?_, hr⟩
  obtain ⟨-, hx, -, -⟩ := hc c
  exact ⟨by rw [hx], by rw [hx]⟩

theorem State.moves.core_eq {s t : State} (h : s.moves t) (n : Nat) : t.core n = s.core n := by
  unfold State.core
  rw [h.1.1]

theorem State.moves.agenda_eq {s t : State} (h : s.moves t) : t.agenda = s.agenda := by rw [h.1.1]

theorem Gang.moves.accesses_eq {a b : Gang} (h : a.moves b) : b.accesses = a.accesses := by rw [h.1.1]

theorem State.moves.accesses_eq {s t : State} (h : s.moves t) : t.gg.accesses = s.gg.accesses := by
  obtain ⟨-, -, -, hg⟩ := h.1.2 s.issue.ctx
  unfold State.gg State.cx
  rw [State.kept_issue h.1, (hg s.issue.gang).1]

/-! ### Changes of the issuing gang -/

theorem mapNth_mapNth {α : Type} (n : Nat) (f h : α → α) (l : List α) :
    mapNth n h (mapNth n f l) = mapNth n (h ∘ f) l := by
  induction l generalizing n with
  | nil => simp only [mapNth]
  | cons a t ih => cases n with
    | zero => rfl
    | succ n => simp only [mapNth, ih]

theorem Tab.update_update {α : Type} (k : Nat) (f h : α → α) (t : Tab α) :
    Tab.update k h (Tab.update k f t) = Tab.update k (h ∘ f) t := by
  unfold Tab.update
  rw [List.map_map]
  refine List.map_congr_left (fun e _ => ?_)
  cases he : Nat.beq e.1 k <;> simp only [Function.comp, he, if_true, Bool.false_eq_true, if_false]

theorem State.modGg_modGg (f h : Gang → Gang) (s : State) : (s.modGg f).modGg h = s.modGg (h ∘ f) := by
  have hc : Ctx.modGang s.issue.gang h ∘ Ctx.modGang s.issue.gang f = Ctx.modGang s.issue.gang (h ∘ f) := by
    funext x
    simp only [Function.comp, Ctx.modGang, mapNth_mapNth]
  have ht := Tab.update_update s.issue.ctx (Ctx.modGang s.issue.gang f) (Ctx.modGang s.issue.gang h) s.ctxs
  rw [hc] at ht
  exact congrArg (fun cs => { s with ctxs := cs }) ht

theorem cx_modGg {s : State} (hs : (s.ctxOf s.issue.ctx).isSome = true) (f : Gang → Gang) :
    (s.modGg f).cx = s.cx.modGang s.issue.gang f := by
  obtain ⟨x, hx⟩ := Option.isSome_iff_exists.1 hs
  unfold State.cx
  rw [State.modGg_issue, State.modGg, State.modGang, ctxOf_modCtx, if_pos rfl, hx]
  rfl

theorem gg_modGg {s : State} (h : s.canIssue = true) (f : Gang → Gang) : (s.modGg f).gg = f s.gg := by
  obtain ⟨hs, hg, -⟩ := canIssue_iff h
  show (s.modGg f).cx.gang s.issue.gang = f (s.cx.gang s.issue.gang)
  rw [cx_modGg hs, Ctx.gang, Ctx.modGang_gangs, nthOr_mapNth _ _ _ _ _ (.inl hg), if_pos rfl]
  rfl

/-- A change of a gang that leaves its registers changes no data. -/
theorem sameData_modGg {f : Gang → Gang} (hf : ∀ g, (f g).regs = g.regs) (s : State) : Claims.sameData s (s.modGg f) := by
  have hx : ∀ c, let x := (s.ctxOf c).getD {}; let y := ((s.modGg f).ctxOf c).getD {}
      y.window = x.window ∧ y.windowMarks = x.windowMarks ∧ ∀ g, (y.gang g).regs = (x.gang g).regs := by
    intro c
    rw [State.modGg, State.modGang, ctxOf_modCtx]
    split
    · cases s.ctxOf c with
      | none => exact ⟨rfl, rfl, fun _ => rfl⟩
      | some x =>
        exact ⟨rfl, rfl, fun g => rel_mapNth (R := fun a b : Gang => b.regs = a.regs) {} f x.gangs s.issue.gang g (fun _ => rfl) hf⟩
    · exact ⟨rfl, rfl, fun _ => rfl⟩
  refine ⟨rfl, rfl, rfl, rfl, fun c => ⟨(hx c).1, (hx c).2.1⟩, fun c g r l => ?_⟩
  unfold State.regAt Gang.reg
  rw [(hx c).2.2 g]

/-! ### Work in the caches -/

/-- The gang may have other levels that responses on their way may fill, and is else as before. -/
def Gang.overtaken (a b : Gang) : Prop := b = { a with accesses := b.accesses }

/-- The gangs of the context are so, and the context is else as before. -/
def Ctx.overtaken (x y : Ctx) : Prop :=
  y = { x with gangs := y.gangs } ∧ y.gangs.length = x.gangs.length ∧ ∀ g, (x.gang g).overtaken (y.gang g)

/-- All that fills and discards of cached sectors change: the caches, and what responses on their way may fill (R42,
R172). -/
def State.cacheWork (s t : State) : Prop :=
  t = { s with cores := t.cores, remoteData := t.remoteData, ctxs := t.ctxs, pendings := t.pendings } ∧
  ∀ c, (t.ctxOf c).isSome = (s.ctxOf c).isSome ∧ ((s.ctxOf c).getD {}).overtaken ((t.ctxOf c).getD {})

theorem Ctx.overtaken_refl (x : Ctx) : x.overtaken x := ⟨rfl, rfl, fun _ => rfl⟩

theorem Ctx.overtaken.trans {x y z : Ctx} (h : x.overtaken y) (k : y.overtaken z) : x.overtaken z := by
  obtain ⟨h1, h2, h3⟩ := h
  obtain ⟨k1, k2, k3⟩ := k
  refine ⟨by rw [k1, h1], k2.trans h2, fun g => ?_⟩
  have hg := h3 g
  have kg := k3 g
  unfold Gang.overtaken at hg kg ⊢
  rw [kg, hg]

theorem State.cacheWork.trans {s t u : State} (h : s.cacheWork t) (k : t.cacheWork u) : s.cacheWork u := by
  obtain ⟨h1, h2⟩ := h
  obtain ⟨k1, k2⟩ := k
  exact ⟨by rw [k1, h1], fun c => ⟨(k2 c).1.trans (h2 c).1, (h2 c).2.trans (k2 c).2⟩⟩

/-- Work in the caches that no context takes part in. -/
theorem State.cacheWork_of {s t : State}
    (h : t = { s with cores := t.cores, remoteData := t.remoteData, pendings := t.pendings }) : s.cacheWork t := by
  have hc : ∀ c, t.ctxOf c = s.ctxOf c := fun c => by rw [h]; rfl
  refine ⟨?_, fun c => by rw [hc]; exact ⟨rfl, Ctx.overtaken_refl _⟩⟩
  have hx : t.ctxs = s.ctxs := by rw [h]
  rw [hx]
  exact h

theorem State.cacheWork_refl (s : State) : s.cacheWork s := State.cacheWork_of rfl

theorem State.cacheWork_ite {c : Prop} [Decidable c] {s t u : State} (ht : s.cacheWork t) (hu : s.cacheWork u) :
    s.cacheWork (if c then t else u) := by
  split
  · exact ht
  · exact hu

theorem State.cacheWork_foldl {β : Type} (l : List β) (f : State → β → State) (hf : ∀ s b, State.cacheWork s (f s b))
    (s : State) : s.cacheWork (l.foldl f s) := by
  induction l generalizing s with
  | nil => exact s.cacheWork_refl
  | cons b l ih => exact (hf s b).trans (ih _)

theorem State.cacheWork.sameData {s t : State} (h : s.cacheWork t) : Claims.sameData s t := by
  obtain ⟨e, hc⟩ := h
  refine ⟨by rw [e], by rw [e], by rw [e], by rw [e], fun c => ?_, fun c g r l => ?_⟩ <;> obtain ⟨-, hx, -, hg⟩ := hc c
  · exact ⟨by rw [hx], by rw [hx]⟩
  · unfold State.regAt Gang.reg
    rw [hg g]

theorem State.cacheWork.issue_eq {s t : State} (h : s.cacheWork t) : t.issue = s.issue := by rw [h.1]

theorem State.cacheWork.cx_overtaken {s t : State} (h : s.cacheWork t) : s.cx.overtaken t.cx := by
  unfold State.cx
  rw [h.issue_eq]
  exact (h.2 _).2

theorem State.cacheWork.core_cx {s t : State} (h : s.cacheWork t) : t.cx.core = s.cx.core := by
  rw [h.cx_overtaken.1]

theorem State.cacheWork.nextAccess_eq {s t : State} (h : s.cacheWork t) : t.gg.nextAccess = s.gg.nextAccess := by
  obtain ⟨-, -, hg⟩ := h.cx_overtaken
  unfold State.gg
  rw [h.issue_eq, hg]

theorem State.cacheWork.canIssue_eq {s t : State} (h : s.cacheWork t) : t.canIssue = s.canIssue := by
  obtain ⟨-, hl, -⟩ := h.cx_overtaken
  unfold State.canIssue
  rw [h.issue_eq, (h.2 _).1, hl]

/-! ### Discards (R42, R196) -/

section
variable (const : Bool) (cores : Nat → Bool) (lvl : Nat) (test : Nat → Nat → Bool) (s : State)

/-- What a discard does to a context whose responses it overtakes. -/
def Ctx.keepOut (x : Ctx) : Ctx :=
  if cores x.core then { x with gangs := x.gangs.map (Gang.keepOut const lvl test) } else x

theorem Tab.find_map {α : Type} (k : Nat) (f : α → α) (t : Tab α) :
    Tab.find k (t.map (fun e => (e.1, f e.2))) = (Tab.find k t).map f := by
  induction t with
  | nil => rfl
  | cons e t ih =>
    by_cases he : Nat.beq e.1 k = true
    · simp [Tab.find, he]
    · simpa [Tab.find, he] using ih

theorem ctxOf_keepOut (c : Nat) : (s.keepOut const cores lvl test).ctxOf c =
    if s.pendings.isEmpty then s.ctxOf c else (s.ctxOf c).map (Ctx.keepOut const cores lvl test) := by
  unfold State.keepOut
  split
  · rfl
  · unfold State.ctxOf
    rw [← Tab.find_map]
    refine congrArg (Tab.find c) (List.map_congr_left (fun e _ => ?_))
    unfold Ctx.keepOut
    split <;> rfl

theorem Ctx.overtaken_keepOut (x : Ctx) : x.overtaken (x.keepOut const cores lvl test) := by
  unfold Ctx.keepOut
  split
  · exact ⟨rfl, List.length_map _, fun g => rel_map (R := Gang.overtaken) _ _ _ _ (fun _ => rfl) (fun _ => rfl)⟩
  · exact x.overtaken_refl

theorem State.cacheWork_keepOut : s.cacheWork (s.keepOut const cores lvl test) := by
  refine ⟨by unfold State.keepOut; split <;> rfl, fun c => ?_⟩
  rw [ctxOf_keepOut]
  split
  · exact ⟨rfl, Ctx.overtaken_refl _⟩
  · cases s.ctxOf c with
    | none => exact ⟨rfl, Ctx.overtaken_refl _⟩
    | some x => exact ⟨rfl, Ctx.overtaken_keepOut ..⟩

@[simp] theorem core_keepOut (n : Nat) : (s.keepOut const cores lvl test).core n = s.core n := by
  unfold State.keepOut
  split <;> rfl

end

@[simp] theorem core_modCore (n : Nat) (f : Core → Core) (s : State) : (s.modCore n f).core n = f (s.core n) :=
  Tab.read_write_self _ _ _ _

@[simp] theorem core_dropRdc (n die : Nat) (test : Nat → Sector → Bool) (s : State) :
    (s.dropRdc die test).core n = s.core n := rfl

theorem State.cacheWork_modCore (n : Nat) (f : Core → Core) (s : State) : s.cacheWork (s.modCore n f) :=
  State.cacheWork_of rfl

theorem State.cacheWork_dropRdc (die : Nat) (test : Nat → Sector → Bool) (s : State) : s.cacheWork (s.dropRdc die test) :=
  State.cacheWork_of rfl

theorem State.cacheWork_dropL1 (n : Nat) (s : State) : s.cacheWork (s.dropL1 n) :=
  (State.cacheWork_modCore _ _ s).trans (State.cacheWork_keepOut ..)

@[simp] theorem core_dropL1 (n : Nat) (s : State) : (s.dropL1 n).core n = { s.core n with l1 := [] } := by
  rw [State.dropL1, core_keepOut, core_modCore]

theorem State.cacheWork_dropConst (n : Nat) (s : State) : s.cacheWork (s.dropConst n) := by
  have h : s.cacheWork ((s.modCore n (fun c => { c with consts := [], fetched := [] })).keepOut true (· == n) 2
      (fun _ _ => true)) := (State.cacheWork_modCore ..).trans (State.cacheWork_keepOut ..)
  exact State.cacheWork_ite h (h.trans (State.cacheWork_of rfl))

@[simp] theorem core_dropConst (n : Nat) (s : State) :
    (s.dropConst n).core n = { s.core n with consts := [], fetched := [] } := by
  unfold State.dropConst
  simp only
  split
  · rw [core_keepOut, core_modCore]
  · exact (core_keepOut ..).trans (core_modCore ..)

theorem State.cacheWork_acquire (n scope : Nat) (s : State) : s.cacheWork (s.acquire n scope) := by
  have h1 : s.cacheWork (if scope = 0 then s else s.dropL1 n) :=
    State.cacheWork_ite s.cacheWork_refl (State.cacheWork_dropL1 n s)
  have h2 := State.cacheWork_ite (c := scope < 3) h1
    (h1.trans (State.cacheWork_dropRdc (dieOf n) (fun loc x => homeOf loc == .package && !x.coh) _))
  exact State.cacheWork_ite h2 (h2.trans ((State.cacheWork_dropRdc ..).trans (State.cacheWork_keepOut ..)))

/-- An acquire above core scope empties the L1 (Table 2-6). -/
theorem l1_acquire {scope : Nat} (h : scope ≠ 0) (n : Nat) (s : State) : ((s.acquire n scope).core n).l1 = [] := by
  unfold State.acquire
  simp only [if_neg h]
  split <;> split <;> simp

theorem State.cacheWork_dropLines (n : Nat) (lines : List Nat) (s : State) : s.cacheWork (s.dropLines n lines) :=
  State.cacheWork_ite s.cacheWork_refl ((State.cacheWork_modCore _ _ s).trans (State.cacheWork_keepOut ..))

theorem State.cacheWork_dropDieLines (n : Nat) (lines : List Nat) (s : State) : s.cacheWork (s.dropDieLines n lines) :=
  State.cacheWork_ite s.cacheWork_refl
    (((State.cacheWork_dropLines _ _ s).trans (State.cacheWork_dropRdc ..)).trans (State.cacheWork_keepOut ..))

/-- Dropping a line leaves the sectors of the other lines in the L1 (Table 6-7). -/
theorem l1_dropDieLines (n line : Nat) (s : State) :
    ((s.dropDieLines n [line]).core n).l1 = (s.core n).l1.filter (fun e => e.1 / 4 != line) := by
  have hl : ∀ e : Nat × Sector, (!([line].contains (e.1 / 4))) = (e.1 / 4 != line) := fun e => by
    rw [List.contains_cons, List.contains_nil, Bool.or_false, bne]
  simp only [State.dropDieLines, State.dropLines, List.isEmpty_cons, Bool.false_eq_true, if_false, core_keepOut,
    core_dropRdc, core_modCore, hl]

/-- The line of every place of a list leaves the issuing core's L1 and its die's remote-data cache (R196). -/
def State.dropPlaces (ps : List (Nat × Place)) (s : State) : State :=
  ps.foldl (fun u e => u.dropDieLines u.cx.core [e.2.loc / 128]) s

theorem State.cacheWork_dropPlaces (ps : List (Nat × Place)) (s : State) : s.cacheWork (s.dropPlaces ps) :=
  State.cacheWork_foldl _ _ (fun _ _ => State.cacheWork_dropDieLines ..) s

/-- Once the lines of places are dropped, the L1 holds no sector of one of them. -/
theorem l1_dropPlaces (ps : List (Nat × Place)) (s : State) :
    ∀ q ∈ ((s.dropPlaces ps).core s.cx.core).l1,
      q ∈ (s.core s.cx.core).l1 ∧ ∀ e ∈ ps, q.1 / 4 ≠ e.2.loc / 128 := by
  induction ps generalizing s with
  | nil => exact fun q hq => ⟨hq, by simp⟩
  | cons p ps ih =>
    intro q hq
    have hcore := (State.cacheWork_dropDieLines s.cx.core [p.2.loc / 128] s).core_cx
    have hstep := ih (s.dropDieLines s.cx.core [p.2.loc / 128]) q (by rw [hcore]; exact hq)
    rw [hcore, l1_dropDieLines, List.mem_filter, bne_iff_ne] at hstep
    obtain ⟨⟨hold, hp⟩, hps⟩ := hstep
    exact ⟨hold, List.forall_mem_cons.2 ⟨hp, hps⟩⟩

/-! ### Fills (R172) -/

theorem State.cacheWork_fillSector (core loc cache : Nat) (x : Sector) (s : State) :
    s.cacheWork (s.fillSector core loc cache x) := by
  have h1 : s.cacheWork (if cache = 2 || homedOn loc (dieOf core) then s
      else s.modRdc (dieOf core) (Tab.set (sectorOf loc) x)) :=
    State.cacheWork_ite s.cacheWork_refl (State.cacheWork_of rfl)
  exact State.cacheWork_ite (h1.trans (State.cacheWork_modCore ..)) h1

theorem State.cacheWork_readSector (core loc : Nat) (l : Leaf) (s : State) : s.cacheWork (s.readSector core loc l).2 := by
  unfold State.readSector
  split
  · exact s.cacheWork_refl
  · exact State.cacheWork_fillSector ..

theorem State.cacheWork_fetchLine (core : Nat) (p : Place) (cache : Nat) (s : State) :
    s.cacheWork (s.fetchLine core p cache) :=
  State.cacheWork_foldl _ _ (fun _ _ => State.cacheWork_readSector ..) s

/-! ### Requests of commands to peers (R352, R354) -/

/-- All that the requests of commands change: the commands, and what is on its way to peers. -/
def State.linkWork (s t : State) : Prop :=
  t = { s with agenda := t.agenda, cmds := t.cmds, ports := t.ports, vfs := t.vfs, pendings := t.pendings,
               lostCount := t.lostCount }

theorem State.linkWork_refl (s : State) : s.linkWork s := rfl

theorem State.linkWork.trans {s t u : State} (h : s.linkWork t) (k : t.linkWork u) : s.linkWork u := by
  unfold State.linkWork at *
  rw [k, h]

theorem State.linkWork_foldl {β : Type} (l : List β) (f : State → β → State) (hf : ∀ s b, State.linkWork s (f s b))
    (s : State) : s.linkWork (l.foldl f s) := by
  induction l generalizing s with
  | nil => exact s.linkWork_refl
  | cons b l ih => exact (hf s b).trans (ih _)

theorem State.linkWork.sameData {s t : State} (h : s.linkWork t) : Claims.sameData s t := by
  rw [h]
  exact sameData_refl s

theorem State.linkWork.core_eq {s t : State} (h : s.linkWork t) (n : Nat) : t.core n = s.core n := by
  rw [h]
  rfl

theorem State.linkWork_modCmd (k : Nat) (f : Cmd → Cmd) (s : State) : s.linkWork (s.modCmd k f) := rfl

theorem State.linkWork_lose (s : State) : s.linkWork { s with lostCount := s.lostCount + 1 } := rfl

theorem State.linkWork_request (r : Route) (use : TagUse) (tk vc : Nat) (payload : List Byte) (s : State) :
    s.linkWork (s.request r use tk vc payload).2 := rfl

theorem State.linkWork_sendRead (k part : Nat) (r : RemotePart) (s : State) : s.linkWork (s.sendRead k part r) := by
  unfold State.sendRead
  split
  · exact s.linkWork_lose.trans (State.linkWork_modCmd ..)
  · exact (State.linkWork_request ..).trans (State.linkWork_modCmd ..)

theorem State.linkWork_sendArrived (k part : Nat) (o : Outgoing) (s : State) : s.linkWork (s.sendArrived k part o) := by
  unfold State.sendArrived
  simp only
  split
  · exact s.linkWork_lose.trans (State.linkWork_modCmd ..)
  · exact (State.linkWork_request ..).trans (State.linkWork_modCmd ..)

theorem State.linkWork_sendWrite (k part : Nat) (o : Outgoing) (s : State) : s.linkWork (s.sendWrite k part o) := by
  unfold State.sendWrite
  split
  · exact State.linkWork_sendArrived ..
  · simp only
    split
    · exact s.linkWork_lose.trans (State.linkWork_modCmd ..)
    · exact (State.linkWork_request ..).trans (State.linkWork_modCmd ..)

theorem State.linkWork_pump (k n : Nat) (s : State) : s.linkWork (s.pump k n) := by
  induction n generalizing s with
  | zero => exact s.linkWork_refl
  | succ n ih =>
    unfold State.pump
    simp only
    refine (State.linkWork_modCmd k Cmd.halt s).trans ?_
    generalize s.modCmd k Cmd.halt = t
    split
    · exact t.linkWork_refl
    · split
      · exact t.linkWork_refl
      · split
        · exact ((State.linkWork_modCmd ..).trans (State.linkWork_sendRead ..)).trans (ih _)
        · exact ((State.linkWork_modCmd ..).trans (State.linkWork_sendWrite ..)).trans (ih _)
        · exact t.linkWork_refl

theorem State.linkWork_gather (k : Nat) (c : Cmd) (x : Ctx) (s : State) : s.linkWork (s.gather k c x) := by
  unfold State.gather State.askReads State.pumpCmd
  exact ((State.linkWork_modCmd ..).trans (State.linkWork_modCmd ..)).trans (State.linkWork_pump ..)

theorem State.linkWork_dropStaged (core : Nat) (s : State) : s.linkWork (s.dropStaged core) :=
  State.linkWork_foldl _ _ (fun _ _ => State.linkWork_gather ..) s

/-! ### Entering an access without a result (R67-R69) -/

/-- A new access of the gang: its flags count it and its registers are pending. -/
def Gang.enterAccess (a : Access) (g : Gang) : Gang :=
  let g1 := (g.countFlag a.flagA).countFlag a.flagB
  { g1 with
    accesses := Tab.set g.nextAccess a g1.accesses, nextAccess := g.nextAccess + 1,
    pend := (List.range a.width).foldl (fun p i => NatSet.add (a.dest + i) p) g1.pend }

theorem Gang.countFlag_eq (o : Option Nat) (g : Gang) : g.countFlag o = { g with flags := (g.countFlag o).flags } := by
  unfold Gang.countFlag
  split <;> rfl

theorem Gang.regs_enterAccess (a : Access) (g : Gang) : (g.enterAccess a).regs = g.regs := by
  show ((g.countFlag a.flagA).countFlag a.flagB).regs = g.regs
  rw [Gang.countFlag_eq, Gang.countFlag_eq]

theorem Gang.uncountFlag_eq (o : Option Nat) (n : Nat) (g : Gang) :
    g.uncountFlag o n = { g with flags := (g.uncountFlag o n).flags } := by
  unfold Gang.uncountFlag
  split <;> rfl

theorem Gang.regs_settleFlags (k : Nat) (a : Access) (g : Gang) : (g.settleFlags k a).regs = g.regs := by
  unfold Gang.settleFlags
  simp only
  rw [Gang.uncountFlag_eq, Gang.uncountFlag_eq]

theorem Gang.moves_wakeFlags (g : Gang) : g.moves g.wakeFlags := g.moves_wakeSlices.trans (Gang.moves_choose _)

theorem canIssue_modGg {s : State} (h : s.canIssue = true) (f : Gang → Gang) : (s.modGg f).canIssue = true := by
  obtain ⟨hs, hg, hu⟩ := canIssue_iff h
  have hi : ((s.modGg f).ctxOf s.issue.ctx).isSome = true := by
    rw [State.modGg, State.modGang, ctxOf_modCtx, if_pos rfl, Option.isSome_map]
    exact hs
  have hl : s.issue.gang < (s.modGg f).cx.gangs.length := by
    rw [cx_modGg hs, Ctx.modGang_gangs, length_mapNth]
    exact hg
  simp [State.canIssue, hi, hl, hu]

/-- An access whose loss is no fault leaves no loss (R197). -/
theorem lossesAtOnce_of_not_silent {s : State} {k : Nat} {a : Access} (hf : Tab.find k s.gg.accesses = some a)
    (hq : a.silent = false) : s.lossesAtOnce k = s := by
  simp [State.lossesAtOnce, hf, hq]

/-- An access whose part here is still to be completed stays: only its flags are told what is done of it (R67, R68). -/
theorem settleAccess_of_home {s : State} (h : s.canIssue = true) {k : Nat} {a : Access}
    (hf : Tab.find k s.gg.accesses = some a) (hh : a.home = true) :
    s.settleAccess s.issue.ctx s.issue.gang k = s.modGg (Gang.wakeFlags ∘ Gang.settleFlags k a) := by
  obtain ⟨x, hx⟩ := Option.isSome_iff_exists.1 (canIssue_iff h).1
  have hcx : s.cx = x := by rw [State.cx, hx, Option.getD_some]
  have hfx : Tab.find k (x.gang s.issue.gang).accesses = some a := by rw [← hcx]; exact hf
  have hd : a.done = false := by simp [Access.done, hh]
  rw [← State.modGg_modGg]
  simp only [State.settleAccess, hx, hfx, hh, hd, if_true, Bool.false_eq_true, if_false]
  rfl

theorem accesses_settled {k : Nat} {a : Access} {g : Gang} (hf : Tab.find k g.accesses = some a) :
    ∃ x, Tab.find k (g.settleFlags k a).wakeFlags.accesses = some x ∧ x.kind = a.kind := by
  rw [(Gang.moves_wakeFlags _).accesses_eq, Gang.settleFlags]
  simp only [Tab.find_update_self, hf, Option.map_some]
  exact ⟨_, rfl, rfl⟩

/-- Entering an access whose part here is still to be completed, and whose loss is no fault, changes the issuing gang
alone and none of its registers; the access is then under the gang's next number. -/
theorem openAccess_spec {s : State} (h : s.canIssue = true) {a : Access} (hh : a.home = true) (hq : a.silent = false)
    (countA countB : Bool) :
    ∃ f : Gang → Gang, s.openAccess a countA countB = s.modGg f ∧ (∀ g, (f g).regs = g.regs) ∧
      ∃ x, Tab.find s.gg.nextAccess (f s.gg).accesses = some x ∧ x.kind = a.kind := by
  obtain ⟨a1, ha⟩ : ∃ a1 : Access, a1 = { a with
      flagA := if countA then s.clauseFlags.1 else none, flagB := if countB then s.clauseFlags.2 else none,
      lossB := if countB then s.clauseFlags.2 else none } := ⟨_, rfl⟩
  have hopen : s.openAccess a countA countB = ((s.modGg (Gang.enterAccess a1)).lossesAtOnce s.gg.nextAccess).settleAccess
      s.issue.ctx s.issue.gang s.gg.nextAccess := by rw [ha]; rfl
  have hnew : Tab.find s.gg.nextAccess (s.gg.enterAccess a1).accesses = some a1 := Tab.find_set_self ..
  have hfind : Tab.find s.gg.nextAccess (s.modGg (Gang.enterAccess a1)).gg.accesses = some a1 := by
    rw [gg_modGg h]
    exact hnew
  have hsettle := settleAccess_of_home (canIssue_modGg h (Gang.enterAccess a1)) hfind (by rw [ha]; exact hh)
  refine ⟨(Gang.wakeFlags ∘ Gang.settleFlags s.gg.nextAccess a1) ∘ Gang.enterAccess a1, ?_, fun g => ?_, ?_⟩
  · rw [hopen, lossesAtOnce_of_not_silent hfind (by rw [ha]; exact hq), ← State.modGg_modGg]
    exact hsettle
  · exact ((Gang.moves_wakeFlags _).2.trans (Gang.regs_settleFlags ..)).trans (Gang.regs_enterAccess ..)
  · obtain ⟨x, hx, hk⟩ := accesses_settled hnew
    exact ⟨x, hx, by rw [hk, ha]⟩

/-! ### What a quiet gang's fence waits for -/

theorem quiet_iff {s : State} : Claims.quiet s = true ↔ s.gg.accesses = [] ∧ s.gg.lost = [] := by
  simp [Claims.quiet]

theorem loadsOut_of_quiet {s : State} (h : Claims.quiet s = true) (slices : Nat) : s.gg.loadsOut slices = false := by
  rw [Gang.loadsOut, (quiet_iff.1 h).1, List.any_nil]

theorem drainWrites_of_quiet {s : State} (h : Claims.quiet s = true) (scope slices : Nat) (act : State → State) :
    s.drainWrites scope slices act = act s := by
  rw [State.drainWrites, Gang.unacked, (quiet_iff.1 h).1, List.any_nil, if_neg Bool.false_ne_true]

theorem takeLost_of_quiet {s : State} (h : Claims.quiet s = true) (slices : Nat) : s.takeLost slices = none := by
  rw [State.takeLost, (quiet_iff.1 h).2, List.find?_nil]

/-- A release of a gang with nothing outstanding goes on at once (R191). -/
theorem released_of_quiet {s : State} (h : Claims.quiet s = true) (scope slices : Nat) (act : State → State) :
    s.released scope slices act = act s := by
  rw [State.released, takeLost_of_quiet h, ite_self]
  exact drainWrites_of_quiet h ..

/-- FENCE with nothing outstanding: its acquire, then the next word. -/
theorem exec_fence_of_quiet {s : State} (h : Claims.quiet s = true) (sem scope : BitVec 3) :
    exec (.fence sem scope) s =
      .next ((if semAcquires sem then s.acquire s.cx.core scope.toNat else s).endWord) := by
  show execFence sem scope s = _
  unfold execFence
  simp only [released_of_quiet h, loadsOut_of_quiet h, Bool.false_eq_true, if_false, ite_self]
  split <;> rfl

/-- What PFENCE drops of the paths that it names (Table 2-6). -/
def State.dropPaths (paths : BitVec 4) (s : State) : State :=
  let s1 := if paths.getLsbD 0 || paths.getLsbD 3 then s.dropL1 s.cx.core else s
  let s2 := if paths.getLsbD 1 then s1.dropConst s.cx.core else s1
  if paths.getLsbD 2 then s2.dropStaged s.cx.core else s2

/-- PFENCE with nothing outstanding: it drops what its paths hold, then the next word. -/
theorem exec_pfence_of_quiet {s : State} (h : Claims.quiet s = true) (paths : BitVec 4) (scope : BitVec 3) :
    exec (.pfence paths scope) s = .next (s.dropPaths paths).endWord := by
  show execPfence paths scope s = _
  unfold execPfence
  simp only [drainWrites_of_quiet h, loadsOut_of_quiet h, Bool.false_eq_true, if_false]
  rfl

/-- PFENCE's discards change no data and empty the L1 and the constant cache as the paths say. -/
theorem dropPaths_spec (paths : BitVec 4) (s : State) :
    Claims.sameData s (s.dropPaths paths) ∧
    (paths.getLsbD 0 = true ∨ paths.getLsbD 3 = true → ((s.dropPaths paths).core s.cx.core).l1 = []) ∧
    (paths.getLsbD 1 = true → ((s.dropPaths paths).core s.cx.core).consts = []) := by
  obtain ⟨s1, h1⟩ : ∃ s1, s1 = if paths.getLsbD 0 || paths.getLsbD 3 then s.dropL1 s.cx.core else s := ⟨_, rfl⟩
  obtain ⟨s2, h2⟩ : ∃ s2, s2 = if paths.getLsbD 1 then s1.dropConst s.cx.core else s1 := ⟨_, rfl⟩
  have hc : s.cacheWork s2 := by
    have hc1 : s.cacheWork s1 := h1 ▸ State.cacheWork_ite (State.cacheWork_dropL1 ..) s.cacheWork_refl
    exact h2 ▸ State.cacheWork_ite (hc1.trans (State.cacheWork_dropConst ..)) hc1
  have hl : s2.linkWork (s.dropPaths paths) := by
    simp only [State.dropPaths, ← h1, ← h2]
    split
    · exact State.linkWork_dropStaged ..
    · exact s2.linkWork_refl
  rw [hl.core_eq]
  refine ⟨sameData_trans hc.sameData hl.sameData, fun hp => ?_, fun hp => ?_⟩
  · have hl1 : (s1.core s.cx.core).l1 = [] := by
      rw [h1, if_pos (by simpa using hp), core_dropL1]
    rw [h2]
    split
    · rw [core_dropConst]
      exact hl1
    · exact hl1
  · rw [h2, if_pos hp, core_dropConst]

/-! ### PREF and CCTL (R195, R196) -/

/-- A line word with a lane enabled and its pair below REGS acts on its lanes' lines. -/
theorem lineWord_passes {s : State} (h : s.canIssue = true) (hl : s.enabledLanes ≠ []) {a : BitVec 8}
    (ha : a.toNat + 2 ≤ s.cx.regsN) (l : Bool) (act : List (Nat × Place) → State → State × Bool) :
    s.lineWord l a act = endIssued l a.toNat 2 (act (s.lineLanes a) s) := by
  have hr : s.regRange [pairField a] false = none := regRange_inRange (by simpa [State.inRange, pairField] using ha)
  simp only [State.lineWord, if_neg hl, hr, State.checked, State.struck, (canIssue_iff h).2.2]

/-- A line word that works in the caches, enters an access and posts its completion changes no data; the caches stay as
that work leaves them. -/
theorem lineAccess_spec {s u : State} (h : s.canIssue = true) (hu : s.cacheWork u) {acc : Access} (hh : acc.home = true)
    (hq : acc.silent = false) (countA countB : Bool) (ev : Instr) (l : Bool) (a n : Nat) :
    let t := ((u.openAccess acc countA countB).post ev).endWordL l a n
    Claims.sameData s t ∧ (∃ x, Claims.entered s t x ∧ x.kind = acc.kind) ∧ ev ∈ t.agenda ∧ ∀ c, t.core c = u.core c := by
  have hi : u.canIssue = true := hu.canIssue_eq.trans h
  obtain ⟨f, hf, hregs, x, hx, hk⟩ := openAccess_spec hi hh hq countA countB
  rw [hf]
  intro t
  have hm : ((u.modGg f).post ev).moves t := State.moves_endWordL ..
  refine ⟨?_, ⟨x, ?_, hk⟩, ?_, fun c => hm.core_eq c⟩
  · exact sameData_trans hu.sameData (sameData_trans (sameData_modGg hregs u) (sameData_trans (sameData_post ev _) hm.sameData))
  · have hacc : t.gg.accesses = (f u.gg).accesses := by
      rw [hm.accesses_eq]
      exact congrArg Gang.accesses (gg_modGg hi f)
    rw [Claims.entered, hacc, ← hu.nextAccess_eq]
    exact hx
  · rw [hm.agenda_eq]
    exact List.mem_append_right _ (List.mem_singleton_self ev)

/-- The access of a CCTL of lines. -/
def cctlAccess (slices : Nat) : Access :=
  { kind := .cctl, slices := slices, dest := 0, width := 0, size := 128, scope := 0, acquire := false, home := true,
    sys := true, nearB := true }

/-- The access of a PREF of lines of which none is at a peer. -/
def prefAccess (slices : Nat) (ps : List (Nat × Place)) : Access :=
  { kind := .prefetch, slices := slices, dest := 0, width := 0, size := 128, scope := 0, acquire := false, home := true,
    sys := ps.any (fun e => homeOf e.2.loc == .sys), nearB := ps.any (fun e => homeOf e.2.loc == .sys) }

/-- PREF reads the lines of places into the caches that its level and their pages name (R195). -/
def State.fetchLines (lev : BitVec 1) (ps : List (Nat × Place)) (s : State) : State :=
  ps.foldl (fun u e =>
    u.fetchLine u.cx.core e.2 (if lev = 1 then Nat.max 1 e.2.leaf.cache else e.2.leaf.cache)) s

theorem State.cacheWork_fetchLines (lev : BitVec 1) (ps : List (Nat × Place)) (s : State) : s.cacheWork (s.fetchLines lev ps) :=
  State.cacheWork_foldl _ _ (fun _ _ => State.cacheWork_fetchLine ..) s

section
variable {s : State} (h : s.canIssue = true) (hl : s.enabledLanes ≠ []) {a : BitVec 8} (ha : a.toNat + 2 ≤ s.cx.regsN)
  (l : Bool)
include h hl ha

/-- CCTL of a line: it works in the caches as its action does on each lane's line, and enters an access. -/
theorem cctl_spec {act : Place → State → State} (hact : ∀ p t, State.cacheWork t (act p t)) :
    let t := s.cctl l a act
    Claims.sameData s t ∧ (∃ x, Claims.entered s t x ∧ x.kind = .cctl) ∧
      ∀ c, t.core c = ((s.lineLanes a).foldl (fun u e => act e.2 u) s).core c := by
  have hu : s.cacheWork ((s.lineLanes a).foldl (fun u e => act e.2 u) s) :=
    State.cacheWork_foldl _ _ (fun t (e : Nat × Place) => hact e.2 t) s
  intro t
  have ht : t = _ := lineWord_passes h hl ha l _
  rw [ht]
  obtain ⟨hd, hx, -, hc⟩ := lineAccess_spec h hu (acc := cctlAccess s.issue.slices) rfl rfl
    ((s.lineLanes a).any (fun e => homeOf e.2.loc == .package)) ((s.lineLanes a).any (fun e => homeOf e.2.loc != .package))
    (.storeAcknowledgement s.issue.ctx s.issue.gang s.gg.nextAccess) l a.toNat 2
  exact ⟨hd, hx, hc⟩

/-- PREF of lines of which none is at a peer: it fills the caches, enters an access and posts its completion. -/
theorem exec_pref_near (hroom : s.tagRoom 0 = true) (lev : BitVec 1)
    (hnear : (s.lineLanes a).all (fun e => homeOf e.2.loc != .fabric) = true) :
    exec (.pref l lev a) s = .next ((((s.fetchLines lev (s.lineLanes a)).openAccess
      (prefAccess s.issue.slices (s.lineLanes a)) ((s.lineLanes a).any (fun e => homeOf e.2.loc == .package))
      ((s.lineLanes a).any (fun e => homeOf e.2.loc != .package))).post
      (.loadCompletion s.issue.ctx s.issue.gang s.gg.nextAccess)).endWordL l a.toNat 2) := by
  have hkeep : (s.lineLanes a).filter (fun e => homeOf e.2.loc != .fabric) = s.lineLanes a :=
    List.filter_eq_self.2 (List.all_eq_true.1 hnear)
  have hfar : (s.lineLanes a).filter (fun e => homeOf e.2.loc == .fabric) = [] :=
    List.filter_eq_nil_iff.2 (fun e he => by simpa using List.all_eq_true.1 hnear e he)
  show execPref l lev a s = _
  rw [execPref, lineWord_passes h hl ha]
  simp only [hkeep, hfar, List.map_nil, List.eraseDups_nil, List.length_nil, hroom, Bool.not_true, Bool.false_eq_true,
    if_false, State.askAll, endIssued, if_true]
  rfl

end

/-! ### The claim -/

section
variable (s : State) (l : Bool) (a : BitVec 8) (sem scope : BitVec 3) (paths : BitVec 4) (lev : BitVec 1)

/-- FENCE of a gang with nothing outstanding changes no data; an acquire above core scope empties the L1 (R50, R191). -/
theorem fence_result (hq : Claims.quiet s = true) :
    ∃ t, exec (.fence sem scope) s = .next t ∧ Claims.sameData s t ∧
      (semAcquires sem = true → scope ≠ 0 → (t.core s.cx.core).l1 = []) := by
  have hc : s.cacheWork (if semAcquires sem then s.acquire s.cx.core scope.toNat else s) :=
    State.cacheWork_ite (State.cacheWork_acquire ..) s.cacheWork_refl
  have hm := State.moves_endWord (if semAcquires sem then s.acquire s.cx.core scope.toNat else s)
  refine ⟨_, exec_fence_of_quiet hq sem scope, sameData_trans hc.sameData hm.sameData, fun ha hs => ?_⟩
  rw [hm.core_eq, if_pos ha]
  exact l1_acquire (fun h0 => hs (BitVec.eq_of_toNat_eq h0)) ..

/-- PFENCE of a gang with nothing outstanding changes no data and empties the caches of its paths (R51, R192). -/
theorem pfence_result (hq : Claims.quiet s = true) :
    ∃ t, exec (.pfence paths scope) s = .next t ∧ Claims.sameData s t ∧
      (paths.getLsbD 0 = true ∨ paths.getLsbD 3 = true → (t.core s.cx.core).l1 = []) ∧
      (paths.getLsbD 1 = true → (t.core s.cx.core).consts = []) := by
  obtain ⟨hd, hl1, hconst⟩ := dropPaths_spec paths s
  have hm := State.moves_endWord (s.dropPaths paths)
  refine ⟨_, exec_pfence_of_quiet hq paths scope, sameData_trans hd hm.sameData, ?_, ?_⟩ <;> rw [hm.core_eq]
  · exact hl1
  · exact hconst

/-- CCTL invl1 with a lane enabled changes no data and empties the L1 (R196). -/
theorem cctlInvl1_result (hl : s.enabledLanes ≠ []) :
    ∃ t, exec .cctlInvl1 s = .next t ∧ Claims.sameData s t ∧ (t.core s.cx.core).l1 = [] := by
  have hx : exec .cctlInvl1 s = .next (s.dropL1 s.cx.core).endWord := by
    show execCctlInvl1 s = _
    rw [execCctlInvl1, if_neg hl]
  have hm := State.moves_endWord (s.dropL1 s.cx.core)
  refine ⟨_, hx, sameData_trans (State.cacheWork_dropL1 ..).sameData hm.sameData, ?_⟩
  rw [hm.core_eq, core_dropL1]

section
variable (h : s.canIssue = true) (hl : s.enabledLanes ≠ []) (ha : a.toNat + 2 ≤ s.cx.regsN)
include h hl ha

/-- CCTL inv changes no data, takes the lines of its lanes out of the L1 and enters an access (R196). -/
theorem cctlInv_result :
    ∃ t x, exec (.cctlInv l a) s = .next t ∧ Claims.sameData s t ∧ Claims.entered s t x ∧ x.kind = .cctl ∧
      ∀ e ∈ s.lineLanes a, ∀ q ∈ (t.core s.cx.core).l1, q.1 / 4 ≠ e.2.loc / 128 := by
  obtain ⟨hd, ⟨x, hx, hk⟩, hcore⟩ := cctl_spec h hl ha l (act := fun p t => t.dropDieLines t.cx.core [p.loc / 128])
    (fun _ _ => State.cacheWork_dropDieLines ..)
  refine ⟨_, x, rfl, hd, hx, hk, fun e he q hq => ?_⟩
  rw [hcore] at hq
  exact (l1_dropPlaces (s.lineLanes a) s q hq).2 e he

/-- CCTL wb changes no data and enters an access (R196). -/
theorem cctlWb_result :
    ∃ t x, exec (.cctlWb l a) s = .next t ∧ Claims.sameData s t ∧ Claims.entered s t x ∧ x.kind = .cctl := by
  obtain ⟨hd, ⟨x, hx, hk⟩, -⟩ := cctl_spec h hl ha l (act := fun _ t => t) (fun _ t => t.cacheWork_refl)
  exact ⟨_, x, rfl, hd, hx, hk⟩

/-- PREF of lines of which none is at a peer changes no data and enters an access that completes later (R195). -/
theorem pref_result (hroom : s.tagRoom 0 = true)
    (hnear : (s.lineLanes a).all (fun e => homeOf e.2.loc != .fabric) = true) :
    ∃ t x, exec (.pref l lev a) s = .next t ∧ Claims.sameData s t ∧ Claims.entered s t x ∧ x.kind = .prefetch ∧
      Instr.loadCompletion s.issue.ctx s.issue.gang s.gg.nextAccess ∈ t.agenda := by
  obtain ⟨hd, ⟨x, hx, hk⟩, hev, -⟩ := lineAccess_spec h (State.cacheWork_fetchLines lev (s.lineLanes a) s)
    (acc := prefAccess s.issue.slices (s.lineLanes a)) rfl rfl
    ((s.lineLanes a).any (fun e => homeOf e.2.loc == .package)) ((s.lineLanes a).any (fun e => homeOf e.2.loc != .package))
    (.loadCompletion s.issue.ctx s.issue.gang s.gg.nextAccess) l a.toNat 2
  exact ⟨_, x, exec_pref_near h hl ha l hroom lev hnear, hd, hx, hk, hev⟩

end

end

/-- Settles O39: fences and cache control do work in the caches, send requests of staged commands or enter an access,
and none of the three changes data. -/
theorem fenceAndCacheResults : Obligations.FenceAndCacheResults := by
  unfold Obligations.FenceAndCacheResults
  intro s l a sem scope paths lev h
  refine ⟨fun hq => ⟨fence_result s sem scope hq, pfence_result s scope paths hq⟩, fun hl => ⟨cctlInvl1_result s hl, ?_⟩⟩
  intro ha hroom
  exact ⟨cctlInv_result s l a h hl ha, cctlWb_result s l a h hl ha, pref_result s l a lev h hl ha hroom⟩

end Sys2Proof.Machine
